-- ==== Sys2Proof/Word.lean ====
section
/-! DEFINITION. The word types of the VRK-1024 model, and the sparse tables that hold its large stores. -/

namespace Sys2Proof

abbrev Byte := BitVec 8
abbrev W32 := BitVec 32
abbrev W64 := BitVec 64

/-- A sparse table: entries in strictly rising key order, none equal to what an unlisted key reads as. -/
abbrev Sp (α : Type) := List (Nat × α)

end Sys2Proof
end

