-- ==== Sys2Proof/Syntax.lean ====
section
/-! DEFINITION. The commands of the block: one constructor of `Instr` per row of the table of operations
and events, with the operands that the row's rule gives it. What the outside world supplies (data that a host
returns, blocks on a lane, a reading of a sensor, an upset that strikes a store) is an operand. -/

namespace Sys2Proof

/-- Who makes a register access: a host port, or the SMBus sideband (R26). -/
inductive Src where
  | port (p : Fin 4)
  | sideband
  deriving DecidableEq, Repr

/-- The page functions of the page index (R41). -/
inductive PageKind where
  | devCap | glbCtrl | glbFuse | plv | seu | glbCarve
  | tkgSrc | tkgWin | tkgOvr
  | hptLink | hptXlate | hptEvent | hptPace
  | ctx | qdb
  | slcCap | slcSeq | slcPerf | slcHealth | slcTb | slcPort | slcExt
  | stkCap | stkMcr | stkRefresh | stkEcc | stkBu | stkCh
  | sibCap | sibRx | sibTx | sibGrp | sibTrig
  | clove | anise | fru | pattern | health
  | mgtSense | mgtClk | mgtGov | mgtLimit | mgtSideband
  deriving DecidableEq, Repr

/-- A page: its function, its instance (port, slot, queue, slice, stack or group), and the channel for `stkCh`. -/
structure Page where
  kind : PageKind
  inst : Nat := 0
  sub : Nat := 0
  deriving DecidableEq, Repr

/-- BAR 2 (linear view) or BAR 4 (bank-local view), R89. -/
inductive Aperture where
  | linear | bank
  deriving DecidableEq, Repr

/-- One bank unit of the 1,024 (R90). -/
structure BuId where
  stack : Fin 4
  chan : Fin 16
  bank : Fin 16
  deriving DecidableEq, Repr

/-- A stored bit that an upset has flipped: bits 0 to 255 are data, 256 to 271 check bits (R103). -/
structure Flip where
  unit : Nat
  bit : Nat
  deriving DecidableEq, Repr

/-- What the port check of one region reads and finds: the identification word, the loop-backs and the echo, and the manifest words with their
byte parity, `EXT_MAN_DATA` and `EXT_MAN_PAR` (R85, R141, R145, R154). -/
structure PortAnswer where
  ident : W32
  memLoop : Bool
  resLoop : Bool
  echo : Bool
  manifest : List W32
  manPar : List (BitVec 4)
  deriving DecidableEq, Repr

/-- A unit of the register files: a scalar register by its code of R225, or a lane of a vector register (R360). -/
inductive RegHit where
  | scalar (code : Nat)
  | lane (r l : Nat)
  deriving DecidableEq, Repr

/-- Parity failures that the checks inside a bundle detect: in a tile buffer, in an accumulator bank, in the registers it reads (R360 points 0x4,
0x5 and 0x7). -/
structure Upset where
  tileBuf : Bool := false
  accum : Bool := false
  regs : List RegHit := []
  deriving DecidableEq, Repr

/-- The signals of one extension response (R145): `EXT_RSP_TAG`, `EXT_RSP_LANE_VALID`, `EXT_RSP_DATA` with the parity of its bytes lane by lane,
`EXT_RSP_CPAR` and `EXT_RSP_ERR`. -/
structure ExtRsp where
  tag : BitVec 4
  lanes : W64
  data : List W32
  par : List (BitVec 4)
  cpar : Bool
  err : Bool
  deriving DecidableEq, Repr

/-- How a port is lost (R39, R321, R410). -/
inductive Loss where
  | linkDown | flr | perst
  deriving DecidableEq, Repr

/-- What a teardown runs for: a whole port, or one context slot (R298, R321). -/
inductive TearTarget where
  | port (p : Fin 4)
  | slot (c : Fin 64)
  deriving DecidableEq, Repr

/-- One telemetry sample: 41 temperatures in 1/8 °C, and the rails in mV, 0.1 A and 0.1 W (R430, R431). -/
structure Sample where
  temps : List Int
  milliVolts : List Nat
  vccio : List Nat
  deciAmps : List Nat
  deciWatts : Nat
  deriving DecidableEq, Repr

/-- A reference clock that the MGT monitors (R417, R418). -/
inductive RefClk where
  | sys
  | stref (k : Fin 2)
  | pcie (p : Fin 4)
  deriving DecidableEq, Repr

/-- The ramped rails, in the coding of R378 (VCCIO banks are telemetry only). -/
inductive Rail where
  | core | bu | vddSt | vppSt | xcvr | xaux | aux
  deriving DecidableEq, Repr

/-- One SMBus transaction: command code, count byte, the bytes after it, and the Packet Error Code's outcome
(`none`: the master sent none), R429. -/
structure SbTxn where
  code : Byte
  count : Byte
  body : List Byte
  pec : Option Bool
  deriving DecidableEq, Repr

/-- How the shipment of a sample ends: the idle cycles of the result path sufficed, they did not, or the ring found a parity failure (R360, R366). -/
inductive Shipment where
  | arrived | unshipped | badParity
  deriving DecidableEq, Repr

/-- What a replay takes from outside the record: the lanes that the record's inputs do not give, and the bits of the result that a silent error
inverts (R367, R368). -/
structure Replayed where
  answer : List W32
  flips : List Nat := []
  deriving DecidableEq, Repr

/-- Commands of the VRK-1024: one constructor per row of the table. -/
inductive Instr where
  -- register pages
  | registerWrite (src : Src) (addr : Nat) (data : List Byte) (be : List Bool)
  | readClear (src : Src) (addr len : Nat)
  | lowHalfShadowRead (src : Src) (addr : Nat)
  | pageLock (src : Src) (pg : Page)
  | softReset (src : Src) (pg : Page)
  | resetBusyEnd (pg : Page)
  | irqSet (src : Src) (pg : Page) (v : W32)
  | adminPortWrite (src : Src) (v : BitVec 2)
  | zoneViewWrite (src : Src) (w : Fin 16) (v : W32)
  -- tick
  | runStart (src : Src) (v : W32)
  | runStop (src : Src) (v : W32)
  | firstTick
  | tickInEdge
  | syntheticEdge
  | relock (src : Src) (v : W32)
  | internalTick
  | computeStart
  | computeEnd
  | gapEnd
  | refreshPoint
  | hostCut (c : Fin 64)
  | commit (src : Src)
  | bandChange
  | tickOutFall
  -- fabric
  | fabricLoad (cmd : Nat)
  | fabricResetComplete
  | imageFrame (illegal : Bool)
  | portCheck (a : PortAnswer)
  | ioBankCheck (options : List (List Byte))
  -- memory
  | hostMemoryRead (p : Fin 4) (ap : Aperture) (addr len : Nat) (upsets : List Flip)
  | hostMemoryWrite (p : Fin 4) (ap : Aperture) (addr : Nat) (bytes : List Byte) (badParity : Bool)
  | repairWrite (k : Fin 4) (c : Fin 16)
  | memInitStart (untrained : BitVec 4)
  | stackInitDone (k : Fin 4)
  | memInitDone
  | initFail (k : Fin 4)
  | refreshDebtAccrue
  | refresh
  -- bank units
  | buNop (id : Nat)
  | buDot (id n : Nat)
  | buFill (id n : Nat)
  | buCopy (id n : Nat)
  | buDigest (id n : Nat)
  | buRun (id : Nat)
  | buCommandStart (id : Nat)
  | buCommandComplete (id : Nat)
  | cycleLimit (id : Nat)
  | chainFlit (u : BuId) (badParity : Bool)
  -- micro-program words
  | uNop (u : BuId) | uEnd (u : BuId) | uLdi (u : BuId) | uMov (u : BuId)
  | uAdd (u : BuId) | uAdds (u : BuId) | uSub (u : BuId) | uSubs (u : BuId)
  | uMul (u : BuId) | uMuls (u : BuId) | uDiv (u : BuId) | uRem (u : BuId)
  | uNeg (u : BuId) | uAbs (u : BuId) | uAnd (u : BuId) | uOr (u : BuId) | uXor (u : BuId)
  | uShl (u : BuId) | uShls (u : BuId) | uShr (u : BuId) | uSar (u : BuId)
  | uMin (u : BuId) | uMax (u : BuId) | uAddi (u : BuId)
  | uBr (u : BuId) | uBz (u : BuId) | uBnz (u : BuId) | uBlt (u : BuId) | uLoop (u : BuId)
  | uLdb (u : BuId) | uStb (u : BuId) | uLdw (u : BuId) | uStw (u : BuId)
  | uXw (u : BuId) | uIw (u : BuId) | uDotb (u : BuId) | uDotm (u : BuId)
  | uBadd (u : BuId) | uBmul (u : BuId) | uBmax (u : BuId) | uBmin (u : BuId)
  | uCrecv (u : BuId) | uCsend (u : BuId) | uCadd (u : BuId) | uFlags (u : BuId)
  -- matrix array
  | shadowFill (n : Fin 16) (badParity : Bool)
  | broadcastSwap (n : Fin 16)
  | rippleSwap (n : Fin 16)
  | weightRowRead (n : Fin 16) (badParity : Bool)
  | chainResultDelivery (id : Nat)
  | chainMerge (n : Fin 16) (z : Fin 4) (badParity : Bool)
  | productComplete (n : Fin 16)
  -- sequencer
  | bundle (n : Fin 16) (up : Upset)
  | extResponse (n : Fin 16) (r : ExtRsp)
  | extWatchdog (n : Fin 16) (tag : BitVec 4)
  | transferComplete (n : Fin 16) (i : Nat) (badParity : Bool)
  | opResultWrite (n : Fin 16) (i : Nat)
  | programEnd (c : Fin 64)
  | segmentEnd (c : Fin 64)
  | hostSegmentDispatch (c : Fin 64)
  | haltArm (src : Src) (h : Fin 4) (v : W32)
  | haltDump (h : Fin 4)
  -- host queues and objects
  | entryFetch (p : Fin 4) (q : Fin 256) (entry : Option (List Byte))
  | queueNop (cmd : Nat)
  | objCreate (cmd : Nat) (frames : Option (List Byte))
  | objImport (cmd : Nat)
  | objUnmap (cmd : Nat)
  | descWrite (cmd : Nat) (source : Option (List Byte))
  | buCmd (cmd : Nat)
  | admitProgram (cmd : Nat)
  | admitUprog (cmd : Nat)
  | admitRoutine (cmd : Nat)
  | admissionComplete
  | release (cmd : Nat)
  | progRun (cmd : Nat)
  | streamAttach (cmd : Nat)
  | streamDetach (cmd : Nat)
  | patternLoad (cmd : Nat)
  | query (cmd : Nat)
  | commandComplete (cmd : Nat)
  | eventDelivery (c : Fin 64)
  | evqHeadWrite (src : Src) (c : Fin 64) (v : W32)
  | doorbell (src : Src) (q : Fin 256) (v : W32)
  | qdbCfgWrite (src : Src) (q : Fin 256) (v : W32)
  | refAdd (src : Src) (q : Fin 256) (obj : BitVec 16)
  | refSubtract (src : Src) (q : Fin 256) (obj : BitVec 16)
  | refDbNop (src : Src) (q : Fin 256) (obj : BitVec 16) (both : Bool)
  | ctxRequest (src : Src) (p : Fin 4) (stream : Bool) (group : BitVec 2)
  | queueGrant (src : Src) (p : Fin 4)
  | queueRelease (src : Src) (p : Fin 4) (q : BitVec 9)
  | queueReleaseDone (q : Fin 256)
  | contextReset (src : Src) (c : Fin 64)
  | contextRelease (src : Src) (c : Fin 64)
  | portLoss (p : Fin 4) (why : Loss)
  | teardownEdge (t : TearTarget)
  | teardownDone (t : TearTarget)
  | powerStateChange (p : Fin 4) (d3hot : Bool)
  | linkUp (p : Fin 4) (rate : Fin 6)
  | perstRelease (p : Fin 4)
  -- stream link
  | rxAlignBlock (l : Fin 32) (payload : BitVec 56)
  | alignMissed (l : Fin 32)
  | invalidSyncHeader (l : Fin 32)
  | rxIdleBlock (l : Fin 32)
  | rxReservedBlock (l : Fin 32) (type : Byte)
  | rxFrameBlock (l : Fin 32) (payload : BitVec 56)
  | rxSegBlock (l : Fin 32) (payload : BitVec 56)
  | rxDataBlock (l : Fin 32) (data : W64)
  | rxSegEndBlock (l : Fin 32) (payload : BitVec 56)
  | decisionOutput
  | trigPulseEnd (j : Fin 16)
  -- sensors and governor
  | sensorSample (r : Sample)
  | governorEvaluation
  | clockStep
  | tripClear (src : Src) (v : W32)
  -- reliability
  | sampleShip (n : Fin 16) (done : Shipment)
  | aniseReplay (i : Nat) (n : Fin 16) (result : Replayed)
  | sampleExpire (i : Nat)
  | aniCtrlWrite (src : Src) (v : W32)
  | healthRecover (n : Fin 16)
  | hltClear (src : Src) (v : W32)
  | reverification
  | builtInTest (n : Fin 16) (digests : List (Nat × W64)) (finished : Bool)
  | patternRun
  | patMinSerialWrite (src : Src) (v : W64)
  | fruHeadWrite (src : Src) (v : W32)
  | resume (src : Src) (c : Fin 64)
  | scrubPass (selfCheck : Bool)
  | scrubFrame (upsets : List Flip)
  | heartbeatTimeout (engineB : Bool)
  | pairReset (src : Src)
  -- power, resets, pins
  | powerReset
  | powerResetEnd (smbAddr : BitVec 2)
  | coldReset
  | coldResetEnd (bifur adminSel : BitVec 2)
  | glbReset (src : Src) (v : W32)
  | railFault (r : Rail)
  | railInBand (r : Rail)
  | clockLoss (k : RefClk)
  | timebaseLock
  | criticalTemp
  | sbWrite (t : SbTxn)
  | sbRead (t : SbTxn)
  | sbColdReset (t : SbTxn)
  | alertResponse
  -- JTAG
  | bypass
  | idcode
  | samplePreload (levels cells : List Bool)
  | extest
  | clamp
  | highz
  -- clock and lane events that end the table
  | blockLock (l : Fin 32)
  | clockReturn (k : RefClk)
  | tripleLatchUpset (engineB : Bool) (illegal : Bool)
  deriving DecidableEq, Repr

end Sys2Proof
end

