-- ==== Sys2Proof/Decode.lean ====
section
/-! DEFINITION. The words that the table gives bits to: none. No row of the table of operations and events spells
its command by bits; a command comes with its operands. -/

namespace Sys2Proof

/-- The command that a word spells: no row of the table gives bits, so no word spells one. -/
def decodeTableWord (_nbits _w : Nat) : Option Instr := none

end Sys2Proof
end

