-- ==== Sys2Proof/Config.lean ====
section
/-! DEFINITION. What the manual leaves free. Each free value is an opaque constant without a body, applied to a
counter that the state holds, so that no proof can see it (log 10). -/

namespace Sys2Proof.Config

/-- Which of two host writes through both apertures stands in a beat when no read lies between them
(R113: "which one is not fixed"). Applied to `State.anyBits` (log 10). -/
opaque freeBit : Nat → Bool

/-- The count n per lane that VSTATR combines with: R194 uses it, and no field of the instruction names it. Applied to
`State.anyBits` (log 10). -/
opaque freeCount : Nat → BitVec 32

/-- The batch of a DOT that RAHEAD of `KIND` 1 issues: R246 names the bank part and `TAG12`, and no field gives `BATCH`. Applied to
`State.anyBits`, and taken modulo 9 (log 10). -/
opaque freeBatch : Nat → BitVec 32

/-- The `DST_OFF` of the DOT that MMUL, MDOT and RAHEAD issue: R230 and R265 give it no field. Applied to `State.anyBits`, and taken to the
alignment that R119 asks (log 10). -/
opaque freeDst : Nat → BitVec 32

/-- The 58 bits that a transmit lane's scrambler last sent before a group's block: R324 gives the scrambler no start, and the IDLE blocks before
are not kept. Applied to `State.anyBits` plus the lane (log 10). -/
opaque freeScramble : Nat → BitVec 58

/-- How long the push of an exception frame takes: R386 gives at most 400 ns. Applied to `State.anyBits`, and taken modulo 401 (log 10). -/
opaque freePush : Nat → BitVec 32

/-- The serial number of the module: R293 calls it fused and unique per module, and gives no value (log 10). -/
opaque serial : BitVec 64

end Sys2Proof.Config
end

