-- ==== Sys2Proof/Machine/Sparse.lean ====
section
/-! DEFINITION. Small total helpers: sparse tables in canonical form, byte lists, bit fields. -/

namespace Sys2Proof.Machine

variable {α : Type}

/-- What key `k` reads as; `d` where it is not listed. -/
def spGet (d : α) : Sp α → Nat → α
  | [], _ => d
  | (j, v) :: t, k => if j = k then v else spGet d t k

/-- The table without key `k`. -/
def spDel (t : Sp α) (k : Nat) : Sp α := t.filter fun e => e.1 ≠ k

/-- The table with `v` listed at `k`, kept in rising order. -/
def spIns : Sp α → Nat → α → Sp α
  | [], k, v => [(k, v)]
  | (j, w) :: t, k, v => if j = k then (k, v) :: t else if k < j then (k, v) :: (j, w) :: t else (j, w) :: spIns t k v

/-- Write `v` at `k`; the value `d` that an unlisted key reads as removes the entry. -/
def spPut [DecidableEq α] (d : α) (t : Sp α) (k : Nat) (v : α) : Sp α :=
  if v = d then spDel t k else spIns t k v

/-- Drop every key from `lo` to `hi - 1`. -/
def spDrop (t : Sp α) (lo hi : Nat) : Sp α := t.filter fun e => e.1 < lo || hi ≤ e.1

/-- The entries of a run of values from key `a`, without those equal to `d`. -/
def spCells [DecidableEq α] (d : α) : Nat → List α → Sp α
  | _, [] => []
  | a, v :: t => if v = d then spCells d (a + 1) t else (a, v) :: spCells d (a + 1) t

/-- Write a run of values at consecutive keys. -/
def spRun [DecidableEq α] (d : α) (t : Sp α) (a : Nat) (l : List α) : Sp α :=
  t.takeWhile (fun e => e.1 < a) ++ spCells d a l ++ (t.dropWhile fun e => e.1 < a).dropWhile fun e => e.1 < a + l.length

/-- `n` values at consecutive keys. -/
def spVals (d : α) (t : Sp α) (a n : Nat) : List α := (List.range n).map fun i => spGet d t (a + i)

/-- Bits `hi` to `lo` of a number. -/
def fld (v hi lo : Nat) : Nat := (v >>> lo) % 2 ^ (hi + 1 - lo)

def bitOf (v n : Nat) : Bool := v.testBit n

def b2n (b : Bool) : Nat := if b then 1 else 0

/-- The two's complement value of the low `w` bits of `v`. -/
def sgn (w v : Nat) : Int := if v % 2 ^ w < 2 ^ (w - 1) then (v % 2 ^ w : Nat) else ((v % 2 ^ w : Nat) : Int) - (2 ^ w : Nat)

/-- The low `w` bits of an integer. -/
def low (w : Nat) (x : Int) : Nat := (x % (2 ^ w : Nat)).toNat

/-- `n` bytes of a number, least significant first (R5, R6). -/
def leBytes : Nat → Nat → List Byte
  | 0, _ => []
  | n + 1, v => BitVec.ofNat 8 v :: leBytes n (v / 256)

/-- The number that bytes spell, least significant first (R5, R6). -/
def leNat : List Byte → Nat
  | [] => 0
  | b :: t => b.toNat + 256 * leNat t

/-- Bytes `off` to `off + n - 1`; bytes past the end read 0. -/
def bytesAt (l : List Byte) (off n : Nat) : List Byte :=
  let t := (l.drop off).take n
  t ++ List.replicate (n - t.length) 0

/-- The little-endian field of `n` bytes at `off`. -/
def leAt (l : List Byte) (off n : Nat) : Nat := leNat (bytesAt l off n)

/-- `l` with the bytes `b` at `off`. -/
def bytesPut (l : List Byte) (off : Nat) (b : List Byte) : List Byte :=
  l.take off ++ b ++ l.drop (off + b.length)

def zeros (n : Nat) : List Byte := List.replicate n 0

/-- `a / b` rounded up. -/
def cdiv (a b : Nat) : Nat := (a + b - 1) / b

/-- Element `i` changed by `g`. -/
def mapAt (l : List α) (i : Nat) (g : α → α) : List α :=
  match l[i]? with
  | some x => l.set i (g x)
  | none => l

/-- The positions of the 1 bits of `m` below `n`, ascending. -/
def bitsOf (m n : Nat) : List Nat := (List.range n).filter fun i => m.testBit i

/-- The number of 1 bits of `m` below `n`. -/
def popcount (m n : Nat) : Nat := (bitsOf m n).length

/-- A number with the given bits set. -/
def maskOf (l : List Nat) : Nat := l.foldl (fun a i => a ||| 2 ^ i) 0

/-- `v` kept at or below the all-ones value of `w` bits. -/
def satN (w v : Nat) : Nat := min v (2 ^ w - 1)

/-- Four-byte words of a byte string. -/
def words32 (l : List Byte) (n : Nat) : List W32 := (List.range n).map fun i => BitVec.ofNat 32 (leAt l (4 * i) 4)

/-- The parity of a number's 1 bits. -/
def parity (v w : Nat) : Bool := popcount v w % 2 = 1

/-- The parity bits of the four bytes of a word, each even (R146). -/
def bytePar (v : W32) : BitVec 4 :=
  BitVec.ofNat 4 ((List.range 4).foldl (fun a i => a + (if parity (v.toNat / 2 ^ (8 * i)) 8 then 2 ^ i else 0)) 0)

end Sys2Proof.Machine
end

