-- ==== Sys2Proof/Machine/Crc.lean ====
section
/-! DEFINITION. Check codes and digests: the Mace CRC-64 (R135), CRC-32C (15_stream_link.md, RFC 3720), and the two standards
that R382 cites for pattern packages: SHA-256 (FIPS 180-4) and pure Ed25519 verification (RFC 8032, 5.1), log 13. -/

namespace Sys2Proof.Machine

/-- One byte into a CRC that takes the most significant bit first, of width `w` and polynomial `poly`. -/
def crcByteMsb (w poly : Nat) (c : Nat) (b : Byte) : Nat :=
  (List.range 8).foldl (fun c i =>
    let top := c.testBit (w - 1) ^^ b.toNat.testBit (7 - i)
    let c := (c * 2) % 2 ^ w
    if top then c ^^^ poly else c) c

/-- The Mace digest continued from `c` (R135): CRC-64, initial value 0, not reflected, no final XOR. -/
def maceFrom (c : Nat) (l : List Byte) : Nat := l.foldl (crcByteMsb 64 0x42F0E1EBA9EA3693) c

/-- The Mace digest of a byte string (R135). -/
def mace (l : List Byte) : Nat := maceFrom 0 l

/-- CRC-32C: reflected polynomial 0x1EDC6F41, initial value and final XOR 0xFFFFFFFF. -/
def crc32c (l : List Byte) : Nat :=
  (l.foldl (fun c b =>
    (List.range 8).foldl (fun c _ => if c % 2 = 1 then (c / 2) ^^^ 0x82F63B78 else c / 2) (c ^^^ b.toNat)) 0xFFFFFFFF) ^^^ 0xFFFFFFFF

/-! ## SHA-2 -/

/-- The constants of SHA-256 (FIPS 180-4). -/
def sha256K : List Nat :=
  [
   0x428A2F98, 0x71374491, 0xB5C0FBCF, 0xE9B5DBA5, 0x3956C25B, 0x59F111F1, 0x923F82A4, 0xAB1C5ED5,
   0xD807AA98, 0x12835B01, 0x243185BE, 0x550C7DC3, 0x72BE5D74, 0x80DEB1FE, 0x9BDC06A7, 0xC19BF174,
   0xE49B69C1, 0xEFBE4786, 0x0FC19DC6, 0x240CA1CC, 0x2DE92C6F, 0x4A7484AA, 0x5CB0A9DC, 0x76F988DA,
   0x983E5152, 0xA831C66D, 0xB00327C8, 0xBF597FC7, 0xC6E00BF3, 0xD5A79147, 0x06CA6351, 0x14292967,
   0x27B70A85, 0x2E1B2138, 0x4D2C6DFC, 0x53380D13, 0x650A7354, 0x766A0ABB, 0x81C2C92E, 0x92722C85] ++
  [
   0xA2BFE8A1, 0xA81A664B, 0xC24B8B70, 0xC76C51A3, 0xD192E819, 0xD6990624, 0xF40E3585, 0x106AA070,
   0x19A4C116, 0x1E376C08, 0x2748774C, 0x34B0BCB5, 0x391C0CB3, 0x4ED8AA4A, 0x5B9CCA4F, 0x682E6FF3,
   0x748F82EE, 0x78A5636F, 0x84C87814, 0x8CC70208, 0x90BEFFFA, 0xA4506CEB, 0xBEF9A3F7, 0xC67178F2]

def sha256H : List Nat :=
  [
   0x6A09E667, 0xBB67AE85, 0x3C6EF372, 0xA54FF53A, 0x510E527F, 0x9B05688C, 0x1F83D9AB, 0x5BE0CD19]

/-- The constants of SHA-512 (FIPS 180-4). -/
def sha512K : List Nat :=
  [
   0x428A2F98D728AE22, 0x7137449123EF65CD, 0xB5C0FBCFEC4D3B2F, 0xE9B5DBA58189DBBC, 0x3956C25BF348B538,
   0x59F111F1B605D019, 0x923F82A4AF194F9B, 0xAB1C5ED5DA6D8118, 0xD807AA98A3030242, 0x12835B0145706FBE,
   0x243185BE4EE4B28C, 0x550C7DC3D5FFB4E2, 0x72BE5D74F27B896F, 0x80DEB1FE3B1696B1, 0x9BDC06A725C71235,
   0xC19BF174CF692694, 0xE49B69C19EF14AD2, 0xEFBE4786384F25E3, 0x0FC19DC68B8CD5B5, 0x240CA1CC77AC9C65,
   0x2DE92C6F592B0275, 0x4A7484AA6EA6E483, 0x5CB0A9DCBD41FBD4, 0x76F988DA831153B5, 0x983E5152EE66DFAB,
   0xA831C66D2DB43210, 0xB00327C898FB213F, 0xBF597FC7BEEF0EE4, 0xC6E00BF33DA88FC2, 0xD5A79147930AA725,
   0x06CA6351E003826F, 0x142929670A0E6E70, 0x27B70A8546D22FFC, 0x2E1B21385C26C926, 0x4D2C6DFC5AC42AED,
   0x53380D139D95B3DF, 0x650A73548BAF63DE, 0x766A0ABB3C77B2A8, 0x81C2C92E47EDAEE6, 0x92722C851482353B] ++
  [
   0xA2BFE8A14CF10364, 0xA81A664BBC423001, 0xC24B8B70D0F89791, 0xC76C51A30654BE30, 0xD192E819D6EF5218,
   0xD69906245565A910, 0xF40E35855771202A, 0x106AA07032BBD1B8, 0x19A4C116B8D2D0C8, 0x1E376C085141AB53,
   0x2748774CDF8EEB99, 0x34B0BCB5E19B48A8, 0x391C0CB3C5C95A63, 0x4ED8AA4AE3418ACB, 0x5B9CCA4F7763E373,
   0x682E6FF3D6B2B8A3, 0x748F82EE5DEFB2FC, 0x78A5636F43172F60, 0x84C87814A1F0AB72, 0x8CC702081A6439EC,
   0x90BEFFFA23631E28, 0xA4506CEBDE82BDE9, 0xBEF9A3F7B2C67915, 0xC67178F2E372532B, 0xCA273ECEEA26619C,
   0xD186B8C721C0C207, 0xEADA7DD6CDE0EB1E, 0xF57D4F7FEE6ED178, 0x06F067AA72176FBA, 0x0A637DC5A2C898A6,
   0x113F9804BEF90DAE, 0x1B710B35131C471B, 0x28DB77F523047D84, 0x32CAAB7B40C72493, 0x3C9EBE0A15C9BEBC,
   0x431D67C49C100D4C, 0x4CC5D4BECB3E42B6, 0x597F299CFC657E2A, 0x5FCB6FAB3AD6FAEC, 0x6C44198C4A475817]

def sha512H : List Nat :=
  [
   0x6A09E667F3BCC908, 0xBB67AE8584CAA73B, 0x3C6EF372FE94F82B, 0xA54FF53A5F1D36F1, 0x510E527FADE682D1,
   0x9B05688C2B3E6C1F, 0x1F83D9ABFB41BD6B, 0x5BE0CD19137E2179]

/-- The parameters of a SHA-2 function: word bits, rounds, constants, initial value, and the rotations of its four mixing
functions (the last of each small sigma is a shift). -/
structure Sha where
  w : Nat
  k : List Nat
  h : List Nat
  s0 : Nat × Nat × Nat
  s1 : Nat × Nat × Nat
  e0 : Nat × Nat × Nat
  e1 : Nat × Nat × Nat

def sha256P : Sha := ⟨32, sha256K, sha256H, (7, 18, 3), (17, 19, 10), (2, 13, 22), (6, 11, 25)⟩
def sha512P : Sha := ⟨64, sha512K, sha512H, (1, 8, 7), (19, 61, 6), (28, 34, 39), (14, 18, 41)⟩

def rotr (w x n : Nat) : Nat := (x >>> n) ||| ((x <<< (w - n)) % 2 ^ w)

def Sha.sml (p : Sha) (r : Nat × Nat × Nat) (x : Nat) : Nat := rotr p.w x r.1 ^^^ rotr p.w x r.2.1 ^^^ (x >>> r.2.2)
def Sha.big (p : Sha) (r : Nat × Nat × Nat) (x : Nat) : Nat := rotr p.w x r.1 ^^^ rotr p.w x r.2.1 ^^^ rotr p.w x r.2.2

/-- The message schedule, newest word first. -/
def Sha.schedule (p : Sha) (block : List Nat) : List Nat :=
  ((List.range (p.k.length - 16)).foldl (fun l _ =>
    ((p.sml p.s1 (l.getD 1 0) + l.getD 6 0 + p.sml p.s0 (l.getD 14 0) + l.getD 15 0) % 2 ^ p.w) :: l) block.reverse).reverse

/-- One block into the hash value. -/
def Sha.block (p : Sha) (h block : List Nat) : List Nat :=
  let m := 2 ^ p.w
  let r := (List.zip p.k (p.schedule block)).foldl (fun v (k, x) =>
    match v with
    | [a, b, c, d, e, f, g, q] =>
      let ch := (e &&& f) ^^^ ((m - 1 - e) &&& g)
      let mj := (a &&& b) ^^^ (a &&& c) ^^^ (b &&& c)
      let t1 := q + p.big p.e1 e + ch + k + x
      let t2 := p.big p.e0 a + mj
      [(t1 + t2) % m, a, b, c, (d + t1) % m, e, f, g]
    | v => v) h
  List.zipWith (fun a b => (a + b) % m) h r

/-- The number that bytes spell, most significant first. -/
def beNat (l : List Byte) : Nat := l.foldl (fun a b => a * 256 + b.toNat) 0

def beBytes (n v : Nat) : List Byte := (leBytes n v).reverse

/-- A SHA-2 hash of a byte string. -/
def Sha.hash (p : Sha) (l : List Byte) : List Byte :=
  let wb := p.w / 8
  let bb := 16 * wb
  let pad := (bb - (l.length + 1 + 2 * wb) % bb) % bb
  let msg := l ++ [0x80] ++ zeros pad ++ beBytes (2 * wb) (l.length * 8)
  let h := (List.range (msg.length / bb)).foldl (fun (h, rest) _ =>
    (p.block h ((List.range 16).map fun i => beNat ((rest.drop (i * wb)).take wb)), rest.drop bb)) (p.h, msg)
  h.1.flatMap (beBytes wb)

def sha256 (l : List Byte) : List Byte := sha256P.hash l
def sha512 (l : List Byte) : List Byte := sha512P.hash l

/-! ## Ed25519 verification -/

def edP : Nat := 2 ^ 255 - 19
def edL : Nat := 2 ^ 252 + 27742317777372353535851937790883648493

/-- b^e mod `edP`, over the bits of `e` from the most significant. -/
def powP (b e : Nat) : Nat :=
  (List.range 256).foldl (fun a i =>
    let a := a * a % edP
    if e.testBit (255 - i) then a * b % edP else a) 1

def invP (x : Nat) : Nat := powP x (edP - 2)

def edD : Nat := (edP - 121665) * invP 121666 % edP

/-- A curve point in extended coordinates (X, Y, Z, T). -/
structure EdPt where
  x : Nat
  y : Nat
  z : Nat
  t : Nat

def EdPt.add (a b : EdPt) : EdPt :=
  let p := edP
  let A := (a.y + p - a.x) * (b.y + p - b.x) % p
  let B := (a.y + a.x) * (b.y + b.x) % p
  let C := a.t * 2 * edD * b.t % p
  let D := a.z * 2 * b.z % p
  let E := (B + p - A) % p
  let F := (D + p - C) % p
  let G := (D + C) % p
  let H := (B + A) % p
  ⟨E * F % p, G * H % p, F * G % p, E * H % p⟩

def EdPt.smul (k : Nat) (a : EdPt) : EdPt :=
  (List.range 512).foldl (fun r i =>
    let r := r.add r
    if k.testBit (511 - i) then r.add a else r) ⟨0, 1, 1, 0⟩

def EdPt.same (a b : EdPt) : Bool := a.x * b.z % edP = b.x * a.z % edP && a.y * b.z % edP = b.y * a.z % edP

/-- The x of a compressed point with sign bit `s`, where there is one. -/
def edRecover (y : Nat) (s : Bool) : Option Nat :=
  if edP ≤ y then none else
  let u := (y * y + edP - 1) % edP
  let v := (edD * y * y + 1) % edP
  let x2 := u * invP v % edP
  if x2 = 0 then (if s then none else some 0)
  else
    let x := powP x2 ((edP + 3) / 8)
    let x := if x * x % edP = x2 then x else x * powP 2 ((edP - 1) / 4) % edP
    if x * x % edP ≠ x2 then none
    else some (if (x % 2 = 1) = s then x else edP - x)

def edDecode (l : List Byte) : Option EdPt :=
  let n := leNat l
  let y := n % 2 ^ 255
  (edRecover y (n.testBit 255)).map fun x => ⟨x, y, 1, x * y % edP⟩

def edBase : EdPt :=
  let y := 4 * invP 5 % edP
  let x := (edRecover y false).getD 0
  ⟨x, y, 1, x * y % edP⟩

/-- Pure Ed25519 verification (RFC 8032, 5.1.7, with its cofactor). -/
def ed25519Verify (key msg sig : List Byte) : Bool :=
  let rb := sig.take 32
  let S := leNat (sig.drop 32)
  match edDecode key, edDecode rb with
  | some A, some R =>
    let k := leNat (sha512 (rb ++ key ++ msg)) % edL
    decide (S < edL) && ((edBase.smul S).smul 8).same ((R.smul 8).add ((A.smul k).smul 8))
  | _, _ => false

end Sys2Proof.Machine
end

