-- ==== Sys2Proof/Machine/Flags.lean ====
section
/-! DEFINITION. Integer operations at their edges and the flags they set (R211 to R213). Values are the low `w` bits of a
two's complement number; `w` is 32 in the scalar slot, the vector unit and the scratch registers, and the element
width in an elementwise bank-unit operation. -/

namespace Sys2Proof.Machine

/-- An integer result with the flags that the operation sets: bit 0 DIVZ, bit 1 SAT, bit 2 ACC_SAT (R213, R228). -/
structure IRes where
  v : Nat
  fl : Nat := 0
  deriving DecidableEq, Repr

def flDivz : Nat := 1
def flSat : Nat := 2
def flAccSat : Nat := 4

/-- MIN of a width. -/
def iMin (w : Nat) : Int := -(2 ^ (w - 1) : Nat)

/-- MAX of a width. -/
def iMax (w : Nat) : Int := (2 ^ (w - 1) : Nat) - 1

/-- Whether a value lies in the range of a width. -/
def iFits (w : Nat) (x : Int) : Bool := decide (iMin w ≤ x) && decide (x ≤ iMax w)

/-- The nearer limit of an exact result out of range. -/
def iClamp (w : Nat) (x : Int) : Int := if x < iMin w then iMin w else if iMax w < x then iMax w else x

/-- An exact result that wraps: its low `w` bits, no flag (R211). -/
def iWrap (w : Nat) (x : Int) : IRes := { v := low w x }

/-- An exact result that saturates, with the flag given (R211, R204). -/
def iSat (w : Nat) (flag : Nat) (x : Int) : IRes :=
  { v := low w (iClamp w x), fl := if iFits w x then 0 else flag }

/-- Division (R211). -/
def iDiv (w : Nat) (a b : Int) : IRes :=
  if b = 0 then { v := low w (if 0 ≤ a then iMax w else iMin w), fl := flDivz }
  else iSat w flSat (Int.tdiv a b)

/-- Remainder (R211). -/
def iRem (w : Nat) (a b : Int) : IRes :=
  if b = 0 then { v := low w a, fl := flDivz } else { v := low w (a - b * Int.tdiv a b) }

/-- Shift left, wrapping; the count is unsigned (R211, R212). -/
def iShl (w : Nat) (a c : Nat) : IRes := { v := if w ≤ c then 0 else (a * 2 ^ c) % 2 ^ w }

/-- Shift left, saturating (R211, R212). -/
def iShls (w : Nat) (a c : Nat) : IRes :=
  let x := sgn w a
  if x = 0 then { v := 0 }
  else if w ≤ c then { v := low w (if 0 < x then iMax w else iMin w), fl := flSat }
  else iSat w flSat (x * (2 ^ c : Nat))

/-- Logical shift right (R211, R212). -/
def iShr (w : Nat) (a c : Nat) : IRes := { v := if w ≤ c then 0 else (a % 2 ^ w) / 2 ^ c }

/-- Arithmetic shift right (R211, R212). -/
def iSar (w : Nat) (a c : Nat) : IRes :=
  let x := sgn w a
  { v := if w ≤ c then low w (if 0 ≤ x then 0 else -1) else low w (x / (2 ^ c : Nat)) }

/-- The integer operations that the scalar slot, the vector slot and the micro-programs share. -/
inductive IOp where
  | add | adds | sub | subs | mul | muls | div | rem | neg | abs
  | and | or | xor | not | shl | shls | shr | sar | min | max
  deriving DecidableEq, Repr

/-- The result of an integer operation on the low `w` bits of its operands (R211). -/
def iOp (w : Nat) (op : IOp) (a b : Nat) : IRes :=
  let x := sgn w a
  let y := sgn w b
  match op with
  | .add => iWrap w (x + y)
  | .adds => iSat w flSat (x + y)
  | .sub => iWrap w (x - y)
  | .subs => iSat w flSat (x - y)
  | .mul => iWrap w (x * y)
  | .muls => iSat w flSat (x * y)
  | .div => iDiv w x y
  | .rem => iRem w x y
  | .neg => iSat w flSat (-x)
  | .abs => iSat w flSat (if x < 0 then -x else x)
  | .and => { v := (a &&& b) % 2 ^ w }
  | .or => { v := (a ||| b) % 2 ^ w }
  | .xor => { v := (a ^^^ b) % 2 ^ w }
  | .not => { v := 2 ^ w - 1 - a % 2 ^ w }
  | .shl => iShl w a b
  | .shls => iShls w a b
  | .shr => iShr w a b
  | .sar => iSar w a b
  | .min => { v := if x ≤ y then a % 2 ^ w else b % 2 ^ w }
  | .max => { v := if x ≤ y then b % 2 ^ w else a % 2 ^ w }

end Sys2Proof.Machine
end

