-- ==== Sys2Proof/Machine/Num.lean ====
section
/-! DEFINITION. Number formats and floating arithmetic (R201 to R214): exact values, one rounding to nearest even, flushing of
subnormals, canonical NaNs, and the conversions. -/

namespace Sys2Proof.Machine

/-- A floating value: NaN, an infinity, or the exact value (−1)^neg × m × 2^e, whose zero keeps its sign. -/
inductive Fv where
  | nan
  | inf (neg : Bool)
  | fin (neg : Bool) (m : Nat) (e : Int)
  deriving DecidableEq, Repr

/-- A binary floating format: fraction bits, exponent bits and bias (R201). FP8 E4M3 has no infinity (R203). -/
structure Fmt where
  frac : Nat
  ebits : Nat
  bias : Int
  hasInf : Bool
  deriving DecidableEq, Repr

def fp32 : Fmt := ⟨23, 8, 127, true⟩
def bf16 : Fmt := ⟨7, 8, 127, true⟩
def fp8 : Fmt := ⟨3, 4, 7, false⟩

/-- The value of an encoding, subnormals flushed to a zero of their sign (R203, R207). -/
def Fmt.dec (f : Fmt) (b : Nat) : Fv :=
  let s := b.testBit (f.frac + f.ebits)
  let e := b / 2 ^ f.frac % 2 ^ f.ebits
  let m := b % 2 ^ f.frac
  if e = 0 then .fin s 0 0
  else if e = 2 ^ f.ebits - 1 ∧ f.hasInf then (if m = 0 then .inf s else .nan)
  else if e = 2 ^ f.ebits - 1 ∧ m = 2 ^ f.frac - 1 then .nan
  else .fin s (m + 2 ^ f.frac) ((e : Int) - f.bias - f.frac)

/-- Round a positive magnitude to `p` bits, to nearest, ties to even, with no limit on the exponent (R205, R207). -/
def roundBits (p m : Nat) (e : Int) : Nat × Int :=
  let l := m.log2 + 1
  if l ≤ p then (m * 2 ^ (p - l), e - (p - l : Nat))
  else
    let sh := l - p
    let q := m / 2 ^ sh
    let r := m % 2 ^ sh
    let half := 2 ^ (sh - 1)
    let q := if half < r ∨ (r = half ∧ q % 2 = 1) then q + 1 else q
    if q = 2 ^ p then (q / 2, e + (sh : Nat) + 1) else (q, e + (sh : Nat))

def Fmt.signBit (f : Fmt) (s : Bool) : Nat := b2n s * 2 ^ (f.frac + f.ebits)

/-- The canonical NaN (R203). -/
def Fmt.nan (f : Fmt) : Nat :=
  if f.hasInf then (2 ^ f.ebits - 1) * 2 ^ f.frac + 2 ^ (f.frac - 1) else 2 ^ (f.frac + f.ebits) - 1

def Fmt.infBits (f : Fmt) (s : Bool) : Nat := f.signBit s + (2 ^ f.ebits - 1) * 2 ^ f.frac

/-- Round a value into a format with an infinity (R205, R207, R208, R210): the encoding. -/
def Fmt.enc (f : Fmt) : Fv → Nat
  | .nan => f.nan
  | .inf s => f.infBits s
  | .fin s 0 _ => f.signBit s
  | .fin s m e =>
    let (q, x) := roundBits (f.frac + 1) m e
    let ex := x + f.frac + f.bias
    if ex < 1 then f.signBit s
    else if (2 ^ f.ebits - 1 : Nat) ≤ ex then f.infBits s
    else f.signBit s + ex.toNat * 2 ^ f.frac + (q - 2 ^ f.frac)

/-- Round a value to FP8 E4M3, saturating (R209, R210): the encoding, and whether SAT is set. -/
def encFp8 : Fv → Nat × Bool
  | .nan => (0x7F, false)
  | .inf s => (fp8.signBit s + 0x7E, true)
  | .fin s 0 _ => (fp8.signBit s, false)
  | .fin s m e =>
    let (q, x) := roundBits 4 m e
    let ex := x + 3 + 7
    if ex < 1 then (fp8.signBit s, false)
    else if 15 < ex ∨ (ex = 15 ∧ q = 15) then (fp8.signBit s + 0x7E, true)
    else (fp8.signBit s + ex.toNat * 8 + (q - 8), false)

/-! ## Exact arithmetic -/

def Fv.signed (neg : Bool) (m : Nat) : Int := if neg then -(m : Int) else m

/-- The exact sum (R205, R208). -/
def Fv.add : Fv → Fv → Fv
  | .nan, _ | _, .nan => .nan
  | .inf a, .inf b => if a = b then .inf a else .nan
  | .inf a, _ => .inf a
  | _, .inf b => .inf b
  | .fin s m e, .fin t n g =>
    if m = 0 ∧ n = 0 then .fin (s && t) 0 0
    else
      let k := min e g
      let x := Fv.signed s m * (2 ^ (e - k).toNat : Nat) + Fv.signed t n * (2 ^ (g - k).toNat : Nat)
      .fin (decide (x < 0)) x.natAbs k

/-- The exact sum of several values, in order: zero is +0 unless every term is −0 (R205). -/
def exactSum : List Fv → Fv
  | [] => .fin false 0 0
  | a :: t => t.foldl Fv.add a

def Fv.neg : Fv → Fv
  | .nan => .nan
  | .inf s => .inf (!s)
  | .fin s m e => .fin (!s) m e

/-- The exact product (R207, R208). -/
def Fv.mul : Fv → Fv → Fv
  | .nan, _ | _, .nan => .nan
  | .inf a, .inf b => .inf (a ^^ b)
  | .inf a, .fin t n _ => if n = 0 then .nan else .inf (a ^^ t)
  | .fin s m _, .inf b => if m = 0 then .nan else .inf (s ^^ b)
  | .fin s m e, .fin t n g => .fin (s ^^ t) (m * n) (e + g)

/-- The quotient, to more bits than any rounding needs, the last one sticky (R208). -/
def Fv.div : Fv → Fv → Fv
  | .nan, _ | _, .nan => .nan
  | .inf _, .inf _ => .nan
  | .inf a, .fin t _ _ => .inf (a ^^ t)
  | .fin s _ _, .inf b => .fin (s ^^ b) 0 0
  | .fin s m e, .fin t n g =>
    if n = 0 then (if m = 0 then .nan else .inf (s ^^ t))
    else
      let k := n.log2 + 64
      let q := m * 2 ^ k / n
      let r := m * 2 ^ k % n
      .fin (s ^^ t) (q * 2 + b2n (r ≠ 0)) (e - g - k - 1)

/-- The integer square root by digits: `k` steps settle `2k` bits. -/
def isqrtAux : Nat → Nat → Nat → Nat
  | 0, _, r => r
  | k + 1, n, r => let r' := r + 2 ^ k; isqrtAux k n (if r' * r' ≤ n then r' else r)

def isqrt (n : Nat) : Nat := isqrtAux (n.log2 / 2 + 1) n 0

/-- The square root, the last bit sticky (R208). -/
def Fv.sqrt : Fv → Fv
  | .nan => .nan
  | .inf s => if s then .nan else .inf false
  | .fin s 0 e => .fin s 0 e
  | .fin true _ _ => .nan
  | .fin false m e =>
    let (m, e) := if e % 2 = 0 then (m, e) else (m * 2, e - 1)
    let n := m * 2 ^ 64
    let q := isqrt n
    .fin false (q * 2 + b2n (q * q ≠ n)) (e / 2 - 32 - 1)

/-- An integer as a value. -/
def Fv.ofInt (x : Int) : Fv := .fin (decide (x < 0)) x.natAbs 0

/-- Signed order of two values that are not NaN; −0 and +0 are equal. -/
def Fv.lt : Fv → Fv → Bool
  | .nan, _ | _, .nan => false
  | .inf a, .inf b => a && !b
  | .inf a, .fin _ _ _ => a
  | .fin _ _ _, .inf b => !b
  | .fin s m e, .fin t n g =>
    let k := min e g
    decide (Fv.signed s m * (2 ^ (e - k).toNat : Nat) < Fv.signed t n * (2 ^ (g - k).toNat : Nat))

def Fv.isNan : Fv → Bool
  | .nan => true
  | _ => false

def Fv.isNeg : Fv → Bool
  | .nan => false
  | .inf s => s
  | .fin s _ _ => s

def Fv.eq (a b : Fv) : Bool := !a.isNan && !b.isNan && !a.lt b && !b.lt a

/-- The order of R181, in which −0 lies below +0. -/
def Fv.below (a b : Fv) : Bool := a.lt b || (a.eq b && a.isNeg && !b.isNeg)

/-- The largest of two values; NaN if either is (R181). -/
def Fv.max (a b : Fv) : Fv := if a.isNan || b.isNan then .nan else if a.below b then b else a

def Fv.min (a b : Fv) : Fv := if a.isNan || b.isNan then .nan else if b.below a then b else a

/-! ## FP32 operations -/

abbrev d32 (b : Nat) : Fv := fp32.dec b
abbrev e32 (x : Fv) : Nat := fp32.enc x

/-- The value after rounding to FP32. -/
def rn (x : Fv) : Fv := d32 (e32 x)

def fadd (a b : Nat) : Nat := e32 ((d32 a).add (d32 b))
def fsub (a b : Nat) : Nat := e32 ((d32 a).add (d32 b).neg)
def fmul (a b : Nat) : Nat := e32 ((d32 a).mul (d32 b))
def ffma (a b c : Nat) : Nat := e32 (((d32 a).mul (d32 b)).add (d32 c))
def fdiv (a b : Nat) : Nat := e32 ((d32 a).div (d32 b))
def fsqrt (a : Nat) : Nat := e32 (d32 a).sqrt
def fmin (a b : Nat) : Nat := e32 ((d32 a).min (d32 b))
def fmax (a b : Nat) : Nat := e32 ((d32 a).max (d32 b))

def Fv.abs : Fv → Fv
  | .nan => .nan
  | .inf _ => .inf false
  | .fin _ m e => .fin false m e

def fabs (a : Nat) : Nat := e32 (d32 a).abs
def fneg (a : Nat) : Nat := e32 (d32 a).neg

/-- FCMP: 0 eq, 1 ne, 2 lt, 3 le (R214). -/
def fcmp (mode a b : Nat) : Bool :=
  let x := d32 a
  let y := d32 b
  match mode with
  | 0 => x.eq y
  | 1 => !x.eq y
  | 2 => x.lt y
  | _ => x.lt y || x.eq y

/-! ## Conversions (R210) -/

/-- Round a finite value to an integer, to nearest even. -/
def Fv.toInt : Fv → Int
  | .fin s m e =>
    if 0 ≤ e then Fv.signed s (m * 2 ^ e.toNat)
    else
      let k := (-e).toNat
      let q := m / 2 ^ k
      let r := m % 2 ^ k
      let half := 2 ^ (k - 1)
      Fv.signed s (if half < r ∨ (r = half ∧ q % 2 = 1) then q + 1 else q)
  | _ => 0

/-- A floating value to an integer of width `w` (R210). -/
def fvToI (w : Nat) (x : Fv) : IRes :=
  match x with
  | .nan => { v := 0, fl := flSat }
  | .inf s => { v := low w (if s then iMin w else iMax w), fl := flSat }
  | .fin .. => iSat w flSat x.toInt

/-- The format codes of R127: 0 INT4, 1 INT8, 2 INT16, 3 FP8 E4M3, 4 BF16, 5 INT32 or raw 32 bits. -/
def fmtBits (fmt : Nat) : Nat :=
  match fmt with
  | 0 => 4
  | 1 => 8
  | 2 => 16
  | 3 => 8
  | 4 => 16
  | _ => 32

def fmtIsFloat (fmt : Nat) : Bool := fmt = 3 || fmt = 4

/-- The exact value of a narrow floating element. -/
def fmtDec (fmt b : Nat) : Fv := if fmt = 3 then fp8.dec b else if fmt = 4 then bf16.dec b else fp32.dec b

/-- A narrow element widened to a lane: integers sign-extended, floats exact in FP32 (R179, R210). -/
def widen (fmt b : Nat) : Nat :=
  match fmt with
  | 0 => low 32 (sgn 4 b)
  | 1 => low 32 (sgn 8 b)
  | 2 => low 32 (sgn 16 b)
  | 3 => e32 (fp8.dec b)
  | 4 => e32 (bf16.dec b)
  | _ => b

/-- An FP32 value rounded into an output format: 0 FP32, 1 BF16, 2 FP8 E4M3 (R190, R210). -/
def narrowOut (fmt : Nat) (x : Fv) : Nat × Nat :=
  match fmt with
  | 1 => (bf16.enc x, 0)
  | 2 => let (b, s) := encFp8 x; (b, if s then flSat else 0)
  | _ => (e32 x, 0)

/-- A lane narrowed to a format code: integer targets take INT32, float targets FP32 (R210, R229). -/
def narrow (fmt v : Nat) : IRes :=
  match fmt with
  | 0 => iSat 4 flSat (sgn 32 v)
  | 1 => iSat 8 flSat (sgn 32 v)
  | 2 => iSat 16 flSat (sgn 32 v)
  | 3 => let (b, s) := encFp8 (d32 v); { v := b, fl := if s then flSat else 0 }
  | 4 => { v := bf16.enc (d32 v) }
  | _ => { v := v }

/-- Element `j` of packed bytes, as raw bits (R202). -/
def elemAt (fmt : Nat) (l : List Byte) (j : Nat) : Nat :=
  match fmt with
  | 0 => let b := (l.getD (j / 2) 0).toNat; if j % 2 = 0 then b % 16 else b / 16
  | 1 | 3 => (l.getD j 0).toNat
  | 2 | 4 => leAt l (2 * j) 2
  | _ => leAt l (4 * j) 4

/-- The raw elements of packed bytes, in order. -/
def unpack (fmt : Nat) (l : List Byte) : List Nat :=
  match fmt with
  | 0 => l.flatMap fun b => [b.toNat % 16, b.toNat / 16]
  | 1 | 3 => l.map (·.toNat)
  | 2 | 4 => (List.range (l.length / 2)).map fun j => leAt l (2 * j) 2
  | _ => (List.range (l.length / 4)).map fun j => leAt l (4 * j) 4

/-- Elements packed into bytes; an odd INT4 count leaves the last high nibble 0 (R202). -/
def pack (fmt : Nat) (xs : List Nat) : List Byte :=
  match fmt with
  | 0 => (List.range ((xs.length + 1) / 2)).map fun j =>
      BitVec.ofNat 8 (xs.getD (2 * j) 0 % 16 + 16 * (xs.getD (2 * j + 1) 0 % 16))
  | 1 | 3 => xs.map fun x => BitVec.ofNat 8 x
  | 2 | 4 => xs.flatMap fun x => leBytes 2 x
  | _ => xs.flatMap fun x => leBytes 4 x

/-- Bytes that `n` elements of a format take. -/
def packedLen (fmt n : Nat) : Nat := (n * fmtBits fmt + 7) / 8

/-- A conversion between any two formats of R210 (code 5: INT32 source or target when `asFloat` is false, FP32 when it
is true). Integers widen to INT32 first, floats to FP32; one rounding follows. -/
def convert (src dst : Nat) (srcF dstF : Bool) (b : Nat) : IRes :=
  let sF := fmtIsFloat src || (src = 5 && srcF)
  let dF := fmtIsFloat dst || (dst = 5 && dstF)
  if sF then
    let x := fmtDec src b
    if dF then
      match dst with
      | 3 => let (v, s) := encFp8 x; { v := v, fl := if s then flSat else 0 }
      | 4 => { v := bf16.enc x }
      | _ => { v := e32 x }
    else fvToI (fmtBits dst) x
  else
    let x := sgn (fmtBits src) b
    if dF then
      match dst with
      | 3 => let (v, s) := encFp8 (Fv.ofInt x); { v := v, fl := if s then flSat else 0 }
      | 4 => { v := bf16.enc (Fv.ofInt x) }
      | _ => { v := e32 (Fv.ofInt x) }
    else iSat (fmtBits dst) flSat x

end Sys2Proof.Machine
end

