-- ==== Sys2Proof/Machine/RegMap.lean ====
section
/-! DEFINITION. The register map: every field of the common page header and of every page's block registers,
with its offset, bits, access code and reset value, from the register tables of the chapters. A field that repeats
has a count and a stride; `Fld.at` names one copy. A field of more than one word is named at its first word.
The rule after each field is the one whose table or text defines it. -/

namespace Sys2Proof.Machine

/-- The access codes (R8). -/
inductive Acc where
  | ro | rw | w1c | w1s | wo | rc | rwl | rwa
  deriving DecidableEq, Repr

/-- A register field: offset of its register in the page, bits `hi` to `lo`, access code, reset value, and the
count and stride of its copies. -/
structure Fld where
  off : Nat
  hi : Nat
  lo : Nat
  acc : Acc
  rst : Nat
  cnt : Nat := 1
  stride : Nat := 4
  deriving DecidableEq, Repr

/-- Copy `i` of a repeated field. -/
def Fld.at (f : Fld) (i : Nat) : Fld := { f with off := f.off + i * f.stride, cnt := 1 }

/-! ## The common header (02_register_pages.md) -/
/-- R23 -/
def Hdr.FUNC : Fld := { off := 0x0, hi := 7, lo := 0, acc := .ro, rst := 0 }
/-- R23 -/
def Hdr.REGION : Fld := { off := 0x0, hi := 15, lo := 8, acc := .ro, rst := 0 }
/-- R23 -/
def Hdr.INSTANCE : Fld := { off := 0x0, hi := 23, lo := 16, acc := .ro, rst := 0 }
/-- R23 -/
def Hdr.LAYOUT : Fld := { off := 0x0, hi := 31, lo := 24, acc := .ro, rst := 0x1 }
/-- R23 -/
def Hdr.HAS_IRQ : Fld := { off := 0x4, hi := 0, lo := 0, acc := .ro, rst := 0x1 }
/-- R23 -/
def Hdr.OWNED : Fld := { off := 0x4, hi := 1, lo := 1, acc := .ro, rst := 0 }
/-- R23 -/
def Hdr.LOCKABLE : Fld := { off := 0x4, hi := 2, lo := 2, acc := .ro, rst := 0 }
/-- R23 -/
def Hdr.PARAM_COUNT : Fld := { off := 0x4, hi := 10, lo := 8, acc := .ro, rst := 0 }
/-- R23 -/
def Hdr.LOCK : Fld := { off := 0x8, hi := 0, lo := 0, acc := .w1s, rst := 0 }
/-- R23 -/
def Hdr.SOFT_RESET : Fld := { off := 0x8, hi := 1, lo := 1, acc := .wo, rst := 0 }
/-- R23 -/
def Hdr.LOCKED : Fld := { off := 0xc, hi := 0, lo := 0, acc := .ro, rst := 0 }
/-- R23 -/
def Hdr.RESET_BUSY : Fld := { off := 0xc, hi := 1, lo := 1, acc := .ro, rst := 0 }
/-- R23 -/
def Hdr.REFUSED : Fld := { off := 0xc, hi := 2, lo := 2, acc := .w1c, rst := 0 }
/-- R23 -/
def Hdr.REFUSED_LOCK : Fld := { off := 0xc, hi := 3, lo := 3, acc := .ro, rst := 0 }
/-- R23 -/
def Hdr.REFUSED_PORT : Fld := { off := 0xc, hi := 6, lo := 4, acc := .ro, rst := 0 }
/-- R23 -/
def Hdr.IRQ_STAT : Fld := { off := 0x10, hi := 31, lo := 0, acc := .w1c, rst := 0 }
/-- R23 -/
def Hdr.IRQ_MASK : Fld := { off := 0x14, hi := 31, lo := 0, acc := .rw, rst := 0xffffffff }
/-- R23 -/
def Hdr.IRQ_SET : Fld := { off := 0x18, hi := 31, lo := 0, acc := .wo, rst := 0 }
/-- R23 -/
def Hdr.REFUSED_CNT : Fld := { off := 0x1c, hi := 15, lo := 0, acc := .rc, rst := 0 }
/-- R23 -/
def Hdr.BLOCK_ERR_CNT : Fld := { off := 0x1c, hi := 31, lo := 16, acc := .rc, rst := 0 }
/-- R23 -/
def Hdr.OWNER_PORT : Fld := { off := 0x20, hi := 1, lo := 0, acc := .ro, rst := 0 }
/-- R23 -/
def Hdr.OWNER_VALID : Fld := { off := 0x20, hi := 7, lo := 7, acc := .ro, rst := 0 }
/-- R23 -/
def Hdr.GLOBAL : Fld := { off := 0x20, hi := 8, lo := 8, acc := .ro, rst := 0 }
/-- R23 -/
def Hdr.OWNER_CONTEXT : Fld := { off := 0x20, hi := 23, lo := 16, acc := .ro, rst := 0xff }
/-- R23 -/
def Hdr.PARAM : Fld := { off := 0x24, hi := 31, lo := 0, acc := .ro, rst := 0, cnt := 7, stride := 4 }

/-! ## `DEV_CAP` (02_register_pages.md) -/
/-- R44 -/
def DevCap.FAMILY : Fld := { off := 0x40, hi := 15, lo := 0, acc := .ro, rst := 0x1 }
/-- R44 -/
def DevCap.MODULE : Fld := { off := 0x40, hi := 31, lo := 16, acc := .ro, rst := 0x1024 }
/-- R44 -/
def DevCap.GRADE_SLICES : Fld := { off := 0x44, hi := 4, lo := 0, acc := .ro, rst := 0 }
/-- R44 -/
def DevCap.STEPPING : Fld := { off := 0x44, hi := 15, lo := 8, acc := .ro, rst := 0 }
/-- R44 -/
def DevCap.FUSE_SLICE_MASK : Fld := { off := 0x48, hi := 15, lo := 0, acc := .ro, rst := 0 }
/-- R44 -/
def DevCap.ENGINE_SLICE_MASK : Fld := { off := 0x48, hi := 31, lo := 16, acc := .ro, rst := 0 }
/-- R44 -/
def DevCap.KPHYS_MIN : Fld := { off := 0x4c, hi := 1, lo := 0, acc := .ro, rst := 0 }
/-- R44 -/
def DevCap.NPHYS_MIN : Fld := { off := 0x4c, hi := 2, lo := 2, acc := .ro, rst := 0 }
/-- R44 -/
def DevCap.UNIFORM : Fld := { off := 0x4c, hi := 3, lo := 3, acc := .ro, rst := 0 }
/-- R44 -/
def DevCap.ENGINE_LAYOUT : Fld := { off := 0x4c, hi := 15, lo := 8, acc := .ro, rst := 0 }
/-- R44 -/
def DevCap.ENGINE_MAX_MHZ : Fld := { off := 0x4c, hi := 31, lo := 16, acc := .ro, rst := 0 }
/-- R44 -/
def DevCap.ARRAY_FMT : Fld := { off := 0x50, hi := 5, lo := 0, acc := .ro, rst := 0 }
/-- R44 -/
def DevCap.VEC_FMT : Fld := { off := 0x50, hi := 13, lo := 8, acc := .ro, rst := 0 }
/-- R44 -/
def DevCap.BU_FMT : Fld := { off := 0x50, hi := 21, lo := 16, acc := .ro, rst := 0x1f }
/-- R44 -/
def DevCap.SFU_NATIVE_VER : Fld := { off := 0x54, hi := 7, lo := 0, acc := .ro, rst := 0x2 }
/-- R44 -/
def DevCap.SFU_FROZEN_MASK : Fld := { off := 0x54, hi := 23, lo := 8, acc := .ro, rst := 0x2 }
/-- R44 -/
def DevCap.STACKS : Fld := { off := 0x58, hi := 2, lo := 0, acc := .ro, rst := 0x4 }
/-- R44 -/
def DevCap.CHANNELS : Fld := { off := 0x58, hi := 15, lo := 8, acc := .ro, rst := 0x10 }
/-- R44 -/
def DevCap.BANKS : Fld := { off := 0x58, hi := 23, lo := 16, acc := .ro, rst := 0x10 }
/-- R44 -/
def DevCap.BANK_MIB : Fld := { off := 0x58, hi := 31, lo := 24, acc := .ro, rst := 0x20 }
/-- R44 -/
def DevCap.BU_COUNT : Fld := { off := 0x5c, hi := 15, lo := 0, acc := .ro, rst := 0x400 }
/-- R44 -/
def DevCap.CTX_SLOTS : Fld := { off := 0x60, hi := 7, lo := 0, acc := .ro, rst := 0x40 }
/-- R44 -/
def DevCap.LINK_SPLIT : Fld := { off := 0x60, hi := 10, lo := 8, acc := .ro, rst := 0 }
/-- R44 -/
def DevCap.ADMIN : Fld := { off := 0x60, hi := 13, lo := 12, acc := .ro, rst := 0 }
/-- R44 -/
def DevCap.QUEUES : Fld := { off := 0x60, hi := 24, lo := 16, acc := .ro, rst := 0x100 }
/-- R44 -/
def DevCap.EXT_MASK : Fld := { off := 0x64, hi := 15, lo := 0, acc := .ro, rst := 0 }
/-- R44 -/
def DevCap.CARVE_BASE : Fld := { off := 0x68, hi := 63, lo := 0, acc := .ro, rst := 0x7e0000000 }
/-- R44 -/
def DevCap.TIMEBASE_MHZ : Fld := { off := 0x70, hi := 15, lo := 0, acc := .ro, rst := 0x3e8 }
/-- R44 -/
def DevCap.BU_MHZ : Fld := { off := 0x70, hi := 31, lo := 16, acc := .ro, rst := 0x1f4 }
/-- R44 -/
def DevCap.ISTORE_BUNDLES : Fld := { off := 0x74, hi := 15, lo := 0, acc := .ro, rst := 0x2000 }
/-- R44 -/
def DevCap.LIB_BUNDLES : Fld := { off := 0x74, hi := 27, lo := 16, acc := .ro, rst := 0x800 }
/-- R44 -/
def DevCap.CALL_DEPTH : Fld := { off := 0x74, hi := 31, lo := 28, acc := .ro, rst := 0x8 }
/-- R44 -/
def DevCap.LIB_ROUTINES : Fld := { off := 0x78, hi := 6, lo := 0, acc := .ro, rst := 0x40 }
/-- R44 -/
def DevCap.DESCRIPTORS : Fld := { off := 0x78, hi := 26, lo := 16, acc := .ro, rst := 0x400 }

/-! ## `GLB_CTRL` (02_register_pages.md) -/
/-- R27 -/
def GlbCtrl.ADMIN_PORT : Fld := { off := 0x40, hi := 1, lo := 0, acc := .rwa, rst := 0 }
/-- R34 -/
def GlbCtrl.STRAY_WR_CNT : Fld := { off := 0x44, hi := 15, lo := 0, acc := .rc, rst := 0 }
/-- R34 -/
def GlbCtrl.STRAY_WR_PORT : Fld := { off := 0x44, hi := 18, lo := 16, acc := .ro, rst := 0 }
/-- R82 -/
def GlbCtrl.LOADING : Fld := { off := 0x80, hi := 0, lo := 0, acc := .ro, rst := 0 }
/-- R82 -/
def GlbCtrl.LOADED : Fld := { off := 0x80, hi := 1, lo := 1, acc := .ro, rst := 0 }
/-- R83 -/
def GlbCtrl.LOAD_FAILED : Fld := { off := 0x80, hi := 2, lo := 2, acc := .w1c, rst := 0 }
/-- R83 -/
def GlbCtrl.LOAD_CAUSE : Fld := { off := 0x80, hi := 7, lo := 4, acc := .ro, rst := 0 }
/-- R87 -/
def GlbCtrl.IO_BANK_OFF : Fld := { off := 0x80, hi := 15, lo := 8, acc := .ro, rst := 0 }
/-- R85 -/
def GlbCtrl.FAB_LOADS : Fld := { off := 0x84, hi := 31, lo := 0, acc := .ro, rst := 0 }
/-- R85 -/
def GlbCtrl.FAB_SIG : Fld := { off := 0x88, hi := 63, lo := 0, acc := .ro, rst := 0 }
/-- R415 -/
def GlbCtrl.GLB_RESET_KEY : Fld := { off := 0xc0, hi := 7, lo := 0, acc := .wo, rst := 0 }

/-! ## `PLV` (13_loader_verifier.md) -/
/-- R291 -/
def Plv.BUSY : Fld := { off := 0x40, hi := 0, lo := 0, acc := .ro, rst := 0 }
/-- R291 -/
def Plv.LAST_CODE : Fld := { off := 0x40, hi := 15, lo := 8, acc := .ro, rst := 0 }
/-- R270 -/
def Plv.OFFSET : Fld := { off := 0x44, hi := 13, lo := 0, acc := .ro, rst := 0 }
/-- R291 -/
def Plv.CTX : Fld := { off := 0x44, hi := 21, lo := 16, acc := .ro, rst := 0 }
/-- R291 -/
def Plv.ADMITTED : Fld := { off := 0x48, hi := 15, lo := 0, acc := .rc, rst := 0 }
/-- R291 -/
def Plv.REJECTED : Fld := { off := 0x48, hi := 31, lo := 16, acc := .rc, rst := 0 }
/-- R287 -/
def Plv.REVERIFY_CNT : Fld := { off := 0x4c, hi := 31, lo := 0, acc := .rc, rst := 0 }
/-- R283 -/
def Plv.CERT_STREAM_NS : Fld := { off := 0x50, hi := 19, lo := 0, acc := .ro, rst := 0 }
/-- R283 -/
def Plv.CERT_SEG_NS : Fld := { off := 0x54, hi := 19, lo := 0, acc := .ro, rst := 0 }
/-- R289 -/
def Plv.HALT_ARM : Fld := { off := 0x80, hi := 0, lo := 0, acc := .rwa, rst := 0, cnt := 4, stride := 32 }
/-- R289 -/
def Plv.HALT_CTX : Fld := { off := 0x80, hi := 7, lo := 2, acc := .rwa, rst := 0, cnt := 4, stride := 32 }
/-- R289 -/
def Plv.HALT_MEMBER : Fld := { off := 0x80, hi := 11, lo := 8, acc := .rwa, rst := 0, cnt := 4, stride := 32 }
/-- R289 -/
def Plv.HALT_ADDR : Fld := { off := 0x80, hi := 25, lo := 12, acc := .rwa, rst := 0, cnt := 4, stride := 32 }
/-- R289 -/
def Plv.HALT_COUNT : Fld := { off := 0x84, hi := 31, lo := 0, acc := .rwa, rst := 0, cnt := 4, stride := 32 }
/-- R291 -/
def Plv.HALT_DUMP : Fld := { off := 0x88, hi := 39, lo := 8, acc := .rwa, rst := 0, cnt := 4, stride := 32 }
/-- R290 -/
def Plv.HALT_FIRED : Fld := { off := 0x90, hi := 0, lo := 0, acc := .w1c, rst := 0, cnt := 4, stride := 32 }
/-- R291 -/
def Plv.HALT_DUMPED : Fld := { off := 0x90, hi := 1, lo := 1, acc := .ro, rst := 0, cnt := 4, stride := 32 }
/-- R291 -/
def Plv.HALT_DUMP_LOST : Fld := { off := 0x90, hi := 2, lo := 2, acc := .w1c, rst := 0, cnt := 4, stride := 32 }
/-- R289 -/
def Plv.HALT_ARM_BAD : Fld := { off := 0x90, hi := 3, lo := 3, acc := .w1c, rst := 0, cnt := 4, stride := 32 }
/-- R289 -/
def Plv.HALT_REMAIN : Fld := { off := 0x94, hi := 31, lo := 0, acc := .ro, rst := 0, cnt := 4, stride := 32 }

/-! ## `GLB_CARVE` (05_memory_stacks.md) -/
/-- R98 -/
def GlbCarve.MEM_INIT_DONE : Fld := { off := 0x40, hi := 0, lo := 0, acc := .ro, rst := 0 }
/-- R101 -/
def GlbCarve.INIT_FAIL : Fld := { off := 0x40, hi := 4, lo := 1, acc := .ro, rst := 0 }
/-- R97 -/
def GlbCarve.CARVE_WR_CNT : Fld := { off := 0x44, hi := 15, lo := 0, acc := .rc, rst := 0 }
/-- R97 -/
def GlbCarve.CARVE_WR_PORT : Fld := { off := 0x44, hi := 18, lo := 16, acc := .ro, rst := 0 }
/-- R93 -/
def GlbCarve.ZONE_REJ_CNT : Fld := { off := 0x48, hi := 15, lo := 0, acc := .rc, rst := 0 }
/-- R92 -/
def GlbCarve.ZONE_VIEW : Fld := { off := 0x80, hi := 31, lo := 0, acc := .rw, rst := 0, cnt := 16, stride := 4 }

/-! ## `TKG_SRC` (03_tick.md) -/
/-- R50 -/
def TkgSrc.RUN : Fld := { off := 0x40, hi := 0, lo := 0, acc := .rw, rst := 0 }
/-- R50 -/
def TkgSrc.SOURCE : Fld := { off := 0x40, hi := 1, lo := 1, acc := .rw, rst := 0 }
/-- R52 -/
def TkgSrc.RELOCK : Fld := { off := 0x40, hi := 2, lo := 2, acc := .wo, rst := 0 }
/-- R420 -/
def TkgSrc.TICKOUT_EN : Fld := { off := 0x40, hi := 3, lo := 3, acc := .rw, rst := 0 }
/-- R54 -/
def TkgSrc.TICKOUT_WIDTH : Fld := { off := 0x44, hi := 15, lo := 0, acc := .rw, rst := 0x64 }
/-- R54 -/
def TkgSrc.RUNNING : Fld := { off := 0x48, hi := 0, lo := 0, acc := .ro, rst := 0 }
/-- R52 -/
def TkgSrc.LOCKED : Fld := { off := 0x48, hi := 1, lo := 1, acc := .ro, rst := 0 }
/-- R52 -/
def TkgSrc.TICK_LOST : Fld := { off := 0x48, hi := 2, lo := 2, acc := .w1c, rst := 0 }
/-- R52 -/
def TkgSrc.RELOCK_ARMED : Fld := { off := 0x48, hi := 3, lo := 3, acc := .ro, rst := 0 }
/-- R52 -/
def TkgSrc.SYNTH_RUN : Fld := { off := 0x48, hi := 11, lo := 4, acc := .ro, rst := 0 }
/-- R50 -/
def TkgSrc.TICK_START : Fld := { off := 0x4c, hi := 63, lo := 0, acc := .rw, rst := 0 }
/-- R50 -/
def TkgSrc.TICK_NUM : Fld := { off := 0x54, hi := 63, lo := 0, acc := .ro, rst := 0 }
/-- R413 -/
def TkgSrc.TIME : Fld := { off := 0x5c, hi := 63, lo := 0, acc := .ro, rst := 0 }
/-- R51 -/
def TkgSrc.SYNTH_CNT : Fld := { off := 0x64, hi := 15, lo := 0, acc := .rc, rst := 0 }
/-- R51 -/
def TkgSrc.STRAY_CNT : Fld := { off := 0x64, hi := 31, lo := 16, acc := .rc, rst := 0 }
/-- R54 -/
def TkgSrc.LAST_PERIOD : Fld := { off := 0x68, hi := 20, lo := 0, acc := .ro, rst := 0 }

/-! ## `TKG_WIN` (03_tick.md) -/
/-- R60 -/
def TkgWin.PERIOD : Fld := { off := 0x40, hi := 19, lo := 0, acc := .rw, rst := 0xfa0 }
/-- R60 -/
def TkgWin.COMPUTE_START : Fld := { off := 0x44, hi := 19, lo := 0, acc := .rw, rst := 0x3c }
/-- R60 -/
def TkgWin.COMPUTE_END : Fld := { off := 0x48, hi := 19, lo := 0, acc := .rw, rst := 0xb2c }
/-- R60 -/
def TkgWin.GAP_END : Fld := { off := 0x4c, hi := 19, lo := 0, acc := .rw, rst := 0xd34 }
/-- R60 -/
def TkgWin.DECISION_OFFSET : Fld := { off := 0x50, hi := 6, lo := 0, acc := .rw, rst := 0x64 }
/-- R60 -/
def TkgWin.TOL : Fld := { off := 0x50, hi := 24, lo := 16, acc := .rw, rst := 0x14 }
/-- R60 -/
def TkgWin.COMMIT : Fld := { off := 0x54, hi := 0, lo := 0, acc := .wo, rst := 0 }
/-- R61 -/
def TkgWin.SCHEDULE_INVALID : Fld := { off := 0x58, hi := 0, lo := 0, acc := .w1c, rst := 0 }
/-- R61 -/
def TkgWin.COMMIT_PENDING : Fld := { off := 0x58, hi := 1, lo := 1, acc := .ro, rst := 0 }
/-- R56 -/
def TkgWin.LONG_MODE : Fld := { off := 0x58, hi := 2, lo := 2, acc := .ro, rst := 0 }
/-- R55 -/
def TkgWin.BAND : Fld := { off := 0x58, hi := 3, lo := 3, acc := .ro, rst := 0 }
/-- R59 -/
def TkgWin.HOT_EXHAUSTED : Fld := { off := 0x58, hi := 4, lo := 4, acc := .ro, rst := 0 }
/-- R61 -/
def TkgWin.INVALID_CAUSE : Fld := { off := 0x58, hi := 11, lo := 8, acc := .ro, rst := 0 }
/-- R61 -/
def TkgWin.ACT_PERIOD : Fld := { off := 0x60, hi := 19, lo := 0, acc := .ro, rst := 0xfa0 }
/-- R61 -/
def TkgWin.ACT_CSTART : Fld := { off := 0x64, hi := 19, lo := 0, acc := .ro, rst := 0x3c }
/-- R61 -/
def TkgWin.ACT_CEND : Fld := { off := 0x68, hi := 19, lo := 0, acc := .ro, rst := 0xb2c }
/-- R61 -/
def TkgWin.ACT_GEND : Fld := { off := 0x6c, hi := 19, lo := 0, acc := .ro, rst := 0xd34 }
/-- R61 -/
def TkgWin.ACT_DECISION_OFFSET : Fld := { off := 0x70, hi := 6, lo := 0, acc := .ro, rst := 0x64 }
/-- R61 -/
def TkgWin.ACT_TOL : Fld := { off := 0x70, hi := 24, lo := 16, acc := .ro, rst := 0x14 }
/-- R56 -/
def TkgWin.GMIN_0 : Fld := { off := 0x74, hi := 15, lo := 0, acc := .ro, rst := 0x1f4 }
/-- R56 -/
def TkgWin.GMIN_1 : Fld := { off := 0x74, hi := 31, lo := 16, acc := .ro, rst := 0x2d0 }
/-- R62 -/
def TkgWin.COMPUTE_CERT_NS : Fld := { off := 0x78, hi := 19, lo := 0, acc := .ro, rst := 0xaf0 }
/-- R62 -/
def TkgWin.HOST_CERT_NS : Fld := { off := 0x7c, hi := 19, lo := 0, acc := .ro, rst := 0x258 }
/-- R57 -/
def TkgWin.POINT_COUNT : Fld := { off := 0x80, hi := 7, lo := 0, acc := .ro, rst := 0 }

/-! ## `TKG_OVR` (03_tick.md) -/
/-- R64 -/
def TkgOvr.OVR_CNT : Fld := { off := 0x40, hi := 31, lo := 0, acc := .rc, rst := 0, cnt := 4, stride := 4 }
/-- R64 -/
def TkgOvr.OVR_TICK : Fld := { off := 0x50, hi := 31, lo := 0, acc := .ro, rst := 0, cnt := 4, stride := 4 }
/-- R64 -/
def TkgOvr.OVR_SEEN : Fld := { off := 0x60, hi := 3, lo := 0, acc := .w1c, rst := 0 }
/-- R70 -/
def TkgOvr.HOST_CUT_CNT : Fld := { off := 0x64, hi := 15, lo := 0, acc := .rc, rst := 0 }

/-! ## `HPT_LINK` (14_host_objects.md) -/
/-- R294 -/
def HptLink.UP : Fld := { off := 0x40, hi := 0, lo := 0, acc := .ro, rst := 0 }
/-- R294 -/
def HptLink.RATE : Fld := { off := 0x40, hi := 3, lo := 1, acc := .ro, rst := 0 }
/-- R292 -/
def HptLink.WIDTH : Fld := { off := 0x40, hi := 8, lo := 4, acc := .ro, rst := 0 }
/-- R321 -/
def HptLink.TEARDOWN_BUSY : Fld := { off := 0x40, hi := 9, lo := 9, acc := .ro, rst := 0 }
/-- R294 -/
def HptLink.DOWN_CNT : Fld := { off := 0x44, hi := 15, lo := 0, acc := .rc, rst := 0 }
/-- R294 -/
def HptLink.FLR_CNT : Fld := { off := 0x44, hi := 31, lo := 16, acc := .rc, rst := 0 }
/-- R297 -/
def HptLink.CREQ_GO : Fld := { off := 0x48, hi := 0, lo := 0, acc := .wo, rst := 0 }
/-- R297 -/
def HptLink.CREQ_STREAM : Fld := { off := 0x48, hi := 1, lo := 1, acc := .wo, rst := 0 }
/-- R297 -/
def HptLink.CREQ_GROUP : Fld := { off := 0x48, hi := 3, lo := 2, acc := .wo, rst := 0 }
/-- R297 -/
def HptLink.CGRANT_SLOT : Fld := { off := 0x4c, hi := 7, lo := 0, acc := .ro, rst := 0xff }
/-- R297 -/
def HptLink.CGRANT_RESULT : Fld := { off := 0x4c, hi := 10, lo := 8, acc := .ro, rst := 0 }
/-- R299 -/
def HptLink.QREQ_RING : Fld := { off := 0x50, hi := 63, lo := 12, acc := .rw, rst := 0 }
/-- R301 -/
def HptLink.QREQ_CTX : Fld := { off := 0x58, hi := 5, lo := 0, acc := .rw, rst := 0 }
/-- R301 -/
def HptLink.QREQ_VALIDATED : Fld := { off := 0x58, hi := 6, lo := 6, acc := .rw, rst := 0 }
/-- R301 -/
def HptLink.QREQ_DEPTH_LOG2 : Fld := { off := 0x58, hi := 10, lo := 7, acc := .rw, rst := 0 }
/-- R301 -/
def HptLink.QREQ_GO : Fld := { off := 0x5c, hi := 0, lo := 0, acc := .wo, rst := 0 }
/-- R301 -/
def HptLink.QREQ_RELEASE_Q : Fld := { off := 0x5c, hi := 9, lo := 1, acc := .wo, rst := 0 }
/-- R301 -/
def HptLink.QREQ_RELEASE : Fld := { off := 0x5c, hi := 10, lo := 10, acc := .wo, rst := 0 }
/-- R301 -/
def HptLink.QGRANT_QUEUE : Fld := { off := 0x60, hi := 8, lo := 0, acc := .ro, rst := 0x1ff }
/-- R301 -/
def HptLink.QGRANT_RESULT : Fld := { off := 0x60, hi := 11, lo := 9, acc := .ro, rst := 0 }

/-! ## `HPT_XLATE` (14_host_objects.md) -/
/-- R295 -/
def HptXlate.WIN_EN : Fld := { off := 0x40, hi := 0, lo := 0, acc := .rw, rst := 0, cnt := 4, stride := 16 }
/-- R295 -/
def HptXlate.WIN_BASE : Fld := { off := 0x40, hi := 63, lo := 12, acc := .rw, rst := 0, cnt := 4, stride := 16 }
/-- R295 -/
def HptXlate.WIN_LIMIT : Fld := { off := 0x48, hi := 63, lo := 12, acc := .rw, rst := 0, cnt := 4, stride := 16 }
/-- R296 -/
def HptXlate.BAR_DENY_CNT : Fld := { off := 0x80, hi := 15, lo := 0, acc := .rc, rst := 0 }
/-- R295 -/
def HptXlate.HOST_DENY_CNT : Fld := { off := 0x80, hi := 31, lo := 16, acc := .rc, rst := 0 }

/-! ## `HPT_EVENT` (14_host_objects.md) -/
/-- R293 -/
def HptEvent.MSIX_ADDR : Fld := { off := 0x40, hi := 63, lo := 0, acc := .rw, rst := 0, cnt := 248, stride := 16 }
/-- R293 -/
def HptEvent.MSIX_DATA : Fld := { off := 0x48, hi := 31, lo := 0, acc := .rw, rst := 0, cnt := 248, stride := 16 }
/-- R293 -/
def HptEvent.MSIX_MASK : Fld := { off := 0x4c, hi := 0, lo := 0, acc := .rw, rst := 0, cnt := 248, stride := 16 }
/-- R293 -/
def HptEvent.MSIX_PBA : Fld := { off := 0xfc0, hi := 31, lo := 0, acc := .ro, rst := 0, cnt := 8, stride := 4 }

/-! ## `HPT_PACE` (14_host_objects.md) -/
/-- R307 -/
def HptPace.INFLIGHT_MAX : Fld := { off := 0x40, hi := 11, lo := 0, acc := .rw, rst := 0x100 }
/-- R307 -/
def HptPace.WEIGHT : Fld := { off := 0x40, hi := 19, lo := 16, acc := .rwa, rst := 0x1 }
/-- R307 -/
def HptPace.INFLIGHT : Fld := { off := 0x44, hi := 11, lo := 0, acc := .ro, rst := 0 }
/-- R307 -/
def HptPace.FETCH_CNT : Fld := { off := 0x48, hi := 31, lo := 0, acc := .rc, rst := 0 }
/-- R307 -/
def HptPace.PACED_CNT : Fld := { off := 0x4c, hi := 31, lo := 0, acc := .rc, rst := 0 }

/-! ## `CTX` (14_host_objects.md) -/
/-- R298 -/
def Ctx.STATE : Fld := { off := 0x40, hi := 1, lo := 0, acc := .ro, rst := 0 }
/-- R298 -/
def Ctx.STREAM : Fld := { off := 0x40, hi := 2, lo := 2, acc := .ro, rst := 0 }
/-- R298 -/
def Ctx.PROGRAM : Fld := { off := 0x40, hi := 3, lo := 3, acc := .ro, rst := 0 }
/-- R298 -/
def Ctx.RUNNING : Fld := { off := 0x40, hi := 4, lo := 4, acc := .ro, rst := 0 }
/-- R298 -/
def Ctx.RESET : Fld := { off := 0x44, hi := 0, lo := 0, acc := .wo, rst := 0 }
/-- R298 -/
def Ctx.RELEASE : Fld := { off := 0x44, hi := 1, lo := 1, acc := .wo, rst := 0 }
/-- R390 -/
def Ctx.XSP : Fld := { off := 0x48, hi := 39, lo := 0, acc := .rw, rst := 0 }
/-- R390 -/
def Ctx.XSIZE : Fld := { off := 0x50, hi := 19, lo := 0, acc := .rw, rst := 0 }
/-- R298 -/
def Ctx.SAVE : Fld := { off := 0x58, hi := 34, lo := 0, acc := .ro, rst := 0 }
/-- R317 -/
def Ctx.EVQ_LOG2 : Fld := { off := 0x60, hi := 4, lo := 0, acc := .rw, rst := 0 }
/-- R317 -/
def Ctx.EVQ_IRQ_EN : Fld := { off := 0x60, hi := 5, lo := 5, acc := .rw, rst := 0 }
/-- R317 -/
def Ctx.EVQ_BASE : Fld := { off := 0x64, hi := 63, lo := 12, acc := .rw, rst := 0 }
/-- R317 -/
def Ctx.EVQ_HEAD : Fld := { off := 0x6c, hi := 16, lo := 0, acc := .rw, rst := 0 }
/-- R317 -/
def Ctx.EVQ_TAIL : Fld := { off := 0x70, hi := 16, lo := 0, acc := .ro, rst := 0 }
/-- R317 -/
def Ctx.EV_LOST : Fld := { off := 0x74, hi := 15, lo := 0, acc := .rc, rst := 0 }
/-- R317 -/
def Ctx.EV_BACKLOG : Fld := { off := 0x74, hi := 30, lo := 16, acc := .ro, rst := 0 }
/-- R391 -/
def Ctx.FAULT_SHADOW : Fld := { off := 0x80, hi := 31, lo := 0, acc := .ro, rst := 0, cnt := 16, stride := 4 }
/-- R310 -/
def Ctx.L1 : Fld := { off := 0xc0, hi := 12, lo := 0, acc := .ro, rst := 0 }
/-- R397 -/
def Ctx.LAST_CAUSE : Fld := { off := 0xc4, hi := 7, lo := 0, acc := .ro, rst := 0 }
/-- R397 -/
def Ctx.SHADOW_VALID : Fld := { off := 0xc4, hi := 8, lo := 8, acc := .ro, rst := 0 }
/-- R397 -/
def Ctx.SAVE_INVALID : Fld := { off := 0xc4, hi := 9, lo := 9, acc := .ro, rst := 0 }
/-- R397 -/
def Ctx.SAVE_REASON : Fld := { off := 0xc4, hi := 12, lo := 10, acc := .ro, rst := 0 }
/-- R397 -/
def Ctx.CONSEC : Fld := { off := 0xc4, hi := 17, lo := 13, acc := .ro, rst := 0 }
/-- R397 -/
def Ctx.STREAM_HELD : Fld := { off := 0xc4, hi := 18, lo := 18, acc := .ro, rst := 0 }
/-- R397 -/
def Ctx.HELD_BY : Fld := { off := 0xc4, hi := 19, lo := 19, acc := .ro, rst := 0 }
/-- R397 -/
def Ctx.RESUME_REFUSED : Fld := { off := 0xc4, hi := 20, lo := 20, acc := .w1c, rst := 0 }
/-- R397 -/
def Ctx.FAULTS : Fld := { off := 0xc8, hi := 15, lo := 0, acc := .rc, rst := 0 }
/-- R397 -/
def Ctx.SHADOW_LOST : Fld := { off := 0xc8, hi := 31, lo := 16, acc := .rc, rst := 0 }
/-- R397 -/
def Ctx.RESUME : Fld := { off := 0xcc, hi := 0, lo := 0, acc := .wo, rst := 0 }

/-! ## `QDB` (14_host_objects.md) -/
/-- R300 -/
def Qdb.TAIL : Fld := { off := 0x40, hi := 15, lo := 0, acc := .rw, rst := 0 }
/-- R300 -/
def Qdb.HEAD : Fld := { off := 0x44, hi := 15, lo := 0, acc := .ro, rst := 0 }
/-- R300 -/
def Qdb.DEPTH_LOG2 : Fld := { off := 0x48, hi := 3, lo := 0, acc := .rw, rst := 0 }
/-- R300 -/
def Qdb.VALIDATED : Fld := { off := 0x48, hi := 4, lo := 4, acc := .ro, rst := 0 }
/-- R300 -/
def Qdb.OVERFLOW : Fld := { off := 0x4c, hi := 0, lo := 0, acc := .w1c, rst := 0 }
/-- R300 -/
def Qdb.FETCH_ERR : Fld := { off := 0x4c, hi := 1, lo := 1, acc := .w1c, rst := 0 }
/-- R300 -/
def Qdb.STOPPED : Fld := { off := 0x4c, hi := 2, lo := 2, acc := .ro, rst := 0 }
/-- R320 -/
def Qdb.DB_OBJ : Fld := { off := 0x50, hi := 15, lo := 0, acc := .wo, rst := 0 }
/-- R320 -/
def Qdb.DB_OP : Fld := { off := 0x50, hi := 17, lo := 16, acc := .wo, rst := 0 }
/-- R320 -/
def Qdb.RS_OBJ : Fld := { off := 0x54, hi := 15, lo := 0, acc := .ro, rst := 0 }
/-- R320 -/
def Qdb.RS_OP : Fld := { off := 0x54, hi := 17, lo := 16, acc := .ro, rst := 0 }
/-- R320 -/
def Qdb.RS_RES : Fld := { off := 0x54, hi := 19, lo := 18, acc := .ro, rst := 0 }
/-- R320 -/
def Qdb.RS_FIELD : Fld := { off := 0x54, hi := 31, lo := 20, acc := .ro, rst := 0 }

/-! ## `SLC_SEQ` (11_bundle_isa.md) -/
/-- R245 -/
def SlcSeq.RUNNING : Fld := { off := 0x40, hi := 0, lo := 0, acc := .ro, rst := 0 }
/-- R238 -/
def SlcSeq.STALLED : Fld := { off := 0x40, hi := 1, lo := 1, acc := .ro, rst := 0 }
/-- R220 -/
def SlcSeq.PC : Fld := { off := 0x40, hi := 17, lo := 4, acc := .ro, rst := 0 }
/-- R245 -/
def SlcSeq.CTX : Fld := { off := 0x40, hi := 23, lo := 18, acc := .ro, rst := 0 }
/-- R244 -/
def SlcSeq.CALL_DEPTH : Fld := { off := 0x40, hi := 27, lo := 24, acc := .ro, rst := 0 }
/-- R228 -/
def SlcSeq.SEQ_FLAGS : Fld := { off := 0x44, hi := 3, lo := 0, acc := .w1c, rst := 0 }

/-! ## `SLC_PERF` (11_bundle_isa.md) -/
/-- R222 -/
def SlcPerf.BUNDLES : Fld := { off := 0x40, hi := 31, lo := 0, acc := .rc, rst := 0 }
/-- R222 -/
def SlcPerf.REPS : Fld := { off := 0x44, hi := 31, lo := 0, acc := .rc, rst := 0 }
/-- R238 -/
def SlcPerf.STALLS : Fld := { off := 0x48, hi := 31, lo := 0, acc := .rc, rst := 0 }
/-- R169 -/
def SlcPerf.ZERO_WORK : Fld := { off := 0x4c, hi := 31, lo := 0, acc := .rc, rst := 0 }
/-- R222 -/
def SlcPerf.PRED_FALSE : Fld := { off := 0x50, hi := 31, lo := 0, acc := .rc, rst := 0 }
/-- R178 -/
def SlcPerf.ARR_PASSES : Fld := { off := 0x100, hi := 31, lo := 0, acc := .rc, rst := 0 }
/-- R178 -/
def SlcPerf.ARR_ROWS : Fld := { off := 0x104, hi := 31, lo := 0, acc := .rc, rst := 0 }
/-- R178 -/
def SlcPerf.ARR_BUBBLES : Fld := { off := 0x108, hi := 31, lo := 0, acc := .rc, rst := 0 }
/-- R178 -/
def SlcPerf.ARR_HOLDS : Fld := { off := 0x10c, hi := 31, lo := 0, acc := .rc, rst := 0 }
/-- R178 -/
def SlcPerf.BCAST : Fld := { off := 0x110, hi := 15, lo := 0, acc := .rc, rst := 0 }
/-- R178 -/
def SlcPerf.RIPPLE : Fld := { off := 0x110, hi := 31, lo := 16, acc := .rc, rst := 0 }
/-- R178 -/
def SlcPerf.ARR_MERGES : Fld := { off := 0x114, hi := 31, lo := 0, acc := .rc, rst := 0 }
/-- R178 -/
def SlcPerf.ARR_POISON : Fld := { off := 0x118, hi := 31, lo := 0, acc := .rc, rst := 0 }
/-- R200 -/
def SlcPerf.VEC_INSTR : Fld := { off := 0x120, hi := 31, lo := 0, acc := .rc, rst := 0 }
/-- R200 -/
def SlcPerf.SFU_FULL : Fld := { off := 0x124, hi := 31, lo := 0, acc := .rc, rst := 0 }
/-- R200 -/
def SlcPerf.SFU_QUARTER : Fld := { off := 0x128, hi := 31, lo := 0, acc := .rc, rst := 0 }
/-- R200 -/
def SlcPerf.SFU_FLUSH : Fld := { off := 0x12c, hi := 31, lo := 0, acc := .rc, rst := 0 }
/-- R200 -/
def SlcPerf.VEC_STALL : Fld := { off := 0x130, hi := 31, lo := 0, acc := .rc, rst := 0 }
/-- R269 -/
def SlcPerf.TILE_SKIPS : Fld := { off := 0x140, hi := 31, lo := 0, acc := .rc, rst := 0 }
/-- R269 -/
def SlcPerf.RESIDENT_HITS : Fld := { off := 0x144, hi := 31, lo := 0, acc := .rc, rst := 0 }
/-- R269 -/
def SlcPerf.IDX_OOR : Fld := { off := 0x148, hi := 31, lo := 0, acc := .rc, rst := 0 }
/-- R269 -/
def SlcPerf.RANGE_FLAGS : Fld := { off := 0x14c, hi := 31, lo := 0, acc := .rc, rst := 0 }
/-- R269 -/
def SlcPerf.TB_UNINIT_RD : Fld := { off := 0x150, hi := 31, lo := 0, acc := .rc, rst := 0 }
/-- R351 -/
def SlcPerf.RA_BEATS : Fld := { off := 0x160, hi := 31, lo := 0, acc := .rc, rst := 0 }
/-- R351 -/
def SlcPerf.RA_CLAIMED : Fld := { off := 0x164, hi := 31, lo := 0, acc := .rc, rst := 0 }
/-- R351 -/
def SlcPerf.RA_DISCARDED : Fld := { off := 0x168, hi := 31, lo := 0, acc := .rc, rst := 0 }
/-- R351 -/
def SlcPerf.RA_DROPPED : Fld := { off := 0x16c, hi := 31, lo := 0, acc := .rc, rst := 0 }

/-! ## `SLC_HEALTH` (17_reliability.md) -/
/-- R372 -/
def SlcHealth.HSTATE : Fld := { off := 0x40, hi := 1, lo := 0, acc := .ro, rst := 0 }
/-- R373 -/
def SlcHealth.TEST_LATE : Fld := { off := 0x40, hi := 2, lo := 2, acc := .ro, rst := 0 }
/-- R372 -/
def SlcHealth.LAST_CONF : Fld := { off := 0x44, hi := 63, lo := 0, acc := .ro, rst := 0 }
/-- R372 -/
def SlcHealth.LAST_ERR : Fld := { off := 0x4c, hi := 63, lo := 0, acc := .ro, rst := 0 }
/-- R360 -/
def SlcHealth.PAR_MEM_IN : Fld := { off := 0x54, hi := 15, lo := 0, acc := .rc, rst := 0 }
/-- R360 -/
def SlcHealth.PAR_TB : Fld := { off := 0x54, hi := 31, lo := 16, acc := .rc, rst := 0 }
/-- R360 -/
def SlcHealth.PAR_ACC : Fld := { off := 0x58, hi := 15, lo := 0, acc := .rc, rst := 0 }
/-- R360 -/
def SlcHealth.PAR_REG : Fld := { off := 0x58, hi := 31, lo := 16, acc := .rc, rst := 0 }
/-- R373 -/
def SlcHealth.TESTS_RUN : Fld := { off := 0x5c, hi := 15, lo := 0, acc := .rc, rst := 0 }
/-- R373 -/
def SlcHealth.TESTS_LATE : Fld := { off := 0x5c, hi := 31, lo := 16, acc := .rc, rst := 0 }

/-! ## `SLC_PORT` (04_fabric.md) -/
/-- R85 -/
def SlcPort.CHECKED : Fld := { off := 0x40, hi := 0, lo := 0, acc := .ro, rst := 0 }
/-- R85 -/
def SlcPort.PASSED : Fld := { off := 0x40, hi := 1, lo := 1, acc := .ro, rst := 0 }
/-- R85 -/
def SlcPort.PORT_CAUSE : Fld := { off := 0x40, hi := 7, lo := 4, acc := .ro, rst := 0 }
/-- R141 -/
def SlcPort.PORT_ID : Fld := { off := 0x44, hi := 31, lo := 0, acc := .ro, rst := 0 }
/-- R360 -/
def SlcPort.MEM_PAR_CNT : Fld := { off := 0x48, hi := 15, lo := 0, acc := .rc, rst := 0 }
/-- R360 -/
def SlcPort.RES_PAR_CNT : Fld := { off := 0x48, hi := 31, lo := 16, acc := .rc, rst := 0 }

/-! ## `SLC_EXT` (07_nalrak_generation.md) -/
/-- R154 -/
def SlcExt.MAN : Fld := { off := 0x40, hi := 31, lo := 0, acc := .ro, rst := 0, cnt := 64, stride := 4 }
/-- R148 -/
def SlcExt.TIMEOUT_CNT : Fld := { off := 0x140, hi := 15, lo := 0, acc := .rc, rst := 0 }
/-- R149 -/
def SlcExt.FAULT_CNT : Fld := { off := 0x140, hi := 31, lo := 16, acc := .rc, rst := 0 }

/-! ## `STK_MCR` (05_memory_stacks.md) -/
/-- R98 -/
def StkMcr.INIT_BUSY : Fld := { off := 0x40, hi := 0, lo := 0, acc := .ro, rst := 0 }
/-- R98 -/
def StkMcr.INIT_DONE : Fld := { off := 0x40, hi := 1, lo := 1, acc := .ro, rst := 0 }
/-- R101 -/
def StkMcr.INIT_FAIL : Fld := { off := 0x40, hi := 2, lo := 2, acc := .ro, rst := 0 }
/-- R105 -/
def StkMcr.REPAIR_CNT : Fld := { off := 0x44, hi := 15, lo := 0, acc := .rc, rst := 0 }
/-- R105 -/
def StkMcr.REPAIR_DROP_CNT : Fld := { off := 0x44, hi := 31, lo := 16, acc := .rc, rst := 0 }

/-! ## `STK_REFRESH` (05_memory_stacks.md) -/
/-- R109 -/
def StkRefresh.REF_CNT : Fld := { off := 0x40, hi := 31, lo := 0, acc := .rc, rst := 0 }
/-- R109 -/
def StkRefresh.DEBT_NOW : Fld := { off := 0x44, hi := 3, lo := 0, acc := .ro, rst := 0 }
/-- R109 -/
def StkRefresh.DEBT_PEAK : Fld := { off := 0x44, hi := 11, lo := 8, acc := .rc, rst := 0 }

/-! ## `STK_ECC` (05_memory_stacks.md) -/
/-- R105 -/
def StkEcc.CE_CNT : Fld := { off := 0x40, hi := 31, lo := 0, acc := .rc, rst := 0 }
/-- R106 -/
def StkEcc.UE_CNT : Fld := { off := 0x44, hi := 31, lo := 0, acc := .rc, rst := 0 }
/-- R107 -/
def StkEcc.WPAR_CNT : Fld := { off := 0x48, hi := 31, lo := 0, acc := .rc, rst := 0 }
/-- R105 -/
def StkEcc.LAST_ADDR : Fld := { off := 0x4c, hi := 34, lo := 0, acc := .ro, rst := 0 }
/-- R105 -/
def StkEcc.LAST_SYN : Fld := { off := 0x54, hi := 15, lo := 0, acc := .ro, rst := 0 }
/-- R105 -/
def StkEcc.LAST_CLASS : Fld := { off := 0x54, hi := 17, lo := 16, acc := .ro, rst := 0 }
/-- R105 -/
def StkEcc.LAST_SRC : Fld := { off := 0x54, hi := 21, lo := 18, acc := .ro, rst := 0 }
/-- R105 -/
def StkEcc.LAST_UNIT : Fld := { off := 0x54, hi := 25, lo := 22, acc := .ro, rst := 0 }

/-! ## `STK_BU` (06_bank_units.md) -/
/-- R137 -/
def StkBu.SEL_CHANNEL : Fld := { off := 0x40, hi := 3, lo := 0, acc := .rw, rst := 0 }
/-- R137 -/
def StkBu.SEL_BANK : Fld := { off := 0x40, hi := 7, lo := 4, acc := .rw, rst := 0 }
/-- R137 -/
def StkBu.OCCUPIED : Fld := { off := 0x44, hi := 15, lo := 0, acc := .ro, rst := 0 }
/-- R137 -/
def StkBu.HELD : Fld := { off := 0x44, hi := 31, lo := 16, acc := .ro, rst := 0 }
/-- R121 -/
def StkBu.BU_CMD_CNT : Fld := { off := 0x48, hi := 31, lo := 0, acc := .rc, rst := 0 }
/-- R121 -/
def StkBu.BU_FAULT_CNT : Fld := { off := 0x4c, hi := 31, lo := 0, acc := .rc, rst := 0 }
/-- R121 -/
def StkBu.LF_STATUS : Fld := { off := 0x50, hi := 7, lo := 0, acc := .ro, rst := 0 }
/-- R121 -/
def StkBu.LF_CHANNEL : Fld := { off := 0x50, hi := 11, lo := 8, acc := .ro, rst := 0 }
/-- R121 -/
def StkBu.LF_BANK : Fld := { off := 0x50, hi := 15, lo := 12, acc := .ro, rst := 0 }
/-- R121 -/
def StkBu.LF_CTX : Fld := { off := 0x50, hi := 21, lo := 16, acc := .ro, rst := 0 }
/-- R130 -/
def StkBu.CHAIN_PAR_CNT : Fld := { off := 0x54, hi := 31, lo := 0, acc := .rc, rst := 0 }

/-! ## `SIB_RX` (15_stream_link.md) -/
/-- R323 -/
def SibRx.RX_EN : Fld := { off := 0x40, hi := 0, lo := 0, acc := .rw, rst := 0, cnt := 32, stride := 4 }
/-- R323 -/
def SibRx.RX_RATE : Fld := { off := 0x40, hi := 2, lo := 1, acc := .rw, rst := 0, cnt := 32, stride := 4 }
/-- R324 -/
def SibRx.RX_INVERT : Fld := { off := 0x40, hi := 3, lo := 3, acc := .rw, rst := 0, cnt := 32, stride := 4 }
/-- R325 -/
def SibRx.BLOCK_LOCK : Fld := { off := 0xc0, hi := 0, lo := 0, acc := .ro, rst := 0, cnt := 32, stride := 4 }
/-- R327 -/
def SibRx.ALIGNED : Fld := { off := 0xc0, hi := 1, lo := 1, acc := .ro, rst := 0, cnt := 32, stride := 4 }
/-- R327 -/
def SibRx.LOGICAL : Fld := { off := 0xc0, hi := 6, lo := 2, acc := .ro, rst := 0, cnt := 32, stride := 4 }
/-- R327 -/
def SibRx.LGROUP : Fld := { off := 0xc0, hi := 8, lo := 7, acc := .ro, rst := 0, cnt := 32, stride := 4 }
/-- R325 -/
def SibRx.SYNC_ERR_CNT : Fld := { off := 0xc0, hi := 31, lo := 16, acc := .rc, rst := 0, cnt := 32, stride := 4 }

/-! ## `SIB_TX` (15_stream_link.md) -/
/-- R342 -/
def SibTx.TX_EN : Fld := { off := 0x40, hi := 0, lo := 0, acc := .rw, rst := 0, cnt := 8, stride := 4 }
/-- R342 -/
def SibTx.TX_RATE : Fld := { off := 0x40, hi := 2, lo := 1, acc := .rw, rst := 0, cnt := 8, stride := 4 }
/-- R342 -/
def SibTx.TX_INVERT : Fld := { off := 0x40, hi := 3, lo := 3, acc := .rw, rst := 0, cnt := 8, stride := 4 }

/-! ## `SIB_GRP` (15_stream_link.md) -/
/-- R327 -/
def SibGrp.RX_MASK : Fld := { off := 0x40, hi := 31, lo := 0, acc := .rw, rst := 0 }
/-- R329 -/
def SibGrp.TX_MASK : Fld := { off := 0x44, hi := 7, lo := 0, acc := .rw, rst := 0 }
/-- R335 -/
def SibGrp.MISSING_ACTION : Fld := { off := 0x44, hi := 8, lo := 8, acc := .rw, rst := 0 }
/-- R332 -/
def SibGrp.SLOTS : Fld := { off := 0x44, hi := 12, lo := 9, acc := .rw, rst := 0 }
/-- R332 -/
def SibGrp.BUF_VA : Fld := { off := 0x48, hi := 39, lo := 16, acc := .rw, rst := 0 }
/-- R332 -/
def SibGrp.SLOT_UNITS : Fld := { off := 0x50, hi := 11, lo := 0, acc := .rw, rst := 0 }
/-- R339 -/
def SibGrp.DEFAULT_DECISION : Fld := { off := 0x54, hi := 31, lo := 0, acc := .rw, rst := 0 }
/-- R336 -/
def SibGrp.ATTACHED : Fld := { off := 0x58, hi := 0, lo := 0, acc := .ro, rst := 0 }
/-- R327 -/
def SibGrp.GROUP_ALIGNED : Fld := { off := 0x58, hi := 1, lo := 1, acc := .ro, rst := 0 }
/-- R328 -/
def SibGrp.LANE_CONFLICT : Fld := { off := 0x58, hi := 2, lo := 2, acc := .ro, rst := 0 }
/-- R328 -/
def SibGrp.RATE_MIX : Fld := { off := 0x58, hi := 3, lo := 3, acc := .ro, rst := 0 }
/-- R329 -/
def SibGrp.TX_CONFLICT : Fld := { off := 0x58, hi := 4, lo := 4, acc := .ro, rst := 0 }
/-- R329 -/
def SibGrp.TX_RATE_MIX : Fld := { off := 0x58, hi := 5, lo := 5, acc := .ro, rst := 0 }
/-- R335 -/
def SibGrp.FRAMES : Fld := { off := 0x60, hi := 31, lo := 0, acc := .rc, rst := 0 }
/-- R335 -/
def SibGrp.FRAMES_PARTIAL : Fld := { off := 0x64, hi := 15, lo := 0, acc := .rc, rst := 0 }
/-- R335 -/
def SibGrp.FRAMES_MISSING : Fld := { off := 0x64, hi := 31, lo := 16, acc := .rc, rst := 0 }
/-- R331 -/
def SibGrp.SEG_GOOD : Fld := { off := 0x68, hi := 31, lo := 0, acc := .rc, rst := 0 }
/-- R331 -/
def SibGrp.SEG_CRC : Fld := { off := 0x6c, hi := 15, lo := 0, acc := .rc, rst := 0 }
/-- R331 -/
def SibGrp.SEG_LATE : Fld := { off := 0x6c, hi := 31, lo := 16, acc := .rc, rst := 0 }
/-- R331 -/
def SibGrp.SEG_DUP : Fld := { off := 0x70, hi := 15, lo := 0, acc := .rc, rst := 0 }
/-- R331 -/
def SibGrp.SEG_BOUNDS : Fld := { off := 0x70, hi := 31, lo := 16, acc := .rc, rst := 0 }
/-- R331 -/
def SibGrp.HDR_ERR : Fld := { off := 0x74, hi := 15, lo := 0, acc := .rc, rst := 0 }
/-- R331 -/
def SibGrp.TICK_MISMATCH : Fld := { off := 0x74, hi := 31, lo := 16, acc := .rc, rst := 0 }
/-- R331 -/
def SibGrp.ORPHAN : Fld := { off := 0x78, hi := 15, lo := 0, acc := .rc, rst := 0 }
/-- R331 -/
def SibGrp.CTRL_ERR : Fld := { off := 0x78, hi := 31, lo := 16, acc := .rc, rst := 0 }
/-- R339 -/
def SibGrp.LAST_DECISION : Fld := { off := 0x80, hi := 63, lo := 0, acc := .ro, rst := 0 }

/-! ## `SIB_TRIG` (15_stream_link.md) -/
/-- R341 -/
def SibTrig.TRIG_EN : Fld := { off := 0x40, hi := 0, lo := 0, acc := .rw, rst := 0, cnt := 16, stride := 4 }
/-- R341 -/
def SibTrig.TRIG_INVERT : Fld := { off := 0x40, hi := 1, lo := 1, acc := .rw, rst := 0, cnt := 16, stride := 4 }
/-- R341 -/
def SibTrig.TRIG_GROUP : Fld := { off := 0x40, hi := 3, lo := 2, acc := .rw, rst := 0, cnt := 16, stride := 4 }
/-- R341 -/
def SibTrig.TRIG_BIT : Fld := { off := 0x40, hi := 9, lo := 4, acc := .rw, rst := 0, cnt := 16, stride := 4 }
/-- R341 -/
def SibTrig.TRIG_PULSE : Fld := { off := 0x40, hi := 10, lo := 10, acc := .rw, rst := 0, cnt := 16, stride := 4 }
/-- R341 -/
def SibTrig.PULSE_NS : Fld := { off := 0x80, hi := 15, lo := 0, acc := .rw, rst := 0x64 }

/-! ## `CLOVE` (18_faults_scrubbing.md) -/
/-- R399 -/
def Clove.RUNNING : Fld := { off := 0x40, hi := 0, lo := 0, acc := .ro, rst := 0 }
/-- R399 -/
def Clove.ACTIVE : Fld := { off := 0x40, hi := 1, lo := 1, acc := .ro, rst := 0 }
/-- R401 -/
def Clove.A_FAILED : Fld := { off := 0x40, hi := 2, lo := 2, acc := .ro, rst := 0 }
/-- R401 -/
def Clove.B_FAILED : Fld := { off := 0x40, hi := 3, lo := 3, acc := .ro, rst := 0 }
/-- R402 -/
def Clove.SCRUB_DEGRADED : Fld := { off := 0x40, hi := 4, lo := 4, acc := .ro, rst := 0 }
/-- R402 -/
def Clove.SCRUB_FAULT : Fld := { off := 0x40, hi := 5, lo := 5, acc := .ro, rst := 0 }
/-- R403 -/
def Clove.UNVERIFIED : Fld := { off := 0x40, hi := 6, lo := 6, acc := .ro, rst := 0 }
/-- R401 -/
def Clove.CAUSE_A : Fld := { off := 0x40, hi := 11, lo := 8, acc := .ro, rst := 0 }
/-- R401 -/
def Clove.CAUSE_B : Fld := { off := 0x40, hi := 15, lo := 12, acc := .ro, rst := 0 }
/-- R399 -/
def Clove.PASS_US : Fld := { off := 0x40, hi := 31, lo := 16, acc := .ro, rst := 0 }
/-- R403 -/
def Clove.PAIR_RESET : Fld := { off := 0x44, hi := 0, lo := 0, acc := .wo, rst := 0 }
/-- R399 -/
def Clove.CLV_PASSES : Fld := { off := 0x48, hi := 31, lo := 0, acc := .rc, rst := 0 }
/-- R400 -/
def Clove.CORRECTED : Fld := { off := 0x4c, hi := 15, lo := 0, acc := .rc, rst := 0 }
/-- R400 -/
def Clove.UNCORRECTABLE : Fld := { off := 0x4c, hi := 31, lo := 16, acc := .rc, rst := 0 }
/-- R401 -/
def Clove.CLV_TMR : Fld := { off := 0x50, hi := 31, lo := 0, acc := .rc, rst := 0 }

/-! ## `ANISE` (17_reliability.md) -/
/-- R365 -/
def Anise.EN : Fld := { off := 0x40, hi := 0, lo := 0, acc := .rwa, rst := 0x1 }
/-- R365 -/
def Anise.SAMPLE_LOG2 : Fld := { off := 0x40, hi := 4, lo := 1, acc := .rwa, rst := 0x6 }
/-- R365 -/
def Anise.SUSPECT_LOG2 : Fld := { off := 0x40, hi := 8, lo := 5, acc := .rwa, rst := 0x3 }
/-- R364 -/
def Anise.EXT_EN : Fld := { off := 0x40, hi := 9, lo := 9, acc := .rwa, rst := 0x1 }
/-- R365 -/
def Anise.SEED : Fld := { off := 0x40, hi := 31, lo := 16, acc := .rwa, rst := 0xace1 }
/-- R366 -/
def Anise.SAMPLED : Fld := { off := 0x44, hi := 31, lo := 0, acc := .rc, rst := 0 }
/-- R366 -/
def Anise.SKIPPED : Fld := { off := 0x48, hi := 31, lo := 0, acc := .rc, rst := 0 }
/-- R370 -/
def Anise.MATCH : Fld := { off := 0x4c, hi := 31, lo := 0, acc := .rc, rst := 0 }
/-- R370 -/
def Anise.DISAGREE : Fld := { off := 0x50, hi := 31, lo := 0, acc := .rc, rst := 0 }
/-- R371 -/
def Anise.LAST_ORIGIN : Fld := { off := 0x54, hi := 3, lo := 0, acc := .ro, rst := 0 }
/-- R371 -/
def Anise.LAST_REPLAY : Fld := { off := 0x54, hi := 7, lo := 4, acc := .ro, rst := 0 }
/-- R371 -/
def Anise.LAST_THIRD : Fld := { off := 0x54, hi := 11, lo := 8, acc := .ro, rst := 0 }
/-- R371 -/
def Anise.LAST_OUTCOME : Fld := { off := 0x54, hi := 13, lo := 12, acc := .ro, rst := 0 }
/-- R371 -/
def Anise.LAST_TTYPE : Fld := { off := 0x54, hi := 15, lo := 14, acc := .ro, rst := 0 }

/-! ## `FRU` (17_reliability.md) -/
/-- R377 -/
def Fru.EN : Fld := { off := 0x40, hi := 0, lo := 0, acc := .rwa, rst := 0x1 }
/-- R377 -/
def Fru.CE_EN : Fld := { off := 0x40, hi := 1, lo := 1, acc := .rwa, rst := 0x1 }
/-- R377 -/
def Fru.TAIL : Fld := { off := 0x44, hi := 15, lo := 0, acc := .ro, rst := 0 }
/-- R377 -/
def Fru.HEAD : Fld := { off := 0x48, hi := 15, lo := 0, acc := .rwa, rst := 0 }
/-- R377 -/
def Fru.LOST : Fld := { off := 0x4c, hi := 31, lo := 0, acc := .rc, rst := 0 }
/-- R377 -/
def Fru.SUPPRESSED : Fld := { off := 0x50, hi := 31, lo := 0, acc := .rc, rst := 0 }
/-- R374 -/
def Fru.DIG_CMP : Fld := { off := 0x54, hi := 31, lo := 0, acc := .rc, rst := 0 }
/-- R374 -/
def Fru.DIG_MISMATCH : Fld := { off := 0x58, hi := 31, lo := 0, acc := .rc, rst := 0 }

/-! ## `PATTERN` (17_reliability.md) -/
/-- R382 -/
def Pattern.LOADED : Fld := { off := 0x40, hi := 0, lo := 0, acc := .ro, rst := 0 }
/-- R382 -/
def Pattern.LAST_RESULT : Fld := { off := 0x40, hi := 15, lo := 8, acc := .ro, rst := 0 }
/-- R383 -/
def Pattern.RUNS : Fld := { off := 0x44, hi := 31, lo := 0, acc := .rc, rst := 0 }
/-- R383 -/
def Pattern.FAILS : Fld := { off := 0x48, hi := 31, lo := 0, acc := .rc, rst := 0 }
/-- R383 -/
def Pattern.LATE : Fld := { off := 0x4c, hi := 31, lo := 0, acc := .rc, rst := 0 }
/-- R382 -/
def Pattern.SERIAL : Fld := { off := 0x50, hi := 63, lo := 0, acc := .ro, rst := 0 }
/-- R382 -/
def Pattern.MIN_SERIAL : Fld := { off := 0x58, hi := 63, lo := 0, acc := .rwa, rst := 0 }
/-- R382 -/
def Pattern.KEYS_PROG : Fld := { off := 0x60, hi := 3, lo := 0, acc := .ro, rst := 0 }
/-- R382 -/
def Pattern.KEYS_REVOKED : Fld := { off := 0x60, hi := 7, lo := 4, acc := .ro, rst := 0 }
/-- R382 -/
def Pattern.KEY_DIS : Fld := { off := 0x64, hi := 3, lo := 0, acc := .rwa, rst := 0 }

/-! ## `HEALTH` (17_reliability.md) -/
/-- R372 -/
def Health.SUSPECT : Fld := { off := 0x40, hi := 15, lo := 0, acc := .ro, rst := 0 }
/-- R372 -/
def Health.QUAR : Fld := { off := 0x44, hi := 15, lo := 0, acc := .ro, rst := 0 }
/-- R372 -/
def Health.CLEAR : Fld := { off := 0x48, hi := 15, lo := 0, acc := .wo, rst := 0 }
/-- R373 -/
def Health.NORMAL_MS : Fld := { off := 0x4c, hi := 15, lo := 0, acc := .rwa, rst := 0x3e8 }
/-- R373 -/
def Health.SUSPECT_MS : Fld := { off := 0x4c, hi := 31, lo := 16, acc := .rwa, rst := 0xa }
/-- R372 -/
def Health.QUAR_WINDOW_S : Fld := { off := 0x50, hi := 15, lo := 0, acc := .rwa, rst := 0xe10 }
/-- R372 -/
def Health.RECOVER_H : Fld := { off := 0x50, hi := 31, lo := 16, acc := .rwa, rst := 0x18 }

/-! ## `MGT_SENSE` (19_power_pins.md) -/
/-- R431 -/
def MgtSense.TEMP_MAX : Fld := { off := 0x40, hi := 23, lo := 0, acc := .ro, rst := 0 }
/-- R431 -/
def MgtSense.TEMP_DRAM : Fld := { off := 0x44, hi := 23, lo := 0, acc := .ro, rst := 0 }
/-- R431 -/
def MgtSense.TEMP_FABRIC : Fld := { off := 0x48, hi := 23, lo := 0, acc := .ro, rst := 0 }
/-- R431 -/
def MgtSense.TEMP_BASE : Fld := { off := 0x4c, hi := 23, lo := 0, acc := .ro, rst := 0 }
/-- R431 -/
def MgtSense.V_CORE : Fld := { off := 0x50, hi := 15, lo := 0, acc := .ro, rst := 0 }
/-- R431 -/
def MgtSense.V_BU : Fld := { off := 0x50, hi := 31, lo := 16, acc := .ro, rst := 0 }
/-- R431 -/
def MgtSense.V_VDD_ST : Fld := { off := 0x54, hi := 15, lo := 0, acc := .ro, rst := 0 }
/-- R431 -/
def MgtSense.V_VPP_ST : Fld := { off := 0x54, hi := 31, lo := 16, acc := .ro, rst := 0 }
/-- R431 -/
def MgtSense.V_XCVR : Fld := { off := 0x58, hi := 15, lo := 0, acc := .ro, rst := 0 }
/-- R431 -/
def MgtSense.V_XAUX : Fld := { off := 0x58, hi := 31, lo := 16, acc := .ro, rst := 0 }
/-- R431 -/
def MgtSense.V_AUX : Fld := { off := 0x5c, hi := 15, lo := 0, acc := .ro, rst := 0 }
/-- R431 -/
def MgtSense.I_CORE : Fld := { off := 0x60, hi := 15, lo := 0, acc := .ro, rst := 0 }
/-- R431 -/
def MgtSense.I_BU : Fld := { off := 0x60, hi := 31, lo := 16, acc := .ro, rst := 0 }
/-- R431 -/
def MgtSense.I_VDD_ST : Fld := { off := 0x64, hi := 15, lo := 0, acc := .ro, rst := 0 }
/-- R431 -/
def MgtSense.I_VPP_ST : Fld := { off := 0x64, hi := 31, lo := 16, acc := .ro, rst := 0 }
/-- R431 -/
def MgtSense.I_XCVR : Fld := { off := 0x68, hi := 15, lo := 0, acc := .ro, rst := 0 }
/-- R431 -/
def MgtSense.I_XAUX : Fld := { off := 0x68, hi := 31, lo := 16, acc := .ro, rst := 0 }
/-- R431 -/
def MgtSense.P_TOTAL : Fld := { off := 0x6c, hi := 15, lo := 0, acc := .ro, rst := 0 }
/-- R431 -/
def MgtSense.V_IO_E : Fld := { off := 0x70, hi := 15, lo := 0, acc := .ro, rst := 0, cnt := 4, stride := 4 }
/-- R431 -/
def MgtSense.V_IO_O : Fld := { off := 0x70, hi := 31, lo := 16, acc := .ro, rst := 0, cnt := 4, stride := 4 }
/-- R431 -/
def MgtSense.TEMP : Fld := { off := 0x80, hi := 15, lo := 0, acc := .ro, rst := 0, cnt := 41, stride := 4 }
/-- R431 -/
def MgtSense.TEMP_VALID : Fld := { off := 0x80, hi := 16, lo := 16, acc := .ro, rst := 0, cnt := 41, stride := 4 }
/-- R410 -/
def MgtSense.RST_CAUSE : Fld := { off := 0x130, hi := 3, lo := 0, acc := .ro, rst := 0 }
/-- R409 -/
def MgtSense.FAULT_RAIL : Fld := { off := 0x130, hi := 11, lo := 4, acc := .ro, rst := 0 }
/-- R408 -/
def MgtSense.SEQ_ERR : Fld := { off := 0x130, hi := 12, lo := 12, acc := .w1c, rst := 0 }
/-- R410 -/
def MgtSense.COLD_CNT : Fld := { off := 0x130, hi := 31, lo := 16, acc := .ro, rst := 0 }

/-! ## `MGT_CLK` (19_power_pins.md) -/
/-- R418 -/
def MgtClk.CLK_STAT : Fld := { off := 0x40, hi := 7, lo := 0, acc := .ro, rst := 0 }
/-- R418 -/
def MgtClk.CLK_LOST : Fld := { off := 0x44, hi := 7, lo := 0, acc := .w1c, rst := 0 }

/-! ## `MGT_GOV` (16_runahead_governor.md) -/
/-- R355 -/
def MgtGov.TARGET_MHZ : Fld := { off := 0x40, hi := 9, lo := 0, acc := .rw, rst := 0x258 }
/-- R355 -/
def MgtGov.FLOOR_MHZ : Fld := { off := 0x40, hi := 25, lo := 16, acc := .rw, rst := 0x1c2 }
/-- R355 -/
def MgtGov.BU_DUTY_MIN : Fld := { off := 0x44, hi := 6, lo := 0, acc := .rw, rst := 0x50 }
/-- R357 -/
def MgtGov.SHED_ORDER : Fld := { off := 0x48, hi := 7, lo := 0, acc := .rw, rst := 0xe4 }
/-- R357 -/
def MgtGov.SHED_EN : Fld := { off := 0x48, hi := 11, lo := 8, acc := .rw, rst := 0xf }
/-- R354 -/
def MgtGov.CLK_MHZ : Fld := { off := 0x4c, hi := 9, lo := 0, acc := .ro, rst := 0x258 }
/-- R354 -/
def MgtGov.BU_DUTY : Fld := { off := 0x4c, hi := 16, lo := 10, acc := .ro, rst := 0x64 }
/-- R354 -/
def MgtGov.HOST_DUTY : Fld := { off := 0x4c, hi := 20, lo := 17, acc := .ro, rst := 0x8 }
/-- R357 -/
def MgtGov.SHED_ACTIVE : Fld := { off := 0x4c, hi := 24, lo := 21, acc := .ro, rst := 0 }
/-- R355 -/
def MgtGov.THROTTLE : Fld := { off := 0x4c, hi := 25, lo := 25, acc := .ro, rst := 0 }
/-- R356 -/
def MgtGov.PROTECT : Fld := { off := 0x4c, hi := 26, lo := 26, acc := .ro, rst := 0 }
/-- R359 -/
def MgtGov.GOV_CONFLICT : Fld := { off := 0x50, hi := 0, lo := 0, acc := .w1c, rst := 0 }
/-- R359 -/
def MgtGov.CAUSE : Fld := { off := 0x50, hi := 7, lo := 4, acc := .ro, rst := 0 }
/-- R359 -/
def MgtGov.CONFLICT_CNT : Fld := { off := 0x50, hi := 31, lo := 16, acc := .rc, rst := 0 }
/-- R286 -/
def MgtGov.PINNED : Fld := { off := 0x54, hi := 15, lo := 0, acc := .ro, rst := 0 }
/-- R355 -/
def MgtGov.STEP_CNT : Fld := { off := 0x58, hi := 15, lo := 0, acc := .rc, rst := 0 }
/-- R357 -/
def MgtGov.SHED_CNT : Fld := { off := 0x58, hi := 31, lo := 16, acc := .rc, rst := 0 }

/-! ## `MGT_LIMIT` (16_runahead_governor.md) -/
/-- R355 -/
def MgtLimit.LIM_THROTTLE : Fld := { off := 0x40, hi := 7, lo := 0, acc := .ro, rst := 0x5f }
/-- R356 -/
def MgtLimit.LIM_SHED : Fld := { off := 0x40, hi := 15, lo := 8, acc := .ro, rst := 0x69 }
/-- R358 -/
def MgtLimit.LIM_TRIP : Fld := { off := 0x40, hi := 23, lo := 16, acc := .ro, rst := 0x6e }
/-- R355 -/
def MgtLimit.CORE_I_THROTTLE : Fld := { off := 0x44, hi := 15, lo := 0, acc := .rw, rst := 0xaf0 }
/-- R356 -/
def MgtLimit.CORE_I_LIMIT : Fld := { off := 0x44, hi := 31, lo := 16, acc := .rw, rst := 0xc80 }
/-- R355 -/
def MgtLimit.BU_I_THROTTLE : Fld := { off := 0x48, hi := 15, lo := 0, acc := .rw, rst := 0x384 }
/-- R356 -/
def MgtLimit.BU_I_LIMIT : Fld := { off := 0x48, hi := 31, lo := 16, acc := .rw, rst := 0x3e8 }
/-- R358 -/
def MgtLimit.TRIPPED : Fld := { off := 0x4c, hi := 0, lo := 0, acc := .w1c, rst := 0 }
/-- R356 -/
def MgtLimit.ILIM_CORE : Fld := { off := 0x4c, hi := 1, lo := 1, acc := .ro, rst := 0 }
/-- R356 -/
def MgtLimit.ILIM_BU : Fld := { off := 0x4c, hi := 2, lo := 2, acc := .ro, rst := 0 }
/-- R356 -/
def MgtLimit.TEMP_SHED : Fld := { off := 0x4c, hi := 3, lo := 3, acc := .ro, rst := 0 }
/-- R358 -/
def MgtLimit.TRIP_SENSOR : Fld := { off := 0x4c, hi := 15, lo := 8, acc := .ro, rst := 0 }

/-! ## `MGT_SIDEBAND` (19_power_pins.md) -/
/-- R429 -/
def MgtSideband.SB_ADDR : Fld := { off := 0x40, hi := 6, lo := 0, acc := .ro, rst := 0x58 }
/-- R429 -/
def MgtSideband.SB_DONE_CNT : Fld := { off := 0x44, hi := 15, lo := 0, acc := .rc, rst := 0 }
/-- R429 -/
def MgtSideband.SB_PEC_CNT : Fld := { off := 0x44, hi := 23, lo := 16, acc := .rc, rst := 0 }
/-- R429 -/
def MgtSideband.SB_BAD_CNT : Fld := { off := 0x44, hi := 31, lo := 24, acc := .rc, rst := 0 }

/-- The fields of the common header. -/
def Hdr.all : List Fld := [Hdr.FUNC, Hdr.REGION, Hdr.INSTANCE, Hdr.LAYOUT, Hdr.HAS_IRQ, Hdr.OWNED,
  Hdr.LOCKABLE, Hdr.PARAM_COUNT, Hdr.LOCK, Hdr.SOFT_RESET, Hdr.LOCKED, Hdr.RESET_BUSY, Hdr.REFUSED,
  Hdr.REFUSED_LOCK, Hdr.REFUSED_PORT, Hdr.IRQ_STAT, Hdr.IRQ_MASK, Hdr.IRQ_SET, Hdr.REFUSED_CNT,
  Hdr.BLOCK_ERR_CNT, Hdr.OWNER_PORT, Hdr.OWNER_VALID, Hdr.GLOBAL, Hdr.OWNER_CONTEXT, Hdr.PARAM]

/-- The fields of `DEV_CAP`. -/
def DevCap.all : List Fld := [DevCap.FAMILY, DevCap.MODULE, DevCap.GRADE_SLICES, DevCap.STEPPING,
  DevCap.FUSE_SLICE_MASK, DevCap.ENGINE_SLICE_MASK, DevCap.KPHYS_MIN, DevCap.NPHYS_MIN, DevCap.UNIFORM,
  DevCap.ENGINE_LAYOUT, DevCap.ENGINE_MAX_MHZ, DevCap.ARRAY_FMT, DevCap.VEC_FMT, DevCap.BU_FMT,
  DevCap.SFU_NATIVE_VER, DevCap.SFU_FROZEN_MASK, DevCap.STACKS, DevCap.CHANNELS, DevCap.BANKS,
  DevCap.BANK_MIB, DevCap.BU_COUNT, DevCap.CTX_SLOTS, DevCap.LINK_SPLIT, DevCap.ADMIN, DevCap.QUEUES,
  DevCap.EXT_MASK, DevCap.CARVE_BASE, DevCap.TIMEBASE_MHZ, DevCap.BU_MHZ, DevCap.ISTORE_BUNDLES,
  DevCap.LIB_BUNDLES, DevCap.CALL_DEPTH, DevCap.LIB_ROUTINES, DevCap.DESCRIPTORS]

/-- The fields of `GLB_CTRL`. -/
def GlbCtrl.all : List Fld := [GlbCtrl.ADMIN_PORT, GlbCtrl.STRAY_WR_CNT, GlbCtrl.STRAY_WR_PORT,
  GlbCtrl.LOADING, GlbCtrl.LOADED, GlbCtrl.LOAD_FAILED, GlbCtrl.LOAD_CAUSE, GlbCtrl.IO_BANK_OFF,
  GlbCtrl.FAB_LOADS, GlbCtrl.FAB_SIG, GlbCtrl.GLB_RESET_KEY]

/-- The fields of `GLB_FUSE`. -/
def GlbFuse.all : List Fld := []

/-- The fields of `PLV`. -/
def Plv.all : List Fld := [Plv.BUSY, Plv.LAST_CODE, Plv.OFFSET, Plv.CTX, Plv.ADMITTED, Plv.REJECTED,
  Plv.REVERIFY_CNT, Plv.CERT_STREAM_NS, Plv.CERT_SEG_NS, Plv.HALT_ARM, Plv.HALT_CTX, Plv.HALT_MEMBER,
  Plv.HALT_ADDR, Plv.HALT_COUNT, Plv.HALT_DUMP, Plv.HALT_FIRED, Plv.HALT_DUMPED, Plv.HALT_DUMP_LOST,
  Plv.HALT_ARM_BAD, Plv.HALT_REMAIN]

/-- The fields of `SEU`. -/
def Seu.all : List Fld := []

/-- The fields of `GLB_CARVE`. -/
def GlbCarve.all : List Fld := [GlbCarve.MEM_INIT_DONE, GlbCarve.INIT_FAIL, GlbCarve.CARVE_WR_CNT,
  GlbCarve.CARVE_WR_PORT, GlbCarve.ZONE_REJ_CNT, GlbCarve.ZONE_VIEW]

/-- The fields of `TKG_SRC`. -/
def TkgSrc.all : List Fld := [TkgSrc.RUN, TkgSrc.SOURCE, TkgSrc.RELOCK, TkgSrc.TICKOUT_EN,
  TkgSrc.TICKOUT_WIDTH, TkgSrc.RUNNING, TkgSrc.LOCKED, TkgSrc.TICK_LOST, TkgSrc.RELOCK_ARMED,
  TkgSrc.SYNTH_RUN, TkgSrc.TICK_START, TkgSrc.TICK_NUM, TkgSrc.TIME, TkgSrc.SYNTH_CNT, TkgSrc.STRAY_CNT,
  TkgSrc.LAST_PERIOD]

/-- The fields of `TKG_WIN`. -/
def TkgWin.all : List Fld := [TkgWin.PERIOD, TkgWin.COMPUTE_START, TkgWin.COMPUTE_END, TkgWin.GAP_END,
  TkgWin.DECISION_OFFSET, TkgWin.TOL, TkgWin.COMMIT, TkgWin.SCHEDULE_INVALID, TkgWin.COMMIT_PENDING,
  TkgWin.LONG_MODE, TkgWin.BAND, TkgWin.HOT_EXHAUSTED, TkgWin.INVALID_CAUSE, TkgWin.ACT_PERIOD,
  TkgWin.ACT_CSTART, TkgWin.ACT_CEND, TkgWin.ACT_GEND, TkgWin.ACT_DECISION_OFFSET, TkgWin.ACT_TOL,
  TkgWin.GMIN_0, TkgWin.GMIN_1, TkgWin.COMPUTE_CERT_NS, TkgWin.HOST_CERT_NS, TkgWin.POINT_COUNT]

/-- The fields of `TKG_OVR`. -/
def TkgOvr.all : List Fld := [TkgOvr.OVR_CNT, TkgOvr.OVR_TICK, TkgOvr.OVR_SEEN, TkgOvr.HOST_CUT_CNT]

/-- The fields of `HPT_LINK`. -/
def HptLink.all : List Fld := [HptLink.UP, HptLink.RATE, HptLink.WIDTH, HptLink.TEARDOWN_BUSY,
  HptLink.DOWN_CNT, HptLink.FLR_CNT, HptLink.CREQ_GO, HptLink.CREQ_STREAM, HptLink.CREQ_GROUP,
  HptLink.CGRANT_SLOT, HptLink.CGRANT_RESULT, HptLink.QREQ_RING, HptLink.QREQ_CTX, HptLink.QREQ_VALIDATED,
  HptLink.QREQ_DEPTH_LOG2, HptLink.QREQ_GO, HptLink.QREQ_RELEASE_Q, HptLink.QREQ_RELEASE,
  HptLink.QGRANT_QUEUE, HptLink.QGRANT_RESULT]

/-- The fields of `HPT_XLATE`. -/
def HptXlate.all : List Fld := [HptXlate.WIN_EN, HptXlate.WIN_BASE, HptXlate.WIN_LIMIT,
  HptXlate.BAR_DENY_CNT, HptXlate.HOST_DENY_CNT]

/-- The fields of `HPT_EVENT`. -/
def HptEvent.all : List Fld := [HptEvent.MSIX_ADDR, HptEvent.MSIX_DATA, HptEvent.MSIX_MASK, HptEvent.MSIX_PBA]

/-- The fields of `HPT_PACE`. -/
def HptPace.all : List Fld := [HptPace.INFLIGHT_MAX, HptPace.WEIGHT, HptPace.INFLIGHT, HptPace.FETCH_CNT,
  HptPace.PACED_CNT]

/-- The fields of `CTX`. -/
def Ctx.all : List Fld := [Ctx.STATE, Ctx.STREAM, Ctx.PROGRAM, Ctx.RUNNING, Ctx.RESET, Ctx.RELEASE, Ctx.XSP,
  Ctx.XSIZE, Ctx.SAVE, Ctx.EVQ_LOG2, Ctx.EVQ_IRQ_EN, Ctx.EVQ_BASE, Ctx.EVQ_HEAD, Ctx.EVQ_TAIL, Ctx.EV_LOST,
  Ctx.EV_BACKLOG, Ctx.FAULT_SHADOW, Ctx.L1, Ctx.LAST_CAUSE, Ctx.SHADOW_VALID, Ctx.SAVE_INVALID,
  Ctx.SAVE_REASON, Ctx.CONSEC, Ctx.STREAM_HELD, Ctx.HELD_BY, Ctx.RESUME_REFUSED, Ctx.FAULTS, Ctx.SHADOW_LOST,
  Ctx.RESUME]

/-- The fields of `QDB`. -/
def Qdb.all : List Fld := [Qdb.TAIL, Qdb.HEAD, Qdb.DEPTH_LOG2, Qdb.VALIDATED, Qdb.OVERFLOW, Qdb.FETCH_ERR,
  Qdb.STOPPED, Qdb.DB_OBJ, Qdb.DB_OP, Qdb.RS_OBJ, Qdb.RS_OP, Qdb.RS_RES, Qdb.RS_FIELD]

/-- The fields of `SLC_CAP`. -/
def SlcCap.all : List Fld := []

/-- The fields of `SLC_SEQ`. -/
def SlcSeq.all : List Fld := [SlcSeq.RUNNING, SlcSeq.STALLED, SlcSeq.PC, SlcSeq.CTX, SlcSeq.CALL_DEPTH,
  SlcSeq.SEQ_FLAGS]

/-- The fields of `SLC_PERF`. -/
def SlcPerf.all : List Fld := [SlcPerf.BUNDLES, SlcPerf.REPS, SlcPerf.STALLS, SlcPerf.ZERO_WORK,
  SlcPerf.PRED_FALSE, SlcPerf.ARR_PASSES, SlcPerf.ARR_ROWS, SlcPerf.ARR_BUBBLES, SlcPerf.ARR_HOLDS,
  SlcPerf.BCAST, SlcPerf.RIPPLE, SlcPerf.ARR_MERGES, SlcPerf.ARR_POISON, SlcPerf.VEC_INSTR, SlcPerf.SFU_FULL,
  SlcPerf.SFU_QUARTER, SlcPerf.SFU_FLUSH, SlcPerf.VEC_STALL, SlcPerf.TILE_SKIPS, SlcPerf.RESIDENT_HITS,
  SlcPerf.IDX_OOR, SlcPerf.RANGE_FLAGS, SlcPerf.TB_UNINIT_RD, SlcPerf.RA_BEATS, SlcPerf.RA_CLAIMED,
  SlcPerf.RA_DISCARDED, SlcPerf.RA_DROPPED]

/-- The fields of `SLC_HEALTH`. -/
def SlcHealth.all : List Fld := [SlcHealth.HSTATE, SlcHealth.TEST_LATE, SlcHealth.LAST_CONF,
  SlcHealth.LAST_ERR, SlcHealth.PAR_MEM_IN, SlcHealth.PAR_TB, SlcHealth.PAR_ACC, SlcHealth.PAR_REG,
  SlcHealth.TESTS_RUN, SlcHealth.TESTS_LATE]

/-- The fields of `SLC_TB`. -/
def SlcTb.all : List Fld := []

/-- The fields of `SLC_PORT`. -/
def SlcPort.all : List Fld := [SlcPort.CHECKED, SlcPort.PASSED, SlcPort.PORT_CAUSE, SlcPort.PORT_ID,
  SlcPort.MEM_PAR_CNT, SlcPort.RES_PAR_CNT]

/-- The fields of `SLC_EXT`. -/
def SlcExt.all : List Fld := [SlcExt.MAN, SlcExt.TIMEOUT_CNT, SlcExt.FAULT_CNT]

/-- The fields of `STK_CAP`. -/
def StkCap.all : List Fld := []

/-- The fields of `STK_MCR`. -/
def StkMcr.all : List Fld := [StkMcr.INIT_BUSY, StkMcr.INIT_DONE, StkMcr.INIT_FAIL, StkMcr.REPAIR_CNT,
  StkMcr.REPAIR_DROP_CNT]

/-- The fields of `STK_REFRESH`. -/
def StkRefresh.all : List Fld := [StkRefresh.REF_CNT, StkRefresh.DEBT_NOW, StkRefresh.DEBT_PEAK]

/-- The fields of `STK_ECC`. -/
def StkEcc.all : List Fld := [StkEcc.CE_CNT, StkEcc.UE_CNT, StkEcc.WPAR_CNT, StkEcc.LAST_ADDR,
  StkEcc.LAST_SYN, StkEcc.LAST_CLASS, StkEcc.LAST_SRC, StkEcc.LAST_UNIT]

/-- The fields of `STK_BU`. -/
def StkBu.all : List Fld := [StkBu.SEL_CHANNEL, StkBu.SEL_BANK, StkBu.OCCUPIED, StkBu.HELD, StkBu.BU_CMD_CNT,
  StkBu.BU_FAULT_CNT, StkBu.LF_STATUS, StkBu.LF_CHANNEL, StkBu.LF_BANK, StkBu.LF_CTX, StkBu.CHAIN_PAR_CNT]

/-- The fields of `STK_CH`. -/
def StkCh.all : List Fld := []

/-- The fields of `SIB_CAP`. -/
def SibCap.all : List Fld := []

/-- The fields of `SIB_RX`. -/
def SibRx.all : List Fld := [SibRx.RX_EN, SibRx.RX_RATE, SibRx.RX_INVERT, SibRx.BLOCK_LOCK, SibRx.ALIGNED,
  SibRx.LOGICAL, SibRx.LGROUP, SibRx.SYNC_ERR_CNT]

/-- The fields of `SIB_TX`. -/
def SibTx.all : List Fld := [SibTx.TX_EN, SibTx.TX_RATE, SibTx.TX_INVERT]

/-- The fields of `SIB_GRP`. -/
def SibGrp.all : List Fld := [SibGrp.RX_MASK, SibGrp.TX_MASK, SibGrp.MISSING_ACTION, SibGrp.SLOTS,
  SibGrp.BUF_VA, SibGrp.SLOT_UNITS, SibGrp.DEFAULT_DECISION, SibGrp.ATTACHED, SibGrp.GROUP_ALIGNED,
  SibGrp.LANE_CONFLICT, SibGrp.RATE_MIX, SibGrp.TX_CONFLICT, SibGrp.TX_RATE_MIX, SibGrp.FRAMES,
  SibGrp.FRAMES_PARTIAL, SibGrp.FRAMES_MISSING, SibGrp.SEG_GOOD, SibGrp.SEG_CRC, SibGrp.SEG_LATE,
  SibGrp.SEG_DUP, SibGrp.SEG_BOUNDS, SibGrp.HDR_ERR, SibGrp.TICK_MISMATCH, SibGrp.ORPHAN, SibGrp.CTRL_ERR,
  SibGrp.LAST_DECISION]

/-- The fields of `SIB_TRIG`. -/
def SibTrig.all : List Fld := [SibTrig.TRIG_EN, SibTrig.TRIG_INVERT, SibTrig.TRIG_GROUP, SibTrig.TRIG_BIT,
  SibTrig.TRIG_PULSE, SibTrig.PULSE_NS]

/-- The fields of `CLOVE`. -/
def Clove.all : List Fld := [Clove.RUNNING, Clove.ACTIVE, Clove.A_FAILED, Clove.B_FAILED,
  Clove.SCRUB_DEGRADED, Clove.SCRUB_FAULT, Clove.UNVERIFIED, Clove.CAUSE_A, Clove.CAUSE_B, Clove.PASS_US,
  Clove.PAIR_RESET, Clove.CLV_PASSES, Clove.CORRECTED, Clove.UNCORRECTABLE, Clove.CLV_TMR]

/-- The fields of `ANISE`. -/
def Anise.all : List Fld := [Anise.EN, Anise.SAMPLE_LOG2, Anise.SUSPECT_LOG2, Anise.EXT_EN, Anise.SEED,
  Anise.SAMPLED, Anise.SKIPPED, Anise.MATCH, Anise.DISAGREE, Anise.LAST_ORIGIN, Anise.LAST_REPLAY,
  Anise.LAST_THIRD, Anise.LAST_OUTCOME, Anise.LAST_TTYPE]

/-- The fields of `FRU`. -/
def Fru.all : List Fld := [Fru.EN, Fru.CE_EN, Fru.TAIL, Fru.HEAD, Fru.LOST, Fru.SUPPRESSED, Fru.DIG_CMP,
  Fru.DIG_MISMATCH]

/-- The fields of `PATTERN`. -/
def Pattern.all : List Fld := [Pattern.LOADED, Pattern.LAST_RESULT, Pattern.RUNS, Pattern.FAILS,
  Pattern.LATE, Pattern.SERIAL, Pattern.MIN_SERIAL, Pattern.KEYS_PROG, Pattern.KEYS_REVOKED, Pattern.KEY_DIS]

/-- The fields of `HEALTH`. -/
def Health.all : List Fld := [Health.SUSPECT, Health.QUAR, Health.CLEAR, Health.NORMAL_MS, Health.SUSPECT_MS,
  Health.QUAR_WINDOW_S, Health.RECOVER_H]

/-- The fields of `MGT_SENSE`. -/
def MgtSense.all : List Fld := [MgtSense.TEMP_MAX, MgtSense.TEMP_DRAM, MgtSense.TEMP_FABRIC,
  MgtSense.TEMP_BASE, MgtSense.V_CORE, MgtSense.V_BU, MgtSense.V_VDD_ST, MgtSense.V_VPP_ST, MgtSense.V_XCVR,
  MgtSense.V_XAUX, MgtSense.V_AUX, MgtSense.I_CORE, MgtSense.I_BU, MgtSense.I_VDD_ST, MgtSense.I_VPP_ST,
  MgtSense.I_XCVR, MgtSense.I_XAUX, MgtSense.P_TOTAL, MgtSense.V_IO_E, MgtSense.V_IO_O, MgtSense.TEMP,
  MgtSense.TEMP_VALID, MgtSense.RST_CAUSE, MgtSense.FAULT_RAIL, MgtSense.SEQ_ERR, MgtSense.COLD_CNT]

/-- The fields of `MGT_CLK`. -/
def MgtClk.all : List Fld := [MgtClk.CLK_STAT, MgtClk.CLK_LOST]

/-- The fields of `MGT_GOV`. -/
def MgtGov.all : List Fld := [MgtGov.TARGET_MHZ, MgtGov.FLOOR_MHZ, MgtGov.BU_DUTY_MIN, MgtGov.SHED_ORDER,
  MgtGov.SHED_EN, MgtGov.CLK_MHZ, MgtGov.BU_DUTY, MgtGov.HOST_DUTY, MgtGov.SHED_ACTIVE, MgtGov.THROTTLE,
  MgtGov.PROTECT, MgtGov.GOV_CONFLICT, MgtGov.CAUSE, MgtGov.CONFLICT_CNT, MgtGov.PINNED, MgtGov.STEP_CNT,
  MgtGov.SHED_CNT]

/-- The fields of `MGT_LIMIT`. -/
def MgtLimit.all : List Fld := [MgtLimit.LIM_THROTTLE, MgtLimit.LIM_SHED, MgtLimit.LIM_TRIP,
  MgtLimit.CORE_I_THROTTLE, MgtLimit.CORE_I_LIMIT, MgtLimit.BU_I_THROTTLE, MgtLimit.BU_I_LIMIT,
  MgtLimit.TRIPPED, MgtLimit.ILIM_CORE, MgtLimit.ILIM_BU, MgtLimit.TEMP_SHED, MgtLimit.TRIP_SENSOR]

/-- The fields of `MGT_SIDEBAND`. -/
def MgtSideband.all : List Fld := [MgtSideband.SB_ADDR, MgtSideband.SB_DONE_CNT, MgtSideband.SB_PEC_CNT,
  MgtSideband.SB_BAD_CNT]

/-- The block registers of a page function (R41). -/
def blockFields : PageKind → List Fld
  | .devCap => DevCap.all
  | .glbCtrl => GlbCtrl.all
  | .glbFuse => GlbFuse.all
  | .plv => Plv.all
  | .seu => Seu.all
  | .glbCarve => GlbCarve.all
  | .tkgSrc => TkgSrc.all
  | .tkgWin => TkgWin.all
  | .tkgOvr => TkgOvr.all
  | .hptLink => HptLink.all
  | .hptXlate => HptXlate.all
  | .hptEvent => HptEvent.all
  | .hptPace => HptPace.all
  | .ctx => Ctx.all
  | .qdb => Qdb.all
  | .slcCap => SlcCap.all
  | .slcSeq => SlcSeq.all
  | .slcPerf => SlcPerf.all
  | .slcHealth => SlcHealth.all
  | .slcTb => SlcTb.all
  | .slcPort => SlcPort.all
  | .slcExt => SlcExt.all
  | .stkCap => StkCap.all
  | .stkMcr => StkMcr.all
  | .stkRefresh => StkRefresh.all
  | .stkEcc => StkEcc.all
  | .stkBu => StkBu.all
  | .stkCh => StkCh.all
  | .sibCap => SibCap.all
  | .sibRx => SibRx.all
  | .sibTx => SibTx.all
  | .sibGrp => SibGrp.all
  | .sibTrig => SibTrig.all
  | .clove => Clove.all
  | .anise => Anise.all
  | .fru => Fru.all
  | .pattern => Pattern.all
  | .health => Health.all
  | .mgtSense => MgtSense.all
  | .mgtClk => MgtClk.all
  | .mgtGov => MgtGov.all
  | .mgtLimit => MgtLimit.all
  | .mgtSideband => MgtSideband.all

end Sys2Proof.Machine
end

