-- ==== Sys2Proof/Machine/State.lean ====
section
/-! DEFINITION. The state of the block as plain data: the register file, the device memory, the tick
generator, the slices, the bank-unit commands, the contexts, queues and programs, the stream link, the pins and
the queue of waiting commands; and the state right after reset. -/

namespace Sys2Proof.Machine

/-- Why the machine stops.
`outsideAperture`: raised by HOST_MEMORY_READ and HOST_MEMORY_WRITE for a byte beyond the 32 GiB of an aperture,
which no access can address (R89). Safe: the hardware never meets it. -/
inductive Fault where
  | outsideAperture
  deriving DecidableEq, Repr

/-- Why a command has no meaning.
`notModelled`: raised by a dispatch arm whose command has no meaning yet. Safe: nothing is claimed of it. -/
inductive Refusal where
  | notModelled (mnemonic : String)
  deriving DecidableEq, Repr

/-- The fuses (R3, R40, R44, R382). -/
structure Fuses where
  gradeSlices : Nat := 16
  stepping : Nat := 1
  sliceMask : Nat := 0xFFFF
  patProgrammed : Nat := 0
  patRevoked : Nat := 0
  patHash : List (List Byte) := []
  deriving DecidableEq, Repr

/-- The level of an output pin. -/
inductive Level where
  | low | high | z
  deriving DecidableEq, Repr

/-- A TRIG_OUT line: its level, and the time at which a pulse on it ends (R341). -/
structure TrigLine where
  level : Level := .z
  pulseEnd : Option Nat := none
  deriving DecidableEq, Repr

/-- What an undriven user I/O cell does (R86). -/
inductive Bias where
  | none | keeper | pullUp | pullDown
  deriving DecidableEq, Repr

/-- A user I/O cell as its option word configures it: whether it takes its pin in and drives it, its bias, and for a cell that drives the slew,
the strength in mA and the open drain (R86). -/
structure IoCell where
  input : Bool := false
  output : Bool := false
  bias : Bias := .none
  fast : Bool := false
  mA : Nat := 0
  openDrain : Bool := false
  deriving DecidableEq, Repr

/-- A user I/O bank: released with its 24 cells, or high-impedance with bias off (R86, R87). -/
inductive IoBank where
  | hiz
  | configured (cells : List IoCell)
  deriving DecidableEq, Repr

/-- Pins, straps, clocks and rails as the module sees or drives them; `trigAct` and `pulseAct` are the `SIB_TRIG` settings that act (R341);
`clkGone` marks the reference clocks that are lost, in the bit positions of `CLK_STAT` (R418). -/
structure Pins where
  bifur : BitVec 2 := 0
  adminSel : BitVec 2 := 0
  smbAddr : BitVec 2 := 0
  perst : List Bool := [false, false, false, false]
  d3hot : List Bool := [false, false, false, false]
  trig : List TrigLine := List.replicate 16 {}
  trigAct : List Nat := []
  pulseAct : Nat := 100
  tickOut : Bool := false
  tickOutFallAt : Nat := 0
  io : List IoBank := List.replicate 8 .hiz
  sysRstLow : Bool := false
  clkGone : Nat := 0
  railsIn : List Rail := [.aux, .vppSt, .vddSt, .core, .bu, .xaux, .xcvr]
  deriving DecidableEq, Repr

/-- The reset and start-up sequence (R410 to R413). `now` counts nanoseconds of the module's own time,
whatever reset holds; `inPower` and `inCold` say which reset holds the module; `faults` are the rails that hold a cold reset, each with the
time at which it came back in band; `auxAt` is when VCC_AUX came in band in a POWER reset, and `clkAt` when REFCLK_SYS came back (R409 to R418). -/
structure Power where
  now : Nat := 0
  inPower : Bool := false
  inCold : Bool := false
  coldSince : Nat := 0
  startAt : Nat := 0
  locked : Bool := false
  critical : Bool := false
  initAt : Option Nat := none
  fillRefs : Nat := 0
  faults : List (Rail × Option Nat) := []
  auxAt : Option Nat := none
  clkAt : Option Nat := none
  deriving DecidableEq, Repr

/-- Where the current tick stands. -/
inductive Phase where
  | stopped | armed | beforeCompute | compute | gap | host
  deriving DecidableEq, Repr

/-- A schedule: period, windows, decision offset and tolerance, in ns (R60). -/
structure Sched where
  period : Nat
  cstart : Nat
  cend : Nat
  gend : Nat
  dec : Nat
  tol : Nat
  deriving DecidableEq, Repr

/-- The tick generator beside its registers. `offerAt` is the time of the latest slot start or segment end, at which the dispatcher offers free gangs
(R67). -/
structure Tkg where
  internal : Bool := false
  armAt : Nat := 0
  edgeAt : Nat := 0
  phase : Phase := .stopped
  pendSched : Option Sched := none
  pendBand : Option Nat := none
  gapEndAt : Nat := 0
  pointsDone : Nat := 0
  refreshEndsAt : Nat := 0
  refFree : Nat := 0
  repFree : List (Nat × Nat) := []
  accruedAt : Nat := 0
  debt : Nat := 0
  decDue : Option Nat := none
  offerAt : Option Nat := none
  deriving DecidableEq, Repr

/-- A fabric load in progress and the loaded image (R80 to R87). `ids` and `passMask` are the identification of each region that the port checks
have read, and which regions passed. -/
structure Fabric where
  cmd : Option Nat := none
  startAt : Nat := 0
  imageVa : Nat := 0
  ctx : Nat := 0
  header : List Byte := []
  nextFrame : Nat := 0
  crc : W64 := 0
  regionsLeft : List Nat := []
  checkAt : Nat := 0
  doneAt : Option Nat := none
  manifests : List (Nat × List W32 × List (BitVec 4)) := []
  cfg : Sp Byte := []
  cfgSyn : Sp (BitVec 16) := []
  ids : Sp Nat := []
  passMask : Nat := 0
  frames : Nat := 0
  mask : Nat := 0
  deriving DecidableEq, Repr

/-- Clove beside its registers: the golden copies and the pass in progress (R399 to R403). -/
structure Clove where
  goldA : W64 := 0
  goldB : W64 := 0
  framesA : Nat := 0
  framesB : Nat := 0
  maskA : Nat := 0
  maskB : Nat := 0
  stopped : Bool := true
  nextFrame : Nat := 0
  crc : W64 := 0
  passAt : Nat := 0
  nextB : Bool := false
  passUe : Bool := false
  passQual : Bool := false
  loadSeen : Bool := false
  resetSeen : Bool := false
  deriving DecidableEq, Repr

/-- A queued repair: the corrected beat and its bank-local address (R105). -/
structure Repair where
  addr : Nat
  bytes : List Byte
  deriving DecidableEq, Repr

/-- A host memory access that waits for MEM_INIT_DONE (R100). -/
structure HeldAcc where
  port : Nat
  ap : Aperture
  addr : Nat
  write : Bool
  bytes : List Byte
  badParity : Bool
  deriving DecidableEq, Repr

/-- What leaves the module: completions, writes into host memory, messages, blocks on the transmit lanes (all but the IDLE blocks that fill a lane)
with the symbols on the line that carry each (R324), the signals to the extension units (R145), bytes on the sideband and the JTAG port. Oldest first. -/
inductive Out where
  | completion (port : Nat) (bytes : List Byte) (poisoned : Bool)
  | hostWrite (port addr : Nat) (bytes : List Byte)
  | msix (port vector : Nat) (addr data : Nat)
  | txBlocks (group : Nat) (lanes : List Nat) (blocks : List (Bool × W64)) (line : List (List Nat))
  | extReq (slice op tag : Nat) (lanes : W64) (cpar : Bool) (a b : List W32) (aPar bPar : List (BitVec 4))
  | extKill (slice : Nat)
  | extRst (slice : Nat) (level : Bool)
  | extMan (slice addr : Nat)
  | smb (bytes : List Byte)
  | jtag (bits : List Bool)
  deriving DecidableEq, Repr

/-- Who issued a bank-unit command: a slice, a queue command, or the HIB for the frames of an object (R120). -/
inductive Issuer where
  | engine (slice : Nat)
  | host (cmd : Nat)
  | hib (obj : Nat)
  deriving DecidableEq, Repr

/-- The state of a command slot (R119), and the end of a command that waits to be returned. -/
inductive BuSt where
  | queued | running | held | done
  deriving DecidableEq, Repr

/-- A partial sum of a chain product, with its poison mark (R128 to R130). -/
structure Partial where
  val : W32
  poison : Bool
  deriving DecidableEq, Repr

/-- The part of a bank-unit command in one bank: its slot, its progress in beats or rows, the fault it has met (0: none),
whether it has ended, the bytes it has read for Mace, whether it waits (yielded or not started there), its executed cycles,
the partials it has formed and not yet sent on, the activation buffer with the marks of its beats, how many partials
it has sent, whether it has started in its bank, and its sticky flags (R115 to R136). -/
structure BuPart where
  bank : Nat
  slot : Nat
  at_ : Nat := 0
  fault : Nat := 0
  fin : Bool := false
  acc : List Byte := []
  accBad : Bool := false
  yielded : Bool := false
  cyc : Nat := 0
  own : List Partial := []
  acts : List Byte := []
  actsBad : List Bool := []
  sent : Nat := 0
  started : Bool := false
  flags : Nat := 0
  deriving DecidableEq, Repr

/-- A chain result on its way to a slice, and the command it belongs to (R130). -/
structure ChainRes where
  cmd : Nat
  fmt : Nat := 0
  row : Nat
  col : Nat
  val : W32
  poison : Bool
  deriving DecidableEq, Repr

/-- A bank-unit command in the router's order (R115, R119). -/
structure BuCmd where
  id : Nat
  issuer : Issuer
  op : Nat
  ctx : Nat
  fmt : Nat := 0
  stack : Nat
  chan : Nat
  parts : List BuPart
  digestEn : Bool := false
  runahead : Bool := false
  destBank : Bool := false
  srcOff : Nat := 0
  dstOff : Nat := 0
  word3 : Nat := 0
  count : Nat := 0
  kcBeats : Nat := 0
  batch : Nat := 0
  entry : Nat := 0
  tag : Nat := 0
  slice : Nat := 0
  zbank : Nat := 0
  epoch : Nat := 0
  limit : Nat := 0
  st : BuSt := .queued
  status : Nat := 0
  delivered : Nat := 0
  flags : Nat := 0
  reads : List Nat := []
  bundle : Nat := 0
  abandoned : Bool := false
  deriving DecidableEq, Repr

/-- A flit on a chain link: its one or two partials, the poison bit (R129), and the command it belongs to. -/
structure Flit where
  cmd : Nat
  vals : List W32
  poison : Bool
  deriving DecidableEq, Repr

/-- The execution state of one bank unit (R116, R126). `bad` lists the registers of a micro-program whose values come from a poisoned partial:
scratch registers by number, the beat registers as 16 and 17 (R130). -/
structure BuState where
  cmd : Option Nat := none
  pc : Nat := 0
  scr : Sp W32 := []
  beat0 : List Byte := []
  beat1 : List Byte := []
  flags : Nat := 0
  row : Option Nat := none
  input : List Partial := []
  link : List Flit := []
  half : Option Partial := none
  lastCtx : Option Nat := none
  bad : List Nat := []
  deriving DecidableEq, Repr

/-- The destination of a result that waits for its latency (R237). -/
inductive Dst where
  | a (r : Nat) (v : BitVec 40)
  | c (r : Nat) (v : W32)
  | k (r : Nat) (v : W64)
  | lanes (r : Nat) (vals : List (Nat × W32 × Bool))
  | zrd (r bank row : Nat) (mask : List Nat) (badParity : Bool) (got : List (W32 × Bool))
  deriving DecidableEq, Repr

structure PendWrite where
  id : Nat
  ready : Nat
  dst : Dst
  deriving DecidableEq, Repr

/-- A scalar register name (R225). -/
inductive SReg where
  | a (r : Nat)
  | c (r : Nat)
  | k (r : Nat)
  deriving DecidableEq, Repr

/-- One tile row of a transfer, as the issue cycle settles it: the copy, the row, the device virtual address of its first
element, whether that element is the high nibble of its byte, and how many elements lie inside (R250, R253, R256). -/
structure TRow where
  copy : Nat
  r : Nat
  va : Nat
  nib : Bool
  n : Nat
  deriving DecidableEq, Repr

/-- One byte that a store writes: which nibbles of it (0 both, 1 the low one, 2 the high one) and its mark (R253, R361). -/
structure WByte where
  at_ : Nat
  val : Byte
  nib : Nat := 0
  poison : Bool := false
  deriving DecidableEq, Repr

/-- A row of the weight FIFO: its stored bytes, how many elements it stores, its poison mark, and the bytes it takes, a tile row rounded up to
64 (R255). -/
structure FifoRow where
  bytes : List Byte
  elems : Nat
  poison : Bool
  room : Nat := 0
  deriving DecidableEq, Repr

/-- An outstanding load or store transfer (R236). `stv` waits only for an earlier load to the same buffer range (R240); `claim` carries
the rows of a held tile (R345); `flags` are the range records of a store, as (syndrome, detail) (R363). -/
inductive XferOp where
  | ldt (handle an buf off : Nat) (rows : List TRow)
  | ldv (vd : Nat) (vals : List (Nat × W32 × Bool))
  | lds (dst : SReg) (va : Nat)
  | rahead (ctx handle an epoch : Nat) (rows : List TRow)
  | claim (rows : List FifoRow)
  | store (writes : List WByte) (flags : List (Nat × Nat))
  | stv (buf off : Nat) (bytes : List (Byte × Bool))
  deriving DecidableEq, Repr

structure Xfer where
  id : Nat
  op : XferOp
  bundle : Nat
  deriving DecidableEq, Repr

/-- A tile held in the run-ahead area, with the context whose run-ahead read it (R344, R347). -/
structure RaTile where
  ctx : Nat
  handle : Nat
  an : Nat
  epoch : Nat
  rows : List FifoRow
  beats : List Nat
  bytes : Nat
  deriving DecidableEq, Repr

/-- A matrix product that the array runs or holds queued (R166, R232). `touched`: its stationary span was written after the shadow was filled
(R266). -/
structure Product where
  w : Nat
  s : Nat
  z : Nat
  clear : Bool
  m : Nat
  n : Nat
  kt : Nat
  fmt : Nat
  sOff : Nat
  bank : Bool
  dot : Option Nat
  bundle : Nat
  issued : Nat := 0
  group : Nat := 0
  pass : Nat := 0
  row : Nat := 0
  filled : Bool := false
  touched : Bool := false
  swapped : Bool := false
  opened : Bool := false
  merged : Nat := 0
  deriving DecidableEq, Repr

/-- A weight row in the array, from the feeder to the skid queue (R159, R160, R171): its product (by issue number) and pass, whether it is the
pass's last, its place in the accumulator bank, its bytes, how many elements take part, the partial sum of each column, and whether it starts
from a cleared entry. -/
structure ArrRow where
  prod : Nat
  pass : Nat
  last : Bool
  z : Nat
  row : Nat
  col0 : Nat
  fmt : Nat
  fresh : Bool
  poison : Bool
  k : Nat
  w : List Byte
  sums : List W64
  deriving DecidableEq, Repr

/-- The stationary operand of the array, active or shadow: one packed byte string per column (R162). -/
structure Stationary where
  cols : List (List Byte) := []
  poison : Bool := false
  deriving DecidableEq, Repr

/-- What a sync operation waits for (R241). -/
inductive Wait where
  | finish | segend | tbar | fence
  | classes (mask : Nat)
  | tag (t : Nat)
  | token (t n : Nat)
  | gbar
  deriving DecidableEq, Repr

/-- An Anise tile record with its origin (R366, R367). -/
structure Tile where
  origin : Nat
  ctx : Nat
  ttype : Nat
  shape : Nat
  ext : Bool
  bytes : List Byte
  result : List Byte
  deriving DecidableEq, Repr

/-- An outstanding request of the extension unit, and the sample record it makes where it is a candidate (R145 to R149, R364). -/
structure ExtReq where
  tag : Nat
  op : Nat
  lanes : W64
  shapeR : Nat
  vd : Nat
  deadline : Nat
  order : Nat
  bundle : Nat
  tile : Option Tile := none
  deriving DecidableEq, Repr

/-- The rows of the array tile that leave the last stage, for a sample (R366): weight rows and column sums, and whether an
input was poisoned. -/
structure Capture where
  rows : Nat := 0
  weights : List Byte := []
  result : List Byte := []
  bad : Bool := false
  deriving DecidableEq, Repr

/-- The stationary operand that the previous product left active: its handle, format, column count and span (R266). -/
structure Resident where
  handle : Nat
  fmt : Nat
  n : Nat
  off : Nat
  len : Nat
  deriving DecidableEq, Repr

/-- A captured dump that waits to be written: the halt channel, the context, the device virtual address, the bytes with their marks, and
whether it waits for `GAP_END` (R291). -/
structure Dump where
  chan : Nat
  ctx : Nat
  va : Nat
  bytes : List (Byte × Bool)
  late : Bool
  deriving DecidableEq, Repr

/-- A Nalrak slice beside its registers: sequencer, register file, accumulators, tile buffers, array and
extension boundary (07 to 12). `stale` are run-ahead reads in flight whose data is to be discarded (R347). Of the array, `pipe` holds what the feeder
and the stages hold, the row read in this cycle first (R160), `passNo` numbers the pass entered, `front` counts the stages that a ripple swap
has reached (R164), `fillLeft` the cycles until a fill lets a broadcast swap follow, `ripple` is the choice of R165, `waited` counts cycles since
the last row was read, `operands` keeps the operand of each pass with rows in the array, `ports` the cycle in which each accumulator port was last
taken (row ports 0 to 3, merge ports 4 to 7; plus 1), and `arrAt` the array's latest cycle (plus 1). `total` counts engine cycles, and `slotCyc` is
how many had passed in the slot when the segment began (R226). -/
structure Slice where
  run : Bool := false
  ctx : Nat := 0
  member : Nat := 0
  pc : Nat := 0
  rep : Nat := 0
  calls : List Nat := []
  seg : Nat := 0
  resume : Option (Nat × Nat) := none
  cyc : Nat := 0
  a : Sp (BitVec 40) := []
  c : Sp W32 := []
  k : Sp W64 := []
  v : Sp W32 := []
  vPoison : Sp Bool := []
  z : Sp W32 := []
  zPoison : Sp Bool := []
  plane : List (Nat × ChainRes) := []
  flags : BitVec 4 := 0
  nextId : Nat := 0
  pend : List PendWrite := []
  xfers : List Xfer := []
  tb : Sp Byte := []
  tbValid : Sp Bool := []
  tbPoison : Sp Bool := []
  fifo : List FifoRow := []
  ra : List RaTile := []
  stale : List Xfer := []
  cur : Option Product := none
  nxt : Option Product := none
  done : List Product := []
  shadow : Stationary := {}
  active : Stationary := {}
  lastFmt : Option Nat := none
  resident : Option Resident := none
  skid : List ArrRow := []
  pipe : List (Option ArrRow) := []
  passNo : Nat := 0
  front : Option Nat := none
  fillLeft : Nat := 0
  ripple : Bool := false
  waited : Nat := 0
  operands : List (Nat × Stationary) := []
  ports : Sp Nat := []
  arrAt : Nat := 0
  total : Nat := 0
  brCount : Sp Nat := []
  wait : Option Wait := none
  begun : Bool := false
  halted : Bool := false
  vlast : Sp (Nat × Nat × List Nat) := []
  ext : List ExtReq := []
  extTag : Nat := 0
  extLast : Sp Nat := []
  divFree : Nat := 0
  idivFree : Nat := 0
  vdivFree : Nat := 0
  vlongFree : Nat := 0
  sfuFree : Nat := 0
  stalled : Bool := false
  sel : Nat := 0
  staging : Option Tile := none
  capture : Capture := {}
  lastCtx : Option Nat := none
  lastSeg : Option Nat := none
  opened : Sp Bool := []
  dumps : List Dump := []
  slotAt : Nat := 0
  slotCyc : Nat := 0
  testing : Bool := false
  testAt : Nat := 0
  store : Sp (BitVec 256) := []
  deriving DecidableEq, Repr

/-- An entry of a bound table (R273). -/
structure Bound where
  off : Nat
  kind : Nat
  bound : Nat
  deriving DecidableEq, Repr

/-- An admitted bundle program (R276, R283). `certNs` is its certified length, for a host program that of its longest segment, and `segNs` the
certified length of each segment in order (R66, R281). -/
structure Program where
  stream : Bool
  sfu : Nat
  base : Nat
  count : Nat
  entry : Nat
  gang : List Nat
  segments : Nat
  calls : Nat
  bounds : List Bound
  certNs : Nat
  segNs : List Nat := []
  handles : List Nat
  objs : List Nat
  bus : List Nat
  image : List (BitVec 256)
  deriving DecidableEq, Repr

/-- A resident library routine (R244). -/
structure Routine where
  idx : Nat
  base : Nat
  count : Nat
  entry : Nat
  slices : Nat
  bounds : List Bound
  cert : Nat
  deriving DecidableEq, Repr

/-- An admitted micro-program (R275). -/
structure Uprog where
  ctx : Nat
  base : Nat
  count : Nat
  stackMask : Nat
  chans : Nat
  banks : Nat
  bounds : List Bound
  cost : Nat
  words : List W64
  deriving DecidableEq, Repr

/-- A running host program: its command, the next segment and how it starts (R67 to R70). -/
structure HostRun where
  cmd : Nat
  seg : Nat := 0
  a0 : List Nat := []
  fresh : Bool := true
  active : Bool := false
  waitTick : Bool := false
  deriving DecidableEq, Repr

/-- How a stream program's tick ended. -/
structure TickEnd where
  ovr : Bool := false
  fault : Bool := false
  shed : Bool := false
  held : Bool := false
  ended : Bool := false
  faultAt : Option Nat := none
  payload : Option W32 := none
  payAt : Nat × Nat := (0, 0)
  deriving DecidableEq, Repr

/-- A port's teardown: when it began, and whether its tick edge has passed (R321). -/
structure PortTear where
  since : Option Nat := none
  torn : Bool := false
  deriving DecidableEq, Repr

/-- A context slot beside its page registers. `tear` and `torn` say when a teardown began and whether its tick edge has passed (R321). -/
structure Ctx where
  program : Option Program := none
  host : Option HostRun := none
  tick : TickEnd := {}
  started : Bool := false
  tokens : Sp Nat := []
  gbar : List Nat := []
  epoch : Nat := 0
  lastGang : List Nat := []
  pushEnd : Nat := 0
  lostEv : Nat := 0
  lostHost : Nat := 0
  tear : Option Nat := none
  torn : Bool := false
  tearRelease : Bool := false
  port : Nat := 0
  gen : Nat := 0
  resumeReq : Bool := false
  heldNext : Bool := false
  halting : List Nat := []
  l1 : Option Nat := none
  deriving DecidableEq, Repr

/-- What the object table does not show of an object: the slot generation of its creating context, and its frames in the order of its
range (R311, R312, R319). -/
structure ObjInfo where
  gen : Nat := 0
  frames : List Nat := []
  deriving DecidableEq, Repr

/-- What follows when the frames of an object are filled: an OBJ_CREATE ends, a reclaim ends, or the frames of a creation given up at a teardown
are released (R311, R319, R321). -/
inductive FillEnd where
  | create (cmd : Nat)
  | reclaim
  | drop
  deriving DecidableEq, Repr

/-- The fills of an object's frames: its zones' view, and how many FILLs the router has taken (R102, R133). -/
structure FillJob where
  obj : Nat
  why : FillEnd
  bank : Bool
  next : Nat := 0
  deriving DecidableEq, Repr

/-- The command processor's place: the port whose turn it is, the entries taken in it, and the queue last served of each port (R307); each
queue's ring address and granted depth code (R299, R300), the queues being released (R301), and the fills under way, in order (R311, R319). -/
structure Hib where
  turn : Nat := 0
  taken : Nat := 0
  last : Sp Nat := []
  rings : Sp Nat := []
  closing : List Nat := []
  depths : Sp Nat := []
  jobs : List FillJob := []
  deriving DecidableEq, Repr

/-- The states of a fetched queue command (R303 to R306). -/
inductive CmdSt where
  | fetched | started | done (status result detail : Nat)
  deriving DecidableEq, Repr

/-- A queue command in flight: its common fields, and its bytes 0x18 to 0x3F (R302). -/
structure Cmd where
  id : Nat
  port : Nat
  queue : Nat
  ctx : Nat
  index : Nat
  opcode : Nat
  ev : Bool
  order : Bool
  len : Nat
  cookie : Nat
  objs : List Nat
  body : List Byte
  st : CmdSt := .fetched
  refs : List Nat := []
  deriving DecidableEq, Repr

/-- The halt channels' arming, the admissions waiting and running (R270, R289). -/
structure Plv where
  queue : List Nat := []
  reverify : List Nat := []
  routines : List Routine := []
  uprogs : List Uprog := []
  deriving DecidableEq, Repr

/-- A receive lane beside its registers: the last 64 sync headers (true: valid); the marker count, the lane-count field and the time of its latest
ALIGN position, the blocks since then, and how many expected ALIGN blocks in a row were missed (R325, R327). -/
structure Lane where
  window : List Bool := []
  marker : Option Nat := none
  lanes : Nat := 0
  at_ : Nat := 0
  since : Nat := 0
  missed : Nat := 0
  deriving DecidableEq, Repr

/-- A segment that a group is receiving (R331). -/
structure Seg where
  idx : Nat
  len : Nat
  off : Nat
  got : Nat
  data : List Byte
  deriving DecidableEq, Repr

/-- What a stream group's receiver does with data blocks. -/
inductive RxMode where
  | idle | skip | seg (s : Seg)
  deriving DecidableEq, Repr

/-- The frame that a group is receiving (R330 to R333). -/
structure Frame where
  open_ : Bool := false
  tick : Nat := 0
  header : Option (Nat × Nat) := none
  rejected : Bool := false
  good : Sp Bool := []
  bad : Nat := 0
  bytes : Nat := 0
  mode : RxMode := .idle
  deriving DecidableEq, Repr

/-- A closed frame that the tick in progress computes, or whose decision is due (R335, R338). -/
structure Closed where
  tick : Nat
  missing : Bool
  partial_ : Bool
  deriving DecidableEq, Repr

/-- A stream group beside its registers. `attachCmd` lists the attaches that wait for the next edge; `txAct` are the transmit lanes as the latest
edge evaluated them, `txPs` the time since their latest ALIGN blocks in ps and `txMark` the next marker count (R329, R342). -/
structure Grp where
  frame : Frame := {}
  computing : Option Closed := none
  attachCmd : List Nat := []
  txAct : List Nat := []
  txPs : Nat := 0
  txMark : Nat := 0
  detachCmd : Option Nat := none
  recheck : Bool := false
  defaultAct : W32 := 0
  missAct : Bool := false
  order : List Nat := []
  deciding : Option (Nat × W64) := none
  deriving DecidableEq, Repr

/-- The governor beside its registers (R355 to R358). -/
structure Gov where
  protectSince : Option Nat := none
  evalAt : Nat := 0
  pendBuDuty : Option Nat := none
  pendHostDuty : Option Nat := none
  shedOrder : List Nat := []
  clkGoal : Option Nat := none
  tripStopped : Bool := false
  deriving DecidableEq, Repr

/-- A record in Anise's store (R368 to R371). -/
structure AniRec where
  id : Nat
  tile : Tile
  at_ : Nat
  first : Option (Nat × List Byte) := none
  deriving DecidableEq, Repr

/-- A queued pattern item for one slice (R383). -/
structure PatItem where
  id : Nat
  index : Nat
  slice : Nat
  expect : W64
  deriving DecidableEq, Repr

/-- Anise, the fault-record unit and the pattern store beside their registers. -/
structure Rel where
  recs : List AniRec := []
  nextId : Nat := 0
  seq : Nat := 0
  keys : List (Nat × Nat × Nat × Nat × Nat) := []
  package : List Byte := []
  items : List PatItem := []
  runAt : Nat := 0
  deriving DecidableEq, Repr

/-- The JTAG port: the selected instruction, the boundary cells, and the level each drives (R432). -/
structure Jtag where
  ir : Nat := 0
  cells : List Bool := []
  drive : Option (List Bool) := none
  floated : Bool := false
  deriving DecidableEq, Repr

/-- The block. `pending` is the queue of waiting commands, first in, first out; `twoViews` holds, per port and beat, the bytes that the port's writes
through the linear and through the bank aperture last stored there, since its latest completed read (R113). -/
structure State where
  pending : List Instr := []
  fuses : Fuses := {}
  pins : Pins := {}
  power : Power := {}
  time : Nat := 0
  regs : Sp Nat := []
  shadows : List (Option (Nat × Nat)) := [none, none, none, none, none]
  busy : Sp Nat := []
  out : List Out := []
  mem : List Host.Cell := []
  syn : Sp (BitVec 16) := []
  held : List HeldAcc := []
  twoViews : Sp (Nat × Nat) := []
  repairs : Sp (List Repair) := []
  zoneCount : Sp Nat := []
  tpages : List Nat := []
  objInfo : Sp ObjInfo := []
  hib : Hib := {}
  ports : Sp PortTear := []
  tkg : Tkg := {}
  fab : Fabric := {}
  clove : Clove := {}
  bus : List BuCmd := []
  buNext : Nat := 0
  buSt : Sp BuState := []
  ustore : Sp W64 := []
  slices : Sp Slice := []
  ctxs : Sp Ctx := []
  ctxLast : Nat := 3
  cmds : List Cmd := []
  cmdNext : Nat := 0
  plv : Plv := {}
  lanes : Sp Lane := []
  grps : Sp Grp := []
  gov : Gov := {}
  rel : Rel := {}
  jtag : Jtag := {}
  anyBits : Nat := 0
  deriving DecidableEq, Repr

/-- The machine at S, the end of the first cold reset after power-on, with every strap ball unconnected: each register
at its reset value (none listed), memory with nothing listed, nothing waiting (R40, R413, R416). -/
def State.reset : State := {}

end Sys2Proof.Machine
end

