-- ==== Sys2Proof/Machine/Regs.lean ====
section
/-! DEFINITION. The register file: the page index, register reads and writes by field, the fields that are computed
from other state, page interrupts, counters, and the resets of pages. -/

namespace Sys2Proof

/-! ## The page index (R25, R41, R42) -/

/-- `PG_ID.FUNC` (R41). -/
def Page.func (pg : Page) : Nat :=
  match pg.kind with
  | .devCap | .tkgSrc | .hptLink | .ctx | .qdb | .slcCap | .stkCap | .sibCap | .clove | .mgtSense => 0
  | .glbCtrl | .tkgWin | .hptXlate | .slcSeq | .stkMcr | .sibRx | .anise | .mgtClk => 1
  | .glbFuse | .tkgOvr | .hptEvent | .slcPerf | .stkRefresh | .sibTx | .fru | .mgtGov => 2
  | .plv | .hptPace | .slcHealth | .stkEcc | .pattern | .mgtLimit => 3
  | .seu | .slcTb | .stkBu | .health | .mgtSideband => 4
  | .glbCarve | .slcPort => 5
  | .slcExt => 14
  | .stkCh => 16 + pg.sub
  | .sibGrp => 4 + pg.inst
  | .sibTrig => 8

/-- `PG_ID.REGION` (R25). -/
def PageKind.region : PageKind → Nat
  | .devCap | .glbCtrl | .glbFuse | .plv | .seu | .glbCarve => 1
  | .tkgSrc | .tkgWin | .tkgOvr => 2
  | .hptLink | .hptXlate | .hptEvent | .hptPace => 3
  | .ctx => 4
  | .qdb => 5
  | .slcCap | .slcSeq | .slcPerf | .slcHealth | .slcTb | .slcPort | .slcExt => 6
  | .stkCap | .stkMcr | .stkRefresh | .stkEcc | .stkBu | .stkCh => 7
  | .sibCap | .sibRx | .sibTx | .sibGrp | .sibTrig => 8
  | .clove | .anise | .fru | .pattern | .health => 9
  | .mgtSense | .mgtClk | .mgtGov | .mgtLimit | .mgtSideband => 10

/-- The address of a page in the register aperture (R41). -/
def Page.base (pg : Page) : Nat :=
  match pg.kind.region with
  | 1 => pg.func * 0x1000
  | 2 => 0x10000 + pg.func * 0x1000
  | 3 => 0x20000 + pg.inst * 0x4000 + pg.func * 0x1000
  | 4 => 0x100000 + pg.inst * 0x1000
  | 5 => 0x200000 + pg.inst * 0x1000
  | 6 => 0x400000 + pg.inst * 0x10000 + pg.func * 0x1000
  | 7 => 0x800000 + pg.inst * 0x40000 + pg.func * 0x1000
  | 8 => 0xC00000 + pg.func * 0x1000
  | 9 => 0xD00000 + pg.func * 0x1000
  | _ => 0xE00000 + pg.func * 0x1000

/-- The page of region class 1 to 10 with function index `f` and instance `i` (R41). -/
def pageOfFunc (region i f : Nat) : Option Page :=
  match region, f with
  | 1, 0 => some ⟨.devCap, 0, 0⟩ | 1, 1 => some ⟨.glbCtrl, 0, 0⟩ | 1, 2 => some ⟨.glbFuse, 0, 0⟩
  | 1, 3 => some ⟨.plv, 0, 0⟩ | 1, 4 => some ⟨.seu, 0, 0⟩ | 1, 5 => some ⟨.glbCarve, 0, 0⟩
  | 2, 0 => some ⟨.tkgSrc, 0, 0⟩ | 2, 1 => some ⟨.tkgWin, 0, 0⟩ | 2, 2 => some ⟨.tkgOvr, 0, 0⟩
  | 3, 0 => some ⟨.hptLink, i, 0⟩ | 3, 1 => some ⟨.hptXlate, i, 0⟩ | 3, 2 => some ⟨.hptEvent, i, 0⟩
  | 3, 3 => some ⟨.hptPace, i, 0⟩
  | 4, 0 => some ⟨.ctx, i, 0⟩
  | 5, 0 => some ⟨.qdb, i, 0⟩
  | 6, 0 => some ⟨.slcCap, i, 0⟩ | 6, 1 => some ⟨.slcSeq, i, 0⟩ | 6, 2 => some ⟨.slcPerf, i, 0⟩
  | 6, 3 => some ⟨.slcHealth, i, 0⟩ | 6, 4 => some ⟨.slcTb, i, 0⟩ | 6, 5 => some ⟨.slcPort, i, 0⟩
  | 6, 14 => some ⟨.slcExt, i, 0⟩
  | 7, 0 => some ⟨.stkCap, i, 0⟩ | 7, 1 => some ⟨.stkMcr, i, 0⟩ | 7, 2 => some ⟨.stkRefresh, i, 0⟩
  | 7, 3 => some ⟨.stkEcc, i, 0⟩ | 7, 4 => some ⟨.stkBu, i, 0⟩
  | 7, f => if 16 ≤ f ∧ f ≤ 31 then some ⟨.stkCh, i, f - 16⟩ else none
  | 8, 0 => some ⟨.sibCap, 0, 0⟩ | 8, 1 => some ⟨.sibRx, 0, 0⟩ | 8, 2 => some ⟨.sibTx, 0, 0⟩
  | 8, 8 => some ⟨.sibTrig, 0, 0⟩
  | 8, f => if 4 ≤ f ∧ f ≤ 7 then some ⟨.sibGrp, f - 4, 0⟩ else none
  | 9, 0 => some ⟨.clove, 0, 0⟩ | 9, 1 => some ⟨.anise, 0, 0⟩ | 9, 2 => some ⟨.fru, 0, 0⟩
  | 9, 3 => some ⟨.pattern, 0, 0⟩ | 9, 4 => some ⟨.health, 0, 0⟩
  | 10, 0 => some ⟨.mgtSense, 0, 0⟩ | 10, 1 => some ⟨.mgtClk, 0, 0⟩ | 10, 2 => some ⟨.mgtGov, 0, 0⟩
  | 10, 3 => some ⟨.mgtLimit, 0, 0⟩ | 10, 4 => some ⟨.mgtSideband, 0, 0⟩
  | _, _ => none

/-- The page that holds an aperture address, fuses aside (R41). -/
def pageIndex (addr : Nat) : Option Page :=
  let p := addr / 0x1000
  if p < 0x10 then pageOfFunc 1 0 p
  else if p < 0x20 then pageOfFunc 2 0 (p - 0x10)
  else if p < 0x30 then pageOfFunc 3 ((p - 0x20) / 4) ((p - 0x20) % 4)
  else if p < 0x100 then none
  else if p < 0x140 then pageOfFunc 4 (p - 0x100) 0
  else if p < 0x200 then none
  else if p < 0x300 then pageOfFunc 5 (p - 0x200) 0
  else if p < 0x400 then none
  else if p < 0x500 then pageOfFunc 6 ((p - 0x400) / 16) ((p - 0x400) % 16)
  else if p < 0x800 then none
  else if p < 0x900 then pageOfFunc 7 ((p - 0x800) / 64) ((p - 0x800) % 64)
  else if p < 0xC00 then none
  else if p < 0xC10 then pageOfFunc 8 0 (p - 0xC00)
  else if p < 0xD00 then none
  else if p < 0xD10 then pageOfFunc 9 0 (p - 0xD00)
  else if p < 0xE00 then none
  else if p < 0xE10 then pageOfFunc 10 0 (p - 0xE00)
  else none

/-- Whether the page is owned rather than global (R41). -/
def PageKind.owned (k : PageKind) : Bool := k.region = 3 || k.region = 4 || k.region = 5

/-- Whether a page belongs to the POWER domain itself, so that a cold reset leaves it alone (R41). -/
def PageKind.powerDomain : PageKind → Bool
  | .glbFuse | .mgtSense | .mgtSideband => true
  | _ => false

/-- Whether `PG_CTRL.LOCK` is implemented (R41). -/
def PageKind.lockable : PageKind → Bool
  | .tkgSrc | .tkgWin | .hptXlate | .sibGrp | .sibTrig | .mgtGov | .mgtLimit => true
  | _ => false

/-- The instance shown in `PG_ID` (R42). -/
def Page.instShown (pg : Page) : Nat := pg.inst

/-- The bits of `PG_IRQ_STAT` that the chapters define for a page; bit 0 is `ACCESS` (log 11). -/
def PageKind.irqBits : PageKind → Nat
  | .tkgSrc => 0xF
  | .tkgOvr | .stkEcc | .plv | .qdb | .sibGrp | .mgtGov | .fru | .clove => 0x7
  | .tkgWin | .stkBu | .anise | .ctx | .mgtClk => 0x3
  | _ => 0x1

def Src.code : Src → Nat
  | .port p => p.val
  | .sideband => 4

/-- How many discovery parameters a page defines. -/
def PageKind.paramCount : PageKind → Nat
  | .stkCap | .sibCap => 2
  | .stkBu => 1
  | .slcCap => 5
  | _ => 0

end Sys2Proof

namespace Sys2Proof.Machine

/-! ## The implemented pages -/

/-- The implemented page at an address: a fused-off slice region has none (R43). -/
def State.pageAt (s : State) (addr : Nat) : Option Page :=
  match pageIndex addr with
  | some pg => if pg.kind.region = 6 ∧ ¬ s.fuses.sliceMask.testBit pg.inst then none else some pg
  | none => none

/-! ## Fields -/

def Fld.width (f : Fld) : Nat := f.hi + 1 - f.lo

/-- The key of a field in `State.regs`: the word of its register and its lowest bit. -/
def regKey (pg : Page) (f : Fld) : Nat := (pg.base + f.off) / 4 * 32 + f.lo

/-- The stored value of a field. -/
def State.f (s : State) (pg : Page) (f : Fld) : Nat := spGet f.rst s.regs (regKey pg f) % 2 ^ f.width

/-- Write the stored value of a field. -/
def State.setF (s : State) (pg : Page) (f : Fld) (v : Nat) : State :=
  { s with regs := spPut f.rst s.regs (regKey pg f) (v % 2 ^ f.width) }

def State.on (s : State) (pg : Page) (f : Fld) : Bool := s.f pg f ≠ 0

def State.setB (s : State) (pg : Page) (f : Fld) (b : Bool) : State := s.setF pg f (b2n b)

/-- Add to a counter that saturates at its all-ones value. -/
def State.bump (s : State) (pg : Page) (f : Fld) (n : Nat := 1) : State :=
  s.setF pg f (satN f.width (s.f pg f + n))

/-- The current admin port (R27). -/
def State.admin (s : State) : Nat := s.f ⟨.glbCtrl, 0, 0⟩ GlbCtrl.ADMIN_PORT

/-- Slice `n`. -/
def State.slice (s : State) (n : Nat) : Slice := spGet {} s.slices n

def State.setSlice (s : State) (n : Nat) (x : Slice) : State := { s with slices := spPut {} s.slices n x }

def State.modSlice (s : State) (n : Nat) (g : Slice → Slice) : State := s.setSlice n (g (s.slice n))

/-- Context slot `c`. -/
def State.cx (s : State) (c : Nat) : Ctx := spGet {} s.ctxs c

def State.setCx (s : State) (c : Nat) (x : Ctx) : State := { s with ctxs := spPut {} s.ctxs c x }

def State.modCx (s : State) (c : Nat) (g : Ctx → Ctx) : State := s.setCx c (g (s.cx c))

/-! ## Ownership (R27 to R31) -/

/-- The owner port of an owned page, where it has one (`PG_OWNER.VALID` = 1, R28). -/
def State.owner (s : State) (pg : Page) : Option Nat :=
  if pg.kind.region = 3 then some pg.inst
  else if pg.kind.owned then
    if s.on pg Hdr.OWNER_VALID then some (s.f pg Hdr.OWNER_PORT) else none
  else some s.admin

/-- Whether a page may be read (R30, R31). -/
def State.mayRead (s : State) (src : Src) (pg : Page) : Bool :=
  match src with
  | .sideband => pg.kind.region = 1 || pg.kind.region = 10
  | .port p => !pg.kind.owned || s.admin = p.val || s.owner pg = some p.val

/-- Whether a source may write a field of this access code (R29, R31). -/
def State.mayWrite (s : State) (src : Src) (pg : Page) (f : Fld) : Bool :=
  match src with
  | .sideband => pg.kind.region = 10 || (pg.kind = .glbCtrl && f.off = GlbCtrl.ADMIN_PORT.off)
  | .port p =>
    match f.acc with
    | .rwl => pg.kind.owned && s.owner pg = some p.val
    | .rwa => s.admin = p.val
    | _ => s.admin = p.val || (pg.kind.owned && s.owner pg = some p.val)

/-! ## Which fields a word of a page holds -/

/-- The copies of a field that have bits in the word at `off`: with the copy and whether it is its second word. -/
def Fld.inWord (f : Fld) (off : Nat) : List (Fld × Bool) :=
  let lowHit := if f.off ≤ off ∧ (off - f.off) % f.stride = 0 ∧ (off - f.off) / f.stride < f.cnt ∧ f.lo < 32 then
    [(f.at ((off - f.off) / f.stride), false)] else []
  let highHit := if 32 ≤ f.hi ∧ f.off + 4 ≤ off ∧ (off - 4 - f.off) % f.stride = 0 ∧ (off - 4 - f.off) / f.stride < f.cnt then
    [(f.at ((off - 4 - f.off) / f.stride), true)] else []
  lowHit ++ highHit

/-- The fields with bits in the word at `off` of a page. -/
def fieldsAt (k : PageKind) (off : Nat) : List (Fld × Bool) :=
  ((if off < 0x40 then Hdr.all else blockFields k).map fun f => f.inWord off).flatten

/-! ## Reads -/

def kphysCode (n : Nat) : Nat := if n = 512 then 2 else if n = 256 then 1 else 0

/-- Whether slice `n` holds an engine that passed its port check (R44). -/
def State.loaded (s : State) (n : Nat) : Bool := (s.f ⟨.devCap, 0, 0⟩ DevCap.ENGINE_SLICE_MASK).testBit n

/-- The identification of slice `n` that its port check read (R85, R141). -/
def State.portId (s : State) (n : Nat) : Nat := spGet 0 s.fab.ids n

/-- The next expected value of `PG_PARAM_i` (R46; STK_CAP, STK_BU, SIB_CAP tables). `PORT_ID` of a slice is read at
its port check (R141): [1:0] K_phys code, [2] N_phys code, [3] extension present. -/
def State.param (s : State) (pg : Page) (i : Nat) : Nat :=
  match pg.kind, i with
  | .stkCap, 0 => 0x00201010
  | .stkCap, 1 => 1600
  | .stkBu, 0 => 0x20840010
  | .sibCap, 0 => 0x00040820
  | .sibCap, 1 => 0x7
  | .slcCap, i =>
    if s.loaded pg.inst then
      let id := s.portId pg.inst
      match i with
      | 0 => fld id 2 0 ||| (if bitOf id 3 then 8 else 0) ||| 16
      | 1 => 8192 ||| (2048 <<< 16)
      | 2 => 512 ||| (256 <<< 16)
      | 3 => 1024 ||| (256 <<< 16)
      | 4 => 64 ||| (fld id 11 4 <<< 8)
      | _ => 0
    else 0
  | _, _ => 0

/-- The fields of the common header that are computed (R23, R42). -/
def State.hdrView (s : State) (pg : Page) (f : Fld) : Nat :=
  match f.off, f.lo with
  | 0x00, 0 => pg.func
  | 0x00, 8 => pg.kind.region
  | 0x00, 16 => pg.instShown
  | 0x04, 1 => b2n pg.kind.owned
  | 0x04, 2 => b2n pg.kind.lockable
  | 0x04, 8 => pg.kind.paramCount
  | 0x08, 0 => if pg.kind.lockable then s.f pg f else 0
  | 0x0C, 0 => if pg.kind.lockable then s.f pg Hdr.LOCK else 0
  | 0x0C, 1 => b2n (spGet 0 s.busy pg.base ≠ 0 || s.power.inPower || (s.power.inCold && !pg.kind.powerDomain))
  | 0x20, 0 => (s.owner pg).getD (s.f pg f)
  | 0x20, 7 => if pg.kind.owned && pg.kind.region ≠ 3 then s.f pg f else 1
  | 0x20, 8 => b2n (!pg.kind.owned)
  | o, _ => if 0x24 ≤ o ∧ o < 0x40 then s.param pg ((o - 0x24) / 4) else s.f pg f

/-- The command slots of channel and bank of one stack that hold a command, and that are held (STK_BU `BU_OCC`). -/
def State.buOcc (s : State) (stack chan bank : Nat) (held : Bool) : Nat :=
  maskOf ((s.bus.filter fun b => b.stack = stack && b.chan = chan && (!held || b.st = .held)).flatMap fun b =>
    (b.parts.filter fun p => p.bank = bank && decide (p.slot < 16)).map (·.slot))

/-- The value of a field as a read shows it: stored, or computed from the state that holds it. -/
def State.view (s : State) (pg : Page) (f : Fld) : Nat :=
  if f.off < 0x40 then s.hdrView pg f else
  match pg.kind, f.off, f.lo with
  | .devCap, 0x44, 0 => s.fuses.gradeSlices
  | .devCap, 0x44, 8 => s.fuses.stepping
  | .devCap, 0x48, 0 => s.fuses.sliceMask
  | .devCap, 0x60, 8 => if s.pins.bifur = 1 then 1 else if s.pins.bifur = 2 then 2 else 0
  | .devCap, 0x60, 12 => s.admin
  | .plv, 0x40, 0 => b2n (s.plv.queue ≠ [] || s.plv.reverify ≠ [])
  | .glbCarve, 0x40, 1 =>
    maskOf ((List.range 4).filter fun k => s.on ⟨.stkMcr, k, 0⟩ StkMcr.INIT_FAIL)
  | .tkgSrc, 0x5C, 0 => s.time
  | .hptPace, 0x44, 0 => (s.cmds.filter fun c => c.port = pg.inst).length
  | .ctx, 0x58, 0 => 0x7F0400000 + pg.inst * 0x20000
  | .ctx, 0x40, 3 => b2n (s.cx pg.inst).program.isSome
  | .ctx, 0xC0, 0 => ((s.cx pg.inst).l1).getD 0
  | .qdb, 0x4C, 2 => b2n (s.on pg Hdr.OWNER_VALID && 2 ≤ s.f ⟨.ctx, s.f pg Hdr.OWNER_CONTEXT, 0⟩ Ctx.STATE)
  | .slcSeq, 0x40, 0 => b2n (s.slice pg.inst).run
  | .slcSeq, 0x40, 1 => b2n (s.slice pg.inst).stalled
  | .slcSeq, 0x40, 4 => (s.slice pg.inst).pc
  | .slcSeq, 0x40, 18 => (s.slice pg.inst).ctx
  | .slcSeq, 0x40, 24 => (s.slice pg.inst).calls.length
  | .slcSeq, 0x44, 0 => (s.slice pg.inst).flags.toNat
  | .stkBu, 0x44, 0 => s.buOcc pg.inst (s.f pg StkBu.SEL_CHANNEL) (s.f pg StkBu.SEL_BANK) false
  | .stkBu, 0x44, 16 => s.buOcc pg.inst (s.f pg StkBu.SEL_CHANNEL) (s.f pg StkBu.SEL_BANK) true
  | .pattern, 0x60, 0 => s.fuses.patProgrammed
  | .pattern, 0x60, 4 => s.fuses.patRevoked
  | .mgtClk, 0x40, 0 => (0xFD - s.pins.clkGone % 256) ||| (b2n s.power.locked <<< 1)
  | .mgtSideband, 0x40, 0 => 0x58 + s.pins.smbAddr.toNat
  | .mgtGov, 0x54, 0 => maskOf ((List.range 16).filter fun n => (List.range 4).any fun c =>
      match (s.cx c).program with
      | some p => p.gang.contains n
      | none => false)
  | .mgtLimit, 0x4C, 1 => b2n (decide (min 3200 (s.f pg MgtLimit.CORE_I_LIMIT) ≤ s.f ⟨.mgtSense, 0, 0⟩ MgtSense.I_CORE))
  | .mgtLimit, 0x4C, 2 => b2n (decide (min 1000 (s.f pg MgtLimit.BU_I_LIMIT) ≤ s.f ⟨.mgtSense, 0, 0⟩ MgtSense.I_BU))
  | .mgtLimit, 0x4C, 3 => b2n (decide (840 ≤ sgn 16 (s.f ⟨.mgtSense, 0, 0⟩ MgtSense.TEMP_MAX)))
  | _, _, _ => s.f pg f

/-- The 32 bits of the word at an offset, as a read of it shows them: write-only fields read 0 (R8); the low 12 bits of a
window limit read as ones (HPT_XLATE). -/
def State.readWord (s : State) (pg : Page) (off : Nat) : Nat :=
  let v := (fieldsAt pg.kind off).foldl (fun a (f, high) =>
    if f.acc = .wo then a else
    let x := s.view pg f <<< f.lo
    a ||| (if high then x >>> 32 else x % 2 ^ 32)) 0
  if pg.kind = .hptXlate ∧ 0x48 ≤ off ∧ off < 0x80 ∧ (off - 0x48) % 16 = 0 then v ||| 0xFFF else v

/-! ## Interrupts (R24, R317) -/

/-- Append to what leaves the module. -/
def State.emit (s : State) (o : Out) : State := { s with out := s.out ++ [o] }

/-- Whether the HIB may write and interrupt towards a port (R294, R321). -/
def State.portUp (s : State) (p : Nat) : Bool :=
  s.on ⟨.hptLink, p, 0⟩ HptLink.UP && !s.on ⟨.hptLink, p, 0⟩ HptLink.TEARDOWN_BUSY

/-- Send vector `v` of a port's MSI-X table, or hold it pending while it is masked (R293). DESIGN CHOICE (log 12): an interrupt that rises while
the port's link is down or in teardown is dropped, and is not sent when the link returns; its status stays set. -/
def State.sendMsix (s : State) (p v : Nat) : State :=
  let pg : Page := ⟨.hptEvent, p, 0⟩
  if !s.portUp p then s
  else if s.on pg (HptEvent.MSIX_MASK.at v) then
    let w := HptEvent.MSIX_PBA.at (v / 32)
    s.setF pg w (s.f pg w ||| 2 ^ (v % 32))
  else s.emit (.msix p v (s.f pg (HptEvent.MSIX_ADDR.at v)) (s.f pg (HptEvent.MSIX_DATA.at v)))

/-- Whether a page raises its interrupt (R24). -/
def State.irqOn (s : State) (pg : Page) : Bool :=
  s.f pg Hdr.IRQ_STAT &&& (2 ^ 32 - 1 - s.f pg Hdr.IRQ_MASK) ≠ 0

/-- Deliver a page's interrupt when a change of its status or mask has raised it: vector 64 on the owner port of
an owned page, or on the admin port (R24, R317; log 12). -/
def State.irqEdge (s : State) (was : Bool) (pg : Page) : State :=
  if !was && s.irqOn pg then
    match s.owner pg with
    | some p => s.sendMsix p 64
    | none => s
  else s

/-- Set bits of `PG_IRQ_STAT`. -/
def State.irq (s : State) (pg : Page) (bits : Nat) : State :=
  let was := s.irqOn pg
  (s.setF pg Hdr.IRQ_STAT (s.f pg Hdr.IRQ_STAT ||| (bits &&& pg.kind.irqBits))).irqEdge was pg

/-! ## Resets of pages (R38 to R40, R434) -/

/-- Drop the stored fields of the pages at `base` to `base + len - 1`, so that they read their reset values. -/
def State.resetRange (s : State) (base len : Nat) : State :=
  { s with regs := spDrop s.regs (base * 8) ((base + len) * 8) }

/-- A whole page takes its reset values. -/
def State.resetPage (s : State) (pg : Page) : State := s.resetRange pg.base 0x1000

/-- The block registers of a page take their reset values; the admin port's is a strap (R23, R27). -/
def State.resetBlock (s : State) (pg : Page) : State :=
  let s := s.resetRange (pg.base + 0x40) (0x1000 - 0x40)
  if pg.kind = .glbCtrl then s.setF pg GlbCtrl.ADMIN_PORT s.pins.adminSel.toNat else s

/-- `RESET_BUSY` of a page reads 1 until `t`, or until a reset already in progress ends, where that is later (R434). -/
def State.setBusy (s : State) (pg : Page) (t : Nat) : State := { s with busy := spPut 0 s.busy pg.base (max t (spGet 0 s.busy pg.base)) }

def State.isBusy (s : State) (pg : Page) : Bool := spGet 0 s.busy pg.base ≠ 0

end Sys2Proof.Machine
end

