-- ==== Sys2Proof/Machine/Memory.lean ====
section
/-! DEFINITION. Device memory: the two address views, the canonical list of bytes, the SEC-DED code of a beat, fault records,
and reads and writes as the MCR makes them (05_memory_stacks.md; 17_reliability.md R377 to R379). -/

namespace Sys2Proof.Machine

/-! ## Address views (R90, R91, R309) -/

/-- Linear address to bank-local address (R91). -/
def linToBank (l : Nat) : Nat :=
  let h := ((l >>> 18) ^^^ (l >>> 22) ^^^ (l >>> 26) ^^^ (l >>> 30)) % 16
  let bank := fld l 17 14 ^^^ h
  (fld l 13 12 <<< 33) ||| (fld l 11 8 <<< 29) ||| (bank <<< 25) ||| (fld l 34 18 <<< 8) ||| fld l 7 0

/-- Bank-local address to linear address (R91). -/
def bankToLin (b : Nat) : Nat :=
  let off := b % 2 ^ 25
  let hi := off >>> 8
  let h := (hi ^^^ (hi >>> 4) ^^^ (hi >>> 8) ^^^ (hi >>> 12)) % 16
  let bank := fld b 28 25 ^^^ h
  (hi <<< 18) ||| (bank <<< 14) ||| (fld b 34 33 <<< 12) ||| (fld b 32 29 <<< 8) ||| fld off 7 0

/-- The bank-local address of a bank offset of one bank (R90). -/
def bankAddr (stack chan bank off : Nat) : Nat := (stack <<< 33) ||| (chan <<< 29) ||| (bank <<< 25) ||| off

/-- The two views of R89. -/
def viewAddr (bankView : Bool) (a : Nat) : Nat := if bankView then a else linToBank a

/-- The zone of a bank-local address (R92). -/
def zoneOf (b : Nat) : Nat := fld b 24 16

/-- Whether a bank-local address lies in the carve-out (R96). -/
def inCarve (b : Nat) : Bool := 504 ≤ zoneOf b

/-- The system carve-out in the linear view (R96). -/
def carveBase : Nat := 0x7E0000000

/-- The size of each aperture: 32 GiB (R89). -/
def apertureSize : Nat := 2 ^ 35

/-! ## The list of bytes -/

/-- What a byte that nothing has written reads as: the fill of R98 leaves zero. -/
def memDefault : Byte := 0

/-- The canonical form: addresses strictly rising, and no entry equal to what an unlisted address reads as. -/
def memWfFrom : Nat → List Host.Cell → Bool
  | _, [] => true
  | n, (a, b) :: t => decide (n ≤ a) && decide (b ≠ memDefault) && memWfFrom (a + 1) t

def Memory.wf (m : List Host.Cell) : Bool := memWfFrom 0 m

/-- One byte of memory. -/
def memByte : List Host.Cell → Nat → Byte
  | [], _ => memDefault
  | (a, b) :: t, k => if a = k then b else if k < a then memDefault else memByte t k

/-- The cells of a run of bytes from `a`, without those equal to the default. -/
def runCells : Nat → List Byte → List Host.Cell
  | _, [] => []
  | a, b :: t => if b = memDefault then runCells (a + 1) t else (a, b) :: runCells (a + 1) t

/-- Write a run of bytes at consecutive bank-local addresses. -/
def memRun (m : List Host.Cell) (a : Nat) (l : List Byte) : List Host.Cell :=
  m.takeWhile (fun e => e.1 < a) ++ runCells a l ++ (m.dropWhile fun e => e.1 < a).dropWhile fun e => e.1 < a + l.length

/-- Zero a run of `n` bytes. -/
def memZero (m : List Host.Cell) (a n : Nat) : List Host.Cell :=
  m.takeWhile (fun e => e.1 < a) ++ (m.dropWhile fun e => e.1 < a).dropWhile fun e => e.1 < a + n

/-- `n` bytes at consecutive bank-local addresses. -/
def memBytes (m : List Host.Cell) (a n : Nat) : List Byte := (List.range n).map fun i => memByte m (a + i)

/-- Split a run that starts at view address `a` into pieces that are contiguous in the bank-local view: (bank-local
address, offset in the run, length). The linear view is contiguous within 256 bytes (R91). -/
def pieces (bankView : Bool) (a n : Nat) : List (Nat × Nat × Nat) :=
  if n = 0 then [] else
  if bankView then [(a, 0, n)] else
  (List.range ((a + n - 1) / 256 - a / 256 + 1)).map fun i =>
    let lo := max a ((a / 256 + i) * 256)
    let hi := min (a + n) ((a / 256 + i + 1) * 256)
    (linToBank lo, lo - a, hi - lo)

/-- Drop the queued repairs of beats `lo` to `hi - 1`, because they are written (R105). -/
def State.dropRepairs (s : State) (lo hi : Nat) : State :=
  let ch := (lo * 32) >>> 29
  let q := spGet [] s.repairs ch
  if q = [] then s
  else { s with repairs := spPut [] s.repairs ch (q.filter fun r => r.addr / 32 < lo || hi ≤ r.addr / 32) }

/-- Whether one of the beats lies in `lo` to `hi - 1`. -/
def hitBeats (l : List Nat) (lo hi : Nat) : Bool := l.any fun b => decide (lo ≤ b) && decide (b < hi)

/-- Discard the held tiles of a slice that read a beat now written (R348). -/
def State.dropHeldTiles (s : State) (lo hi n : Nat) : State :=
  let x := s.slice n
  let gone := x.ra.filter fun t => hitBeats t.beats lo hi
  if gone = [] then s
  else (s.setSlice n { x with ra := x.ra.filter fun t => !hitBeats t.beats lo hi }).bump ⟨.slcPerf, n, 0⟩
    SlcPerf.RA_DISCARDED gone.length

/-- Discard the held DOTs that read a beat now written; a run-ahead DOT that is still reading is to be discarded when it is done (R348). -/
def State.dropHeldDots (s : State) (lo hi : Nat) : State :=
  let hit := fun (b : BuCmd) => b.runahead && hitBeats b.reads lo hi
  if !s.bus.any hit then s
  else (s.bus.filter fun b => hit b && b.st = .held).foldl (fun s b => s.bump ⟨.slcPerf, b.slice, 0⟩ SlcPerf.RA_DISCARDED)
    { s with bus := (s.bus.filter fun b => !(hit b && b.st = .held)).map fun b => if hit b then { b with abandoned := true } else b }

/-- What a write to beats `lo` to `hi - 1` does beside storing: repairs drop and held results are discarded (R105, R348). -/
def State.wrote (s : State) (lo hi : Nat) : State :=
  (List.range 16).foldl (fun s n => s.dropHeldTiles lo hi n) ((s.dropRepairs lo hi).dropHeldDots lo hi)

/-- Store whole beats with fresh check bits (R107). -/
def State.putBeats (s : State) (bankView : Bool) (a : Nat) (l : List Byte) : State :=
  (pieces bankView a l.length).foldl (fun s (b, off, k) =>
    let s := s.wrote (b / 32) ((b + k - 1) / 32 + 1)
    { s with mem := memRun s.mem b ((l.drop off).take k), syn := spDrop s.syn (b / 32) ((b + k - 1) / 32 + 1) }) s

/-- Fill a range with zero beats and zero check bits (R102). -/
def State.zeroFill (s : State) (bankView : Bool) (a n : Nat) : State :=
  (pieces bankView a n).foldl (fun s (b, _, k) =>
    let s := s.wrote (b / 32) ((b + k - 1) / 32 + 1)
    { s with mem := memZero s.mem b k, syn := spDrop s.syn (b / 32) ((b + k - 1) / 32 + 1) }) s

/-! ## The error code (R103, R104) -/

/-- The 12-bit tag of nibble `i`. -/
def nibbleTag (i : Nat) : Nat := (i + 1) ||| (if parity (i + 1) 11 then 2 ^ 11 else 0)

/-- The syndrome that an error in data bit `n` (0 to 255) makes. -/
def bitSyndrome (n : Nat) : BitVec 16 := BitVec.ofNat 16 (2 ^ (n % 4) ||| (nibbleTag (n / 4) <<< 4))

/-- The check bits of a beat (R103). -/
def checkBits (beat : List Byte) : BitVec 16 :=
  let v := leNat beat
  (bitsOf v 256).foldl (fun a n => a ^^^ bitSyndrome n) 0

/-- How a read decodes (R104): class as `LAST_CLASS` codes it, and the data bit to invert. -/
structure Decoded where
  cls : Nat
  fix : Option Nat := none
  deriving DecidableEq, Repr

/-- The decode table of R104. -/
def decodeSyn (syn : BitVec 16) : Decoded :=
  let s := syn.toNat
  let p := s % 16
  let q := s / 16
  if s = 0 then { cls := 0 }
  else if popcount p 4 = 1 ∧ q = 0 then { cls := 1 }
  else if p = 0 ∧ popcount q 12 = 1 then { cls := 1 }
  else if popcount p 4 = 1 then
    match (List.range 64).filter fun i => nibbleTag i = q with
    | i :: _ => { cls := 2, fix := some (4 * i + (bitsOf p 4).headD 0) }
    | [] => { cls := 3 }
  else { cls := 3 }

/-- Invert one bit of a byte string. -/
def flipBit (l : List Byte) (n : Nat) : List Byte := mapAt l (n / 8) fun b => b ^^^ BitVec.ofNat 8 (2 ^ (n % 8))

/-- The byte at a bank-local address as a read delivers it: an error in one data bit of its beat is corrected (R104). -/
def State.readByte (s : State) (a : Nat) : Byte :=
  let v := memByte s.mem a
  match (decodeSyn (spGet 0 s.syn (a / 32))).fix with
  | some n => if n / 8 = a % 32 then v ^^^ BitVec.ofNat 8 (2 ^ (n % 8)) else v
  | none => v

/-- Bytes of device memory in a view as a read delivers them (R104, R106); `State.noteRead` counts the read. -/
def State.peek (s : State) (bankView : Bool) (a n : Nat) : List Byte :=
  (pieces bankView a n).flatMap fun (b, _, k) =>
    if s.syn = [] then memBytes s.mem b k else (List.range k).map fun i => s.readByte (b + i)

/-- An upset strikes a stored beat: a data bit, or a check bit (R103). -/
def State.strike (s : State) (beat bit : Nat) : State :=
  let syn := spGet 0 s.syn beat
  if bit < 256 then
    let a := beat * 32 + bit / 8
    { s with mem := memRun s.mem a [memByte s.mem a ^^^ BitVec.ofNat 8 (2 ^ (bit % 8))]
             syn := spPut 0 s.syn beat (syn ^^^ bitSyndrome bit) }
  else { s with syn := spPut 0 s.syn beat (syn ^^^ BitVec.ofNat 16 (2 ^ (bit - 256))) }

/-! ## Fault records (R377 to R379) -/

/-- What a fault record says of its cause and place (R378). -/
structure Record where
  cls : Nat
  utype : Nat
  uidx : Nat
  ctx : Nat := 0xFF
  slot : Nat := 7
  bundle : Nat := 0
  addr : Nat := 0
  akind : Nat := 0
  syn : Nat := 0
  detail : Nat := 0
  deriving DecidableEq, Repr

/-- The sensor nearest a unit (R431): a bank unit's or channel's base-die sensor, a slice's, a ring sensor. -/
def Record.sensor (r : Record) : Nat :=
  match r.utype with
  | 1 => 24 + r.uidx
  | 2 => 4 * (r.uidx / 256) + r.uidx / 16 % 16 / 4
  | 3 => 4 * (r.uidx / 16) + r.uidx % 16 / 4
  | 4 => 21
  | 5 => 20
  | 6 | 7 => 23
  | _ => 20

/-- The rail that feeds a unit (R378). -/
def Record.rail (r : Record) : Nat :=
  match r.utype with
  | 2 => 1
  | 3 => 2
  | _ => 0

def senseP : Page := ⟨.mgtSense, 0, 0⟩
def fruP : Page := ⟨.fru, 0, 0⟩
def srcP : Page := ⟨.tkgSrc, 0, 0⟩

/-- The voltage of a rail in mV, as MGT_SENSE shows it. -/
def State.railMv (s : State) (rail : Nat) : Nat :=
  match rail with
  | 1 => s.f senseP MgtSense.V_BU
  | 2 => s.f senseP MgtSense.V_VDD_ST
  | _ => s.f senseP MgtSense.V_CORE

def State.tickNum (s : State) : Nat := s.f srcP TkgSrc.TICK_NUM

/-- The linear address of fault record ring entry `i` (R377). -/
def fruAddr (i : Nat) : Nat := 0x7F0C80000 + 64 * (i % 4096)

/-- The 64 bytes of a record (R378). -/
def State.recordBytes (s : State) (r : Record) (idx suppressed : Nat) : List Byte :=
  leBytes 8 s.time ++ leBytes 8 s.tickNum ++ leBytes 4 s.rel.seq ++ leBytes 1 r.cls ++ leBytes 1 r.utype ++
  leBytes 2 r.uidx ++ leBytes 1 r.ctx ++ leBytes 1 r.slot ++ leBytes 2 (r.bundle % 2 ^ 14) ++
  leBytes 2 (s.f senseP (MgtSense.TEMP.at r.sensor)) ++ leBytes 2 (s.railMv r.rail) ++ leBytes 8 (r.addr % 2 ^ 40) ++
  leBytes 8 r.syn ++ leBytes 8 r.detail ++ leBytes 2 (satN 16 suppressed) ++ leBytes 1 r.akind ++
  leBytes 1 r.sensor ++ leBytes 1 r.rail ++ [0, 0] ++ leBytes 1 (1 - idx / 4096 % 2)

/-- Record a fault (R377): suppressed within a tick by its key, lost when the ring is full or the FRU is off, else written
whole, and only then counted in `FRU_TAIL`. A key is (class, unit type, unit index, tick, suppressed count). -/
def State.record (s : State) (r : Record) : State :=
  if !s.on fruP Fru.EN then s.bump fruP Fru.LOST
  else if r.cls = 1 ∧ !s.on fruP Fru.CE_EN then s
  else
    let isKey := fun (k : Nat × Nat × Nat × Nat × Nat) => k.1 = r.cls ∧ k.2.1 = r.utype ∧ k.2.2.1 = r.uidx
    let old := s.rel.keys.find? fun k => decide (isKey k)
    let rest := s.rel.keys.filter fun k => !decide (isKey k)
    let same := match old with
      | some (_, _, _, t, _) => decide (t = s.tickNum)
      | none => false
    let n := match old with
      | some (_, _, _, _, n) => n
      | none => 0
    if same then
      { s with rel := { s.rel with keys := (r.cls, r.utype, r.uidx, s.tickNum, n + 1) :: rest } }.bump fruP Fru.SUPPRESSED
    else
      let tail := s.f fruP Fru.TAIL
      if (tail + 2 ^ 16 - s.f fruP Fru.HEAD) % 2 ^ 16 = 4096 then (s.bump fruP Fru.LOST).irq fruP 4
      else
        let s := s.putBeats false (fruAddr tail) (s.recordBytes r tail n)
        let s := { s with rel := { s.rel with seq := (s.rel.seq + 1) % 2 ^ 32,
                                              keys := ((r.cls, r.utype, r.uidx, s.tickNum, 0) :: rest).take 64 } }
        (s.setF fruP Fru.TAIL (tail + 1)).irq fruP 2

/-! ## Reads and writes as the MCR makes them (R104 to R107) -/

/-- Who reads (the coding of `LAST_SRC`), with the slice number for a slice, and the context, slot and bundle that a
fault record names. A run-ahead read, `ahead`, reports no uncorrectable beat (R349). -/
structure Reader where
  src : Nat
  unit : Nat := 0
  ctx : Nat := 0xFF
  slot : Nat := 7
  bundle : Nat := 0
  ahead : Bool := false
  deriving DecidableEq, Repr

def mcrRmw : Reader := { src := 0xA }
def plvReader : Reader := { src := 7 }
def hibReader : Reader := { src := 8 }

/-- Queue a repair of a corrected beat in its channel (R105). -/
def State.queueRepair (s : State) (ba : Nat) (bytes : List Byte) : State :=
  let ch := ba >>> 29
  let q := spGet [] s.repairs ch
  if q.length < 16 then { s with repairs := spPut [] s.repairs ch (q ++ [{ addr := ba, bytes := bytes }]) }
  else s.bump ⟨.stkMcr, ba >>> 33, 0⟩ StkMcr.REPAIR_DROP_CNT

/-- Count and record a read that was not clean (R105, R106): counters, `LAST_*`, interrupt, fault record, repair. -/
def State.eccReport (s : State) (rd : Reader) (ba : Nat) (syn : BitVec 16) (cls : Nat) (fixed : List Byte) : State :=
  let k := ba >>> 33
  let pg : Page := ⟨.stkEcc, k, 0⟩
  let unit := if rd.src = 4 then rd.unit else 0
  let s := s.bump pg (if cls = 3 then StkEcc.UE_CNT else StkEcc.CE_CNT)
  let s := s.setF pg StkEcc.LAST_ADDR ba
  let s := s.setF pg StkEcc.LAST_SYN syn.toNat
  let s := s.setF pg StkEcc.LAST_CLASS cls
  let s := s.setF pg StkEcc.LAST_SRC rd.src
  let s := s.setF pg StkEcc.LAST_UNIT unit
  let s := s.irq pg (if cls = 3 then 4 else 2)
  let s := if cls = 3 then s else s.queueRepair ba fixed
  s.record { cls := if cls = 3 then 2 else 1, utype := 3, uidx := ba >>> 29, ctx := rd.ctx, slot := rd.slot,
             bundle := rd.bundle, addr := ba, akind := 1, syn := syn.toNat, detail := rd.src ||| (unit <<< 4) }

/-- A beat as read: its bytes after correction, and whether it is uncorrectable. -/
structure Beat where
  bytes : List Byte
  bad : Bool
  deriving DecidableEq, Repr

/-- Read the beat that holds a bank-local address (R104 to R106). -/
def State.readBeat (s : State) (rd : Reader) (ba : Nat) : State × Beat :=
  let b := ba / 32
  let bytes := memBytes s.mem (b * 32) 32
  let syn := spGet 0 s.syn b
  let d := decodeSyn syn
  if d.cls = 0 then (s, ⟨bytes, false⟩)
  else
    let fixed := match d.fix with
      | some n => flipBit bytes n
      | none => bytes
    (if d.cls = 3 && rd.ahead then s else s.eccReport rd (b * 32) syn d.cls fixed, ⟨fixed, d.cls = 3⟩)

/-- Read `n` bytes of a view: the bytes, and which of them came from an uncorrectable beat. Each beat is read once. -/
def State.readMem (s : State) (rd : Reader) (bankView : Bool) (a n : Nat) : State × List Byte × List Bool :=
  (pieces bankView a n).foldl (fun (s, out, bad) (b, _, k) =>
    (List.range ((b + k - 1) / 32 - b / 32 + 1)).foldl (fun (s, out, bad) i =>
      let beat := b / 32 + i
      let lo := max b (beat * 32)
      let hi := min (b + k) (beat * 32 + 32)
      let (s, r) := s.readBeat rd (beat * 32)
      (s, out ++ (r.bytes.drop (lo % 32)).take (hi - lo), bad ++ List.replicate (hi - lo) r.bad)) (s, out, bad))
    (s, [], [])

/-- Store one beat's bytes with its syndrome. -/
def State.storeBeat (s : State) (beat : Nat) (bytes : List Byte) (syn : BitVec 16) : State :=
  let s := s.wrote beat (beat + 1)
  { s with mem := memRun s.mem (beat * 32) bytes, syn := spPut 0 s.syn beat syn }

/-- A read of structures of the device's own, whose bytes `State.peek` gives: its beats are decoded, counted, recorded and repaired as those of
every read (R104 to R106; log 7). -/
def State.noteRead (s : State) (rd : Reader) (bankView : Bool) (a n : Nat) : State :=
  if s.syn = [] then s else (s.readMem rd bankView a n).1

/-- Write part of one beat, or all of it (R107): `badParity` is a byte-parity error of the data that arrived, `poison`
data that arrived poisoned, which memory keeps as an uncorrectable beat (R361). -/
def State.writeBeat (s : State) (beat off : Nat) (l : List Byte) (badParity poison : Bool) (rmw : Reader := mcrRmw) : State :=
  let pg : Page := ⟨.stkEcc, (beat * 32) >>> 33, 0⟩
  let s := if badParity then s.bump pg StkEcc.WPAR_CNT else s
  if l.length = 32 then s.storeBeat beat l (if badParity || poison then 0x000F else 0)
  else
    let (s, r) := s.readBeat rmw (beat * 32)
    s.storeBeat beat (bytesPut r.bytes off l) (if badParity || poison || r.bad then 0x000F else 0)

/-- Write bytes at a view address, beat by beat (R107, R111). -/
def State.writeMem (s : State) (bankView : Bool) (a : Nat) (l : List Byte) (badParity poison : Bool := false) : State :=
  (pieces bankView a l.length).foldl (fun s (b, off, k) =>
    (List.range ((b + k - 1) / 32 - b / 32 + 1)).foldl (fun s i =>
      let beat := b / 32 + i
      let lo := max b (beat * 32)
      let hi := min (b + k) (beat * 32 + 32)
      s.writeBeat beat (lo % 32) ((l.drop (off + (lo - b))).take (hi - lo)) badParity poison) s) s

/-- A block's write to a structure of its own in the carve-out (R96, R107). -/
def State.poke (s : State) (bankView : Bool) (a : Nat) (l : List Byte) : State := s.writeMem bankView a l

/-- Write bytes of which each may be poisoned: a beat that holds a poisoned byte is stored uncorrectable (R361). -/
def State.writeMarked (s : State) (bankView : Bool) (a : Nat) (l : List (Byte × Bool)) : State :=
  (pieces bankView a l.length).foldl (fun s (b, off, k) =>
    (List.range ((b + k - 1) / 32 - b / 32 + 1)).foldl (fun s i =>
      let beat := b / 32 + i
      let lo := max b (beat * 32)
      let hi := min (b + k) (beat * 32 + 32)
      let part := (l.drop (off + (lo - b))).take (hi - lo)
      s.writeBeat beat (lo % 32) (part.map (·.1)) false (part.any (·.2))) s) s

end Sys2Proof.Machine
end

