-- ==== Sys2Proof/Machine/Ops.lean ====
section
/-! DEFINITION. Operations that the families share: when the module is live, host memory windows, events, device address
translation, the frame and object tables, reference counts and context states (14_host_objects.md). -/

namespace Sys2Proof.Machine

abbrev Result := Host.Outcome State Fault Refusal

/-- Out of every reset and not in the critical state: the clocks run (R410, R428). -/
def State.live (s : State) : Bool := !s.power.critical && !s.power.inPower && !s.power.inCold

/-- The engine and bank-unit clocks run: out of resets, and not stopped by a trip (R358). -/
def State.clocked (s : State) : Bool := s.live && !s.gov.tripStopped

/-- The answer of a command that acts when `ok` holds, and otherwise leaves the state alone (log 2). -/
def act (ok : Bool) (s : State) (g : State → State) : Result := .next (if ok then g s else s)

/-- The answer of a command whose subject may be absent: nothing changes then (log 2). -/
def actSome {α : Type} (o : Option α) (s : State) (g : α → State → State) : Result :=
  match o with
  | some x => .next (g x s)
  | none => .next s

/-! ## Pages by name -/

def devP : Page := ⟨.devCap, 0, 0⟩
def glbP : Page := ⟨.glbCtrl, 0, 0⟩
def carveP : Page := ⟨.glbCarve, 0, 0⟩
def plvP : Page := ⟨.plv, 0, 0⟩
def winP : Page := ⟨.tkgWin, 0, 0⟩
def ovrP : Page := ⟨.tkgOvr, 0, 0⟩
def govP : Page := ⟨.mgtGov, 0, 0⟩
def limP : Page := ⟨.mgtLimit, 0, 0⟩
def clkP : Page := ⟨.mgtClk, 0, 0⟩
def sbP : Page := ⟨.mgtSideband, 0, 0⟩
def cloveP : Page := ⟨.clove, 0, 0⟩
def aniP : Page := ⟨.anise, 0, 0⟩
def patP : Page := ⟨.pattern, 0, 0⟩
def hltP : Page := ⟨.health, 0, 0⟩
def rxP : Page := ⟨.sibRx, 0, 0⟩
def txP : Page := ⟨.sibTx, 0, 0⟩
def trigP : Page := ⟨.sibTrig, 0, 0⟩
def ctxP (c : Nat) : Page := ⟨.ctx, c, 0⟩
def qdbP (q : Nat) : Page := ⟨.qdb, q, 0⟩
def grpP (g : Nat) : Page := ⟨.sibGrp, g, 0⟩
def linkP (p : Nat) : Page := ⟨.hptLink, p, 0⟩
def xlP (p : Nat) : Page := ⟨.hptXlate, p, 0⟩
def paceP (p : Nat) : Page := ⟨.hptPace, p, 0⟩
def seqP (n : Nat) : Page := ⟨.slcSeq, n, 0⟩
def perfP (n : Nat) : Page := ⟨.slcPerf, n, 0⟩
def slhP (n : Nat) : Page := ⟨.slcHealth, n, 0⟩
def portP (n : Nat) : Page := ⟨.slcPort, n, 0⟩
def extP (n : Nat) : Page := ⟨.slcExt, n, 0⟩
def mcrP (k : Nat) : Page := ⟨.stkMcr, k, 0⟩
def refP (k : Nat) : Page := ⟨.stkRefresh, k, 0⟩
def buP (k : Nat) : Page := ⟨.stkBu, k, 0⟩

/-! ## Ports (R292, R294) -/

/-- Lanes of a port under the strapped bifurcation; 0 where it does not train (R292, R416). -/
def State.portWidth (s : State) (p : Nat) : Nat :=
  if s.pins.bifur = 1 then (if p < 2 then 8 else 0)
  else if s.pins.bifur = 2 then 4
  else if p = 0 then 16 else 0

/-- Whether an access from a source can reach the module: a port's link is up and not in D3hot (R294), and the sideband runs
out of POWER reset and Critical (R411, R428, R429). -/
def State.reaches (s : State) : Src → Bool
  | .port p => s.live && s.on (linkP p.val) HptLink.UP && !s.pins.d3hot.getD p.val false
  | .sideband => !s.power.critical && !s.power.inPower

/-! ## Host memory (R295) -/

/-- Whether a request for `n` bytes of host memory at `a` lies in one enabled window of the port (R295). -/
def State.hostOk (s : State) (p a n : Nat) : Bool :=
  (List.range 4).any fun w =>
    s.on (xlP p) (HptXlate.WIN_EN.at w) && decide (s.f (xlP p) (HptXlate.WIN_BASE.at w) * 4096 ≤ a) &&
    decide (a + n ≤ (s.f (xlP p) (HptXlate.WIN_LIMIT.at w) + 1) * 4096)

/-- A request that no window allows is not issued, and is counted (R295). -/
def State.deny (s : State) (p : Nat) : State := s.bump (xlP p) HptXlate.HOST_DENY_CNT

/-! ## Context states (R298) -/

def State.ctxState (s : State) (c : Nat) : Nat := s.f (ctxP c) Ctx.STATE

def stFree : Nat := 0
def stLive : Nat := 1
def stDead : Nat := 2
def stTear : Nat := 3

/-- Whether work of a context's programs goes on: it is LIVE, or in a teardown whose edge has not come, up to which started commands run on
(R67, R298, R321). -/
def State.ctxRuns (s : State) (c : Nat) : Bool := s.ctxState c = stLive || (s.ctxState c = stTear && !(s.cx c).torn)

/-- The certified worst case of segment `k` of a host program, in ns (R66, R281). -/
def Program.segmentNs (p : Program) (k : Nat) : Nat := p.segNs.getD k p.certNs

/-- Slots 0 to 3 are the stream slots (R297). -/
def State.isStream (s : State) (c : Nat) : Bool := s.on (ctxP c) Ctx.STREAM

/-- The port that owns a context slot (R28). -/
def State.ctxPort (s : State) (c : Nat) : Nat := s.f (ctxP c) Hdr.OWNER_PORT

/-! ## Events (R316, R317) -/

structure Event where
  cookie : Nat := 0
  type : Nat
  status : Nat := 0
  result : Nat := 0
  detail : Nat := 0
  queue : Nat := 0
  deriving DecidableEq, Repr

/-- The 16 bytes of an event record, its phase bit 0 (R316). -/
def Event.bytes (e : Event) (c : Nat) : List Byte :=
  leBytes 8 e.cookie ++ leBytes 1 e.type ++ leBytes 1 e.status ++ leBytes 1 e.result ++ leBytes 1 c ++
  leBytes 2 e.detail ++ leBytes 1 e.queue ++ [0]

/-- The linear address of backing-ring entry `t` of a context (R96, R317). -/
def backAddr (c t : Nat) : Nat := 0x7F0DC0000 + c * 0x40000 + (t % 16384) * 16

/-- Put one record at the end of a context's backing ring. -/
def State.pushBack (s : State) (c : Nat) (e : Event) : State :=
  let n := s.f (ctxP c) Ctx.EV_BACKLOG
  let s := s.poke false (backAddr c (s.f (ctxP c) Ctx.EVQ_TAIL + n)) (e.bytes c)
  s.setF (ctxP c) Ctx.EV_BACKLOG (n + 1)

/-- One more event of the context is lost (R317). -/
def State.loseEvent (s : State) (c : Nat) : State :=
  (s.bump (ctxP c) Ctx.EV_LOST).modCx c fun x => { x with lostEv := x.lostEv + 1 }

/-- Post an event to a context: it enters the backing ring, a LOST record before it when records were lost, or is lost
because the ring is full (R317). -/
def State.post (s : State) (c : Nat) (e : Event) : State :=
  let lost := (s.cx c).lostEv
  let n := s.f (ctxP c) Ctx.EV_BACKLOG
  if 16384 < n + (if lost = 0 then 1 else 2) then s.loseEvent c
  else if lost = 0 then s.pushBack c e
  else ((s.pushBack c { type := 5, detail := satN 16 lost }).modCx c fun x => { x with lostEv := 0 }).pushBack c e

/-- A CONTEXT event that carries the slot's new state (R316). -/
def State.postState (s : State) (c st : Nat) : State := s.post c { type := 6, detail := st }

/-! ## The carve-out structures (R310, R318) -/

def poolAddr : Nat := carveBase
def objAddr (o : Nat) : Nat := carveBase + 0x200000 + 32 * o
def refAddr (o : Nat) : Nat := carveBase + 0x10C00000 + 8 * o
def descAddr (c h : Nat) : Nat := carveBase + 0x10000000 + c * 0x10000 + h * 64
def saveAddr (c : Nat) : Nat := carveBase + 0x10400000 + c * 0x20000
def tableAddr (page idx : Nat) : Nat := carveBase + 0x400000 + page * 0x8000 + 8 * idx
def tablePages : Nat := 8064

def State.peekN (s : State) (a n : Nat) : Nat := leNat (s.peek false a n)

/-- The base of a frame: which view, and its address (R309). -/
def frameBase (bank : Bool) (pfn : Nat) : Bool × Nat :=
  let z := fld pfn 18 10
  let i := fld pfn 9 0
  if bank then (true, (i <<< 25) ||| (z <<< 16)) else (false, (z <<< 26) ||| (i <<< 16))

/-- The frame of a bank-local address under its zone's mode (R92, R309). -/
def frameOf (bankMode : Bool) (b : Nat) : Nat :=
  if bankMode then (zoneOf b <<< 10) ||| fld b 34 25 else bankToLin b >>> 16

/-- Whether a zone is in bank mode (R92). -/
def State.zoneBank (s : State) (z : Nat) : Bool := (s.f carveP (GlbCarve.ZONE_VIEW.at (z / 32))).testBit (z % 32)

/-- The frame table entry of a PFN: (object, in use). -/
def State.frameEntry (s : State) (pfn : Nat) : Nat × Bool :=
  let v := s.peekN (poolAddr + 4 * pfn) 4
  (v % 2 ^ 16, v.testBit 16)

def State.setFrame (s : State) (pfn obj : Nat) (used : Bool) : State :=
  s.poke false (poolAddr + 4 * pfn) (leBytes 4 ((if used then obj else 0) ||| (b2n used <<< 16)))

/-- An object table entry (R310). -/
structure Obj where
  ctxs : Nat
  va : Nat
  count : Nat
  bank : Bool
  owner : Nat
  key : Nat
  cookie : Nat
  deriving DecidableEq, Repr

def State.obj (s : State) (o : Nat) : Obj :=
  let v := s.peekN (objAddr o) 32
  { ctxs := v % 2 ^ 64, va := fld v 103 64, count := fld v 123 104, bank := v.testBit 124, owner := fld v 130 125,
    key := fld v 191 160, cookie := fld v 255 192 }

def State.setObj (s : State) (o : Nat) (x : Obj) : State :=
  s.poke false (objAddr o) (leBytes 32 (x.ctxs % 2 ^ 64 ||| ((x.va % 2 ^ 40) <<< 64) ||| ((x.count % 2 ^ 20) <<< 104) |||
    (b2n x.bank <<< 124) ||| ((x.owner % 64) <<< 125) ||| ((x.key % 2 ^ 32) <<< 160) ||| ((x.cookie % 2 ^ 64) <<< 192)))

/-- The whole reference count entry of an object (R318). It is 0 exactly where the object does not exist (R311, R319). -/
def State.refs (s : State) (o : Nat) : Nat := s.peekN (refAddr o) 8

def State.objExists (s : State) (o : Nat) : Bool := s.refs o ≠ 0

def refPort (v p : Nat) : Nat := fld v (12 * p + 11) (12 * p)
def refDev (v : Nat) : Nat := fld v 63 48

def State.setRefs (s : State) (o v : Nat) : State := s.poke false (refAddr o) (leBytes 8 v)

/-- Replace one port's field of a count entry. -/
def withRefPort (v p x : Nat) : Nat := v - (refPort v p <<< (12 * p)) + ((x % 4096) <<< (12 * p))

def withRefDev (v x : Nat) : Nat := v % 2 ^ 48 + ((x % 65536) <<< 48)

/-- Whether a context maps an object (R315). -/
def State.maps (s : State) (c o : Nat) : Bool := s.objExists o && (s.obj o).ctxs.testBit c

/-- Whether a frame belongs to a context (R315). -/
def State.frameIn (s : State) (c pfn : Nat) : Bool :=
  let (o, used) := s.frameEntry pfn
  used && (s.obj o).ctxs.testBit c

/-! ## Translation (R310, R314) -/

structure Pte where
  bank : Bool
  pfn : Nat
  obj : Nat
  deriving DecidableEq, Repr

/-- The second-level entry of a device virtual address in a context, where it is valid. -/
def State.walk (s : State) (c va : Nat) : Option Pte :=
  if 2 ^ 40 ≤ va then none else
  match (s.cx c).l1 with
  | none => none
  | some p =>
    let e1 := s.peekN (tableAddr p (fld va 39 28)) 8
    if e1.testBit 0 then
      let e2 := s.peekN (tableAddr (fld e1 13 1) (fld va 27 16)) 8
      if e2.testBit 0 then some { bank := e2.testBit 1, pfn := fld e2 20 2, obj := fld e2 36 21 } else none
    else none

/-- The reads of a walk: the first-level entry, and the second-level entry where that one is valid (R105, R106, R310). -/
def State.noteWalk (s : State) (c va : Nat) : State :=
  if s.syn = [] ∨ 2 ^ 40 ≤ va then s else
  match (s.cx c).l1 with
  | none => s
  | some p =>
    let a1 := tableAddr p (fld va 39 28)
    let e1 := s.peekN a1 8
    let s := s.noteRead hibReader false a1 8
    if e1.testBit 0 then s.noteRead hibReader false (tableAddr (fld e1 13 1) (fld va 27 16)) 8 else s

/-- Where a device virtual address lies: the view of its frame and the address in that view. -/
def State.xlate (s : State) (c va : Nat) : Option (Bool × Nat) :=
  (s.walk c va).map fun e =>
    let (v, b) := frameBase e.bank e.pfn
    (v, b + va % 65536)

/-- The pieces of a span in the pages it touches: (virtual address, length). -/
def pageSpans (va n : Nat) : List (Nat × Nat) :=
  if n = 0 then [] else
  (List.range ((va + n - 1) / 65536 - va / 65536 + 1)).map fun i =>
    let lo := max va ((va / 65536 + i) * 65536)
    let hi := min (va + n) ((va / 65536 + i + 1) * 65536)
    (lo, hi - lo)

/-- The first address of a span that no valid entry maps. -/
def State.unmapped (s : State) (c va n : Nat) : Option Nat :=
  ((pageSpans va n).find? fun (a, _) => (s.walk c a).isNone).map (·.1)

/-- Read a span of device virtual addresses: the bytes with their marks, or the address that is not mapped. -/
def State.readVa (s : State) (rd : Reader) (c va n : Nat) : State × Except Nat (List Byte × List Bool) :=
  match s.unmapped c va n with
  | some a => (s.noteWalk c a, .error a)
  | none =>
    let (s, l, b) := (pageSpans va n).foldl (fun (s, l, b) (a, k) =>
      let s := s.noteWalk c a
      match s.xlate c a with
      | some (v, x) =>
        let (s, l', b') := s.readMem rd v x k
        (s, l ++ l', b ++ b')
      | none => (s, l, b)) (s, [], [])
    (s, .ok (l, b))

/-- Write a span of device virtual addresses, every page of which is mapped. -/
def State.writeVa (s : State) (c va : Nat) (l : List Byte) (poison : Bool := false) : State :=
  (pageSpans va l.length).foldl (fun s (a, k) =>
    let s := s.noteWalk c a
    match s.xlate c a with
    | some (v, x) => s.writeMem v x ((l.drop (a - va)).take k) false poison
    | none => s) s

/-- Write bytes of which each may be poisoned, at device virtual addresses every page of which is mapped (R361). -/
def State.writeVaMarked (s : State) (c va : Nat) (l : List (Byte × Bool)) : State :=
  (pageSpans va l.length).foldl (fun s (a, k) =>
    let s := s.noteWalk c a
    match s.xlate c a with
    | some (v, x) => s.writeMarked v x ((l.drop (a - va)).take k)
    | none => s) s

/-- Beat indices of a span of device virtual addresses. -/
def State.beatsVa (s : State) (c va n : Nat) : List Nat :=
  (pageSpans va n).flatMap fun (a, k) =>
    match s.xlate c a with
    | some (v, x) => (pieces v x k).flatMap fun (b, _, m) => (List.range ((b + m - 1) / 32 - b / 32 + 1)).map (b / 32 + ·)
    | none => []

end Sys2Proof.Machine
end

