-- ==== Sys2Proof/Machine/Operands.lean ====
section
/-! DEFINITION. Operand forms of a slice: tensor descriptors and tiles, the tile buffers with their valid and poison bits, the scalar
and vector registers, comparators, and the fields of a bundle (11_bundle_isa.md, 12_descriptors_tiling.md, R215 to R218). -/

namespace Sys2Proof.Machine

/-! ## Descriptors (R247 to R249) -/

/-- A tensor descriptor (R248). -/
structure Desc where
  base : Nat
  view : Nat
  fmt : Nat
  chk : Bool
  rtEn : Bool
  rtCtr : Nat
  rtDim : Nat
  idxEn : Bool
  idxHandle : Nat
  dim0 : Nat
  dim1 : Nat
  dim2 : Nat
  dim3 : Nat
  stride1 : Nat
  stride2 : Nat
  stride3 : Nat
  tile0 : Nat
  tile1 : Nat
  istep : Nat
  outerN : Nat
  pitch : Nat
  rangeLo : Nat
  rangeHi : Nat
  bkOff : Nat
  bkStack : Nat
  bkChan : Nat
  bkEn : Bool
  bkActOff : Nat
  bufCode : Nat
  resv14 : Nat
  bkMask : Nat
  kBank : Nat
  deriving DecidableEq, Repr

/-- The descriptor that 64 bytes spell (R248). -/
def Desc.ofBytes (l : List Byte) : Desc :=
  let w := fun i => leAt l (4 * i) 4
  { base := w 0 ||| (fld (w 1) 7 0 <<< 32), view := fld (w 1) 10 8, fmt := fld (w 1) 13 11, chk := bitOf (w 1) 14,
    rtEn := bitOf (w 1) 15, rtCtr := fld (w 1) 18 16, rtDim := fld (w 1) 20 19, idxEn := bitOf (w 1) 21,
    idxHandle := fld (w 1) 31 22, dim0 := w 2, dim1 := w 3, dim2 := fld (w 4) 15 0, dim3 := fld (w 4) 31 16,
    stride1 := w 5, stride2 := w 6, stride3 := w 7, tile0 := fld (w 8) 15 0, tile1 := fld (w 8) 31 16, istep := w 9,
    outerN := fld (w 10) 15 0, pitch := fld (w 10) 31 16, rangeLo := w 11, rangeHi := w 12, bkOff := fld (w 13) 24 0,
    bkStack := fld (w 13) 26 25, bkChan := fld (w 13) 30 27, bkEn := bitOf (w 13) 31, bkActOff := fld (w 14) 24 0,
    bufCode := fld (w 14) 27 25, resv14 := fld (w 14) 31 28, bkMask := fld (w 15) 15 0, kBank := fld (w 15) 31 16 }

/-- Descriptor `h` of context `c` (R247). -/
def State.desc (s : State) (c h : Nat) : Desc := Desc.ofBytes (s.peek false (descAddr c h) 64)

/-- A slice's read of a descriptor, counted as every read is (R105, R106; log 7). -/
def State.noteDesc (s : State) (rd : Reader) (c h : Nat) : State := s.noteRead rd false (descAddr c h) 64

/-- The format in the tile buffer (R248). -/
def Desc.bufFmt (d : Desc) : Nat := if d.bufCode = 7 then d.fmt else d.bufCode

/-- Bits of an element of a descriptor format (R249). -/
def dBits (fmt : Nat) : Nat := fmtBits (min fmt 5)

/-- Bytes that `n` elements of a descriptor format take. -/
def dLen (fmt n : Nat) : Nat := (n * dBits fmt + 7) / 8

/-- A conversion between descriptor formats (R210, R254): codes 5 INT32 and 6 FP32. -/
def dConvert (src dst b : Nat) : IRes := if src = dst then { v := b } else convert (min src 5) (min dst 5) (src = 6) (dst = 6) b

/-- Elements of dimension 0 that the memory part holds (R251). -/
def Desc.d0 (d : Desc) : Nat := if d.bkEn then d.dim0 - d.kBank else d.dim0

/-- The static values of the dimensions (R252). -/
def Desc.dims (d : Desc) : List Nat := [d.d0, d.dim1, d.dim2, d.dim3]

/-- Whether the tensor has no element (R251). -/
def Desc.isEmpty (d : Desc) : Bool := d.dims.any (· = 0)

/-- The effective lengths, with the counters read (R252). -/
def Desc.eff (d : Desc) (c : Nat → Nat) : List Nat :=
  (List.range 4).map fun i =>
    let v := d.dims.getD i 0
    if d.rtEn && d.rtDim = i then min v (c d.rtCtr) else v

/-- Bytes of one tile row in buffers 1 to 3 (R255). -/
def Desc.trow (d : Desc) : Nat := (dLen d.bufFmt d.tile0 + 63) / 64 * 64

/-- Tile bytes of one copy in a buffer (R255). -/
def Desc.copyBytes (d : Desc) (buf : Nat) : Nat :=
  if buf = 0 then (dLen d.bufFmt (8 * d.tile0) + 63) / 64 * 64 else d.tile1 * d.trow

/-- The tile bytes that `BINC` uses (R235, R256). -/
def Desc.tileBytes (d : Desc) (buf : Nat) : Nat :=
  (if 1 < d.outerN then (d.outerN - 1) * d.pitch * 64 else 0) + d.copyBytes buf

/-- The coordinates of a flat element index (R251). -/
def Desc.split (d : Desc) (an : Nat) : List Nat :=
  [an % d.d0, an / d.d0 % d.dim1, an / (d.d0 * d.dim1) % d.dim2, an / (d.d0 * d.dim1 * d.dim2)]

/-- Where element `i0` of the row (i1, i2, i3) lies: its byte and whether it is a high nibble (R202, R250). -/
def Desc.elemVa (d : Desc) (i0 i1 i2 i3 : Nat) : Nat × Bool :=
  let row := d.base + i1 * d.stride1 + i2 * d.stride2 + i3 * d.stride3
  if d.fmt = 0 then (row + i0 / 2, i0 % 2 = 1) else (row + i0 * (dBits d.fmt / 8), false)

/-- The highest byte of the tensor's span, relative to its base, plus 1 (R260). -/
def Desc.span (d : Desc) : Nat :=
  if d.isEmpty then 0
  else (d.dim1 - 1) * d.stride1 + (d.dim2 - 1) * d.stride2 + (d.dim3 - 1) * d.stride3 + dLen d.fmt d.d0

/-! ## Tile buffers (R233, R259) -/

/-- Sizes of the stationary, weight FIFO, vector and index buffers in bytes (slice constants of 04 and 02). -/
def bufSize (buf : Nat) : Nat :=
  match buf with
  | 0 => 0x80000
  | 2 => 0x100000
  | _ => 0x40000

def tbKey (buf off : Nat) : Nat := buf * 2 ^ 20 + off % bufSize buf

/-- The runs of a buffer range, modulo the buffer size (R235): (offset, position, length). -/
def tbRuns (buf off n : Nat) : List (Nat × Nat × Nat) :=
  let o := off % bufSize buf
  if o + n ≤ bufSize buf then [(o, 0, n)]
  else [(o, 0, bufSize buf - o), (0, bufSize buf - o, min (n - (bufSize buf - o)) (bufSize buf))]

/-- The granules of a run of one buffer. -/
def granules (key n : Nat) : List Nat := if n = 0 then [] else (List.range ((key + n - 1) / 32 - key / 32 + 1)).map (key / 32 + ·)

/-- A read of a tile buffer: the bytes with their marks, an invalid granule reading zero, and how many such granules it
touched (R259). -/
def Slice.tbRead (x : Slice) (buf off n : Nat) : List (Byte × Bool) × Nat :=
  (tbRuns buf off n).foldl (fun (l, u) (o, _, k) =>
    let key := tbKey buf o
    (l ++ (List.range k).map fun i =>
        if spGet false x.tbValid ((key + i) / 32) then (spGet 0 x.tb (key + i), spGet false x.tbPoison (key + i)) else (0, false),
     u + ((granules key k).filter fun g => !spGet false x.tbValid g).length)) ([], 0)

/-- Whether two ranges of buffers overlap at a granularity of `g` bytes (R238). -/
def rangesHit (g : Nat) (a b : Nat × Nat × Nat) : Bool :=
  a.1 = b.1 && (tbRuns a.1 a.2.1 a.2.2).any fun (o, _, n) => (tbRuns b.1 b.2.1 b.2.2).any fun (p, _, m) =>
    decide (0 < n) && decide (0 < m) && decide (o / g ≤ (p + m - 1) / g) && decide (p / g ≤ (o + n - 1) / g)

/-- A write of a tile buffer, which sets the valid bits of the granules it writes. A granule made valid by a write of part of it reads zero
elsewhere (R259). A write to the resident stationary operand ends its residence, and one to an operand that the shadow holds already keeps it
from becoming resident (R266). -/
def Slice.tbWrite (x : Slice) (buf off : Nat) (l : List (Byte × Bool)) : Slice :=
  let x := match x.resident with
    | some r => if rangesHit 1 (0, r.off, r.len) (buf, off, l.length) then { x with resident := none } else x
    | none => x
  let mark := fun (q : Product) =>
    if q.filled && rangesHit 1 (0, q.sOff, packedLen q.fmt (8 * q.kt)) (buf, off, l.length) then { q with touched := true } else q
  let x := { x with cur := x.cur.map mark, nxt := x.nxt.map mark }
  (tbRuns buf off l.length).foldl (fun x (o, p, k) =>
    let key := tbKey buf o
    let part := (l.drop p).take k
    let x := (granules key k).foldl (fun x g =>
      if spGet false x.tbValid g then x
      else { x with tb := spDrop x.tb (g * 32) (g * 32 + 32), tbPoison := spDrop x.tbPoison (g * 32) (g * 32 + 32),
                    tbValid := spPut false x.tbValid g true }) x
    { x with tb := spRun 0 x.tb key (part.map (·.1)), tbPoison := spRun false x.tbPoison key (part.map (·.2)) }) x

/-- Clear every valid bit (R69, R259). -/
def Slice.tbInvalidate (x : Slice) : Slice := { x with tb := [], tbValid := [], tbPoison := [] }

/-- The buffer ranges that an outstanding load or buffer store will write, as (buffer, offset, length). -/
def Xfer.ranges (d : Nat → Desc) (t : Xfer) : List (Nat × Nat × Nat) :=
  match t.op with
  | .ldt h _ buf off _ => if buf = 1 then [] else [(buf, off, (d h).tileBytes buf)]
  | .stv buf off l => [(buf, off, l.length)]
  | _ => []

/-! ## Registers (R215 to R218, R225) -/

def Slice.aReg (x : Slice) (r : Nat) : Nat := (spGet 0 x.a r).toNat
def Slice.cReg (x : Slice) (r : Nat) : Nat := (spGet 0 x.c r).toNat
def Slice.kReg (x : Slice) (r : Nat) : Nat := (spGet 0 x.k r).toNat
def Slice.setA (x : Slice) (r v : Nat) : Slice := { x with a := spPut 0 x.a r (BitVec.ofNat 40 v) }
def Slice.setC (x : Slice) (r v : Nat) : Slice := { x with c := spPut 0 x.c r (BitVec.ofNat 32 v) }
/-- K bits 63:38 are reserved and read 0 (R217). -/
def Slice.setK (x : Slice) (r v : Nat) : Slice := { x with k := spPut 0 x.k r (BitVec.ofNat 64 (v % 2 ^ 38)) }

/-- The predicate of comparator `r` (R217, R218). -/
def Slice.pred (x : Slice) (r : Nat) : Bool :=
  let k := x.kReg r
  let lim := k % 2 ^ 32
  let c := x.cReg (fld k 34 32)
  let sc := sgn 32 c
  let sl := sgn 32 lim
  match fld k 37 35 with
  | 0 => c = lim
  | 1 => c ≠ lim
  | 2 => sc < sl
  | 3 => sc ≤ sl
  | 4 => sc > sl
  | 5 => sc ≥ sl
  | 6 => c < lim
  | _ => c ≥ lim

/-- A scalar register by its 5-bit code (R225); `none` for the reserved codes. -/
def sreg (code : Nat) : Option SReg :=
  if code < 16 then some (.a code) else if code < 24 then some (.c (code - 16)) else if code < 28 then some (.k (code - 24)) else none

/-- The 32 bits that STS, STDEC and VSPLAT read from a scalar register (R225). -/
def Slice.sread32 (x : Slice) : SReg → Nat
  | .a r => x.aReg r % 2 ^ 32
  | .c r => x.cReg r
  | .k r => x.kReg r % 2 ^ 32

/-- What LDS does to its register (R225). -/
def Slice.swrite32 (x : Slice) (d : SReg) (v : Nat) : Slice :=
  match d with
  | .a r => x.setA r (v % 2 ^ 32)
  | .c r => x.setC r v
  | .k r => x.setK r (v % 2 ^ 32 + x.kReg r / 2 ^ 32 * 2 ^ 32)

/-- Lane `l` of vector register `r`, with its mark. -/
def Slice.lane (x : Slice) (r l : Nat) : Nat := (spGet 0 x.v (r * 64 + l)).toNat
def Slice.laneBad (x : Slice) (r l : Nat) : Bool := spGet false x.vPoison (r * 64 + l)
def Slice.lanes (x : Slice) (r : Nat) : List (Nat × Bool) := (List.range 64).map fun l => (x.lane r l, x.laneBad r l)

/-- Write lanes of a vector register: (lane, value, mark). -/
def Slice.setLanes (x : Slice) (r : Nat) (vals : List (Nat × W32 × Bool)) : Slice :=
  vals.foldl (fun x (l, v, p) =>
    { x with v := spPut 0 x.v (r * 64 + l) v, vPoison := spPut false x.vPoison (r * 64 + l) p }) x

/-- Or sticky flags into a slice: bit 0 DIVZ, 1 SAT, 2 ACC_SAT, 3 TB_UNINIT (R228). -/
def Slice.flag (x : Slice) (fl : Nat) : Slice := { x with flags := x.flags ||| BitVec.ofNat 4 fl }

def flUninit : Nat := 8

/-! ## Bundle fields (R219, R221, R226, R229, R230, R233, R241) -/

/-- The parts of a bundle as numbers (R219, R221). -/
structure Bundle where
  rept : Nat
  pk : Nat
  pen : Bool
  pneg : Bool
  sc : Nat
  ve : Nat
  mx : Nat
  ld : Nat
  st : Nat
  sy : Nat
  resv : Nat
  deriving DecidableEq, Repr

def Bundle.ofWord (b : BitVec 256) : Bundle :=
  let w := b.toNat
  { rept := fld w 7 0, pk := fld w 9 8, pen := bitOf w 10, pneg := bitOf w 11, resv := fld w 15 12, sc := fld w 55 16,
    ve := fld w 103 56, mx := fld w 143 104, ld := fld w 183 144, st := fld w 223 184, sy := fld w 255 224 }

def Bundle.scOp (b : Bundle) : Nat := fld b.sc 5 0
def Bundle.veOp (b : Bundle) : Nat := fld b.ve 7 0
def Bundle.mxOp (b : Bundle) : Nat := fld b.mx 3 0
def Bundle.ldOp (b : Bundle) : Nat := fld b.ld 3 0
def Bundle.stOp (b : Bundle) : Nat := fld b.st 3 0
def Bundle.syOp (b : Bundle) : Nat := fld b.sy 4 0

/-- The T layout of the load and store slots (R233). -/
structure TForm where
  handle : Nat
  an : Nat
  buf : Nat
  off : Nat
  ainc : Bool
  binc : Bool
  deriving DecidableEq, Repr

def tForm (v : Nat) : TForm :=
  { handle := fld v 13 4, an := fld v 17 14, buf := fld v 19 18, off := fld v 33 20 * 64, ainc := bitOf v 34, binc := bitOf v 35 }

/-- The V layout (R233). -/
structure VForm where
  vd : Nat
  fmt : Nat
  buf : Nat
  an : Nat
  off : Nat
  ainc : Bool
  deriving DecidableEq, Repr

def vForm (v : Nat) : VForm :=
  { vd := fld v 8 4, fmt := fld v 11 9, buf := fld v 13 12, an := fld v 17 14, off := fld v 32 18 * 32, ainc := bitOf v 33 }

/-- Bytes that LDV and STV move: 64 elements (R233). -/
def vBytes (fmt : Nat) : Nat := packedLen fmt 64

/-! ## Tiles (R251 to R258) -/

/-- What the issue cycle of a tile operation settles. -/
structure Plan where
  rows : List TRow := []
  empty : Bool := false
  skip : Bool := false
  oor : Nat := 0
  uninit : Nat := 0
  badIdx : Bool := false
  deriving DecidableEq, Repr

/-- The tile row that position `i1` of a copy stands for: without an index tensor the tensor row itself; with one, its value, read
signed (R258). Answers the tensor row where it is inside, whether the value was out of range, invalid granules, and poison. -/
def rowOf (x : Slice) (d idx : Desc) (eff1 effIdx i1 : Nat) : Option Nat × Nat × Nat × Bool :=
  if !d.idxEn then (if i1 < eff1 then some i1 else none, 0, 0, false)
  else if effIdx ≤ i1 then (none, 0, 0, false)
  else
    let w := dBits idx.fmt / 8
    let (l, u) := x.tbRead 3 (idx.base % 2 ^ 20 + i1 * w) w
    let v := sgn (8 * w) (leNat (l.map (·.1)))
    let bad := l.any (·.2)
    if 0 ≤ v ∧ v < eff1 then (some v.toNat, 0, u, bad) else (none, 1, u, bad)

/-- The plan of a tile operation at element offset `an` (R251, R253, R256, R258). -/
def tilePlan (x : Slice) (d idx : Desc) (an : Nat) : Plan :=
  let c := x.cReg
  let eff := d.eff c
  let e := fun i => eff.getD i 0
  let effIdx := (idx.eff c).getD 0 0
  if d.tile0 = 0 ∨ d.tile1 = 0 ∨ d.outerN = 0 ∨ d.isEmpty then { empty := true }
  else
    let o := d.split an
    let i0 := o.getD 0 0
    let i1 := o.getD 1 0
    let i2 := o.getD 2 0
    let i3 := o.getD 3 0
    let lim1 := if d.idxEn then effIdx else e 1
    if e 0 ≤ i0 ∨ lim1 ≤ i1 ∨ e 2 ≤ i2 ∨ e 3 ≤ i3 then { empty := true, skip := true }
    else
      (List.range d.outerN).foldl (fun p k =>
        if e 3 ≤ i3 + k then p
        else (List.range d.tile1).foldl (fun p r =>
          let (row, oor, u, bad) := rowOf x d idx (e 1) effIdx (i1 + r)
          let p := { p with oor := p.oor + oor, uninit := p.uninit + u, badIdx := p.badIdx || bad }
          match row with
          | none => { p with rows := p.rows ++ [{ copy := k, r := r, va := 0, nib := false, n := 0 }] }
          | some t =>
            let (va, nib) := d.elemVa i0 t i2 (i3 + k)
            { p with rows := p.rows ++ [{ copy := k, r := r, va := va, nib := nib, n := min d.tile0 (e 0 - i0) }] }) p) {}

/-- The device span of the inside elements of a row: (address, bytes). -/
def TRow.bytes (t : TRow) (fmt : Nat) : Nat := if t.n = 0 then 0 else dLen fmt (t.n + b2n t.nib)

/-- The raw elements of the bytes that a row covers. -/
def TRow.elems (t : TRow) (fmt : Nat) (l : List Byte) : List Nat :=
  ((unpack (min fmt 5) l).drop (b2n t.nib)).take t.n

/-- The mark of element `j` of packed bytes: that of any byte it lies in. -/
def elemBad (fmt : Nat) (bad : List Bool) (j : Nat) : Bool :=
  let b := dBits fmt
  if b = 4 then bad.getD (j / 2) false else ((bad.drop (j * (b / 8))).take (b / 8)).any id

/-- Pack elements with marks: bytes, each with the mark of the elements in it. -/
def packMarked (fmt : Nat) (xs : List (Nat × Bool)) : List (Byte × Bool) :=
  let bytes := pack (min fmt 5) (xs.map (·.1))
  (List.range bytes.length).map fun i =>
    (bytes.getD i 0,
     if dBits fmt = 4 then (xs.getD (2 * i) (0, false)).2 || (xs.getD (2 * i + 1) (0, false)).2
     else (xs.getD (i / (dBits fmt / 8)) (0, false)).2)

/-- The image of one copy in a buffer other than the FIFO: `rows` are the converted elements of each tile row (R253, R255). -/
def copyImage (d : Desc) (buf : Nat) (rows : List (List (Nat × Bool))) : List (Byte × Bool) :=
  let pad := fun (l : List (Byte × Bool)) (n : Nat) => l ++ List.replicate (n - l.length) ((0 : Byte), false)
  if buf = 0 then
    let el := (List.range d.tile0).flatMap fun k => (List.range 8).map fun r => (rows.getD r []).getD k (0, false)
    pad (packMarked d.bufFmt el) (d.copyBytes 0)
  else rows.flatMap fun l => pad (packMarked d.bufFmt l) d.trow

/-- The elements of one copy as they lie in a buffer: row `r`, element `k` (R255). -/
def bufElem (d : Desc) (buf : Nat) (l : List Byte) (r k : Nat) : Nat :=
  if buf = 0 then elemAt (min d.bufFmt 5) l (8 * k + r) else elemAt (min d.bufFmt 5) (l.drop (r * d.trow)) k

def bufElemBad (d : Desc) (buf : Nat) (l : List Bool) (r k : Nat) : Bool :=
  if buf = 0 then elemBad d.bufFmt l (8 * k + r) else elemBad d.bufFmt (l.drop (r * d.trow)) k

/-- Where copy `o` begins in the buffer (R256). -/
def Desc.copyOff (d : Desc) (off o : Nat) : Nat := off + o * d.pitch * 64

/-- The bytes that elements of a row write at device addresses; the edges of an INT4 row write one nibble, and the unused high
nibble after the last element of an odd row is written 0 (R253). -/
def rowWrites (d : Desc) (t : TRow) (last : Bool) (els : List (Nat × Bool)) : List WByte :=
  if d.fmt ≠ 0 then
    let b := packMarked d.fmt els
    (List.range b.length).map fun i => let e := b.getD i (0, false); { at_ := t.va + i, val := e.1, poison := e.2 }
  else
    let n := t.n + b2n t.nib
    (List.range ((n + 1) / 2)).map fun i =>
      let lo := 2 * i
      let first := t.nib && i = 0
      let el := fun (p : Nat) => els.getD (p - b2n t.nib) (0, false)
      let hiIn := lo + 1 < n
      let l := if first then (0, false) else el lo
      let h := if hiIn then el (lo + 1) else (0, false)
      { at_ := t.va + i, val := BitVec.ofNat 8 (l.1 % 16 + 16 * (h.1 % 16)), poison := l.2 || h.2,
        nib := if first then 2 else if hiIn || last then 0 else 1 }

/-- The bytes of a store with their bank-local addresses. -/
def State.placed (s : State) (c : Nat) (w : List WByte) : List (Nat × WByte) :=
  w.filterMap fun b => (s.xlate c b.at_).map fun (v, a) => (viewAddr v a, b)

/-- Adjacent bytes of one beat, together. -/
def beatGroups (l : List (Nat × WByte)) : List (List (Nat × WByte)) :=
  l.foldr (fun e g => match g with
    | (e' :: t) :: r => if e.1 / 32 = e'.1 / 32 then (e :: e' :: t) :: r else [e] :: (e' :: t) :: r
    | r => [e] :: r) []

/-- A byte over the one it replaces: a nibble keeps its neighbour (R253). -/
def WByte.over (b : WByte) (old : Byte) : Byte :=
  match b.nib with
  | 0 => b.val
  | 1 => BitVec.ofNat 8 (b.val.toNat % 16 + old.toNat / 16 * 16)
  | _ => BitVec.ofNat 8 (old.toNat % 16 + b.val.toNat / 16 * 16)

/-- One write of a beat: whole, or else a read-modify-write; poisoned bytes leave it uncorrectable (R107, R361). -/
def State.storeGroup (s : State) (l : List (Nat × WByte)) : State :=
  match l with
  | [] => s
  | (a, _) :: _ =>
    let full := (List.range 32).all fun i => l.any fun e => decide (e.1 % 32 = i) && decide (e.2.nib = 0)
    let poison := l.any fun e => e.2.poison
    let (s, r) := if full then (s, { bytes := zeros 32, bad := false }) else s.readBeat mcrRmw (a / 32 * 32)
    s.storeBeat (a / 32) (l.foldl (fun b e => mapAt b (e.1 % 32) e.2.over) r.bytes) (if poison || r.bad then 0x000F else 0)

/-- Store bytes with marks at device virtual addresses, each of which is mapped (R107, R253). -/
def State.storeBytes (s : State) (c : Nat) (w : List WByte) : State :=
  let s := ((w.map fun b => b.at_ / 65536).eraseDups).foldl (fun s p => s.noteWalk c (p * 65536)) s
  (beatGroups (s.placed c w)).foldl (fun s g => s.storeGroup g) s

/-- The first address of a store that no entry maps. -/
def State.storeMiss (s : State) (c : Nat) (w : List WByte) : Option Nat := (w.find? fun b => (s.walk c b.at_).isNone).map (·.at_)

/-! ## Range checks (R268, R363) -/

/-- Whether an element is flagged, as the detail bits 16 to 19 of R363. -/
def rangeBits (d : Desc) (b : Nat) : Nat :=
  if d.fmt = 3 ∨ d.fmt = 4 ∨ d.fmt = 6 then
    match fmtDec (min d.fmt 5) b with
    | .nan => 1
    | .inf s => 2 ||| (if s then (if (Fv.inf s).lt (d32 d.rangeLo) then 4 else 0) else if (d32 d.rangeHi).lt (Fv.inf s) then 8 else 0)
    | x => (if x.lt (d32 d.rangeLo) then 4 else 0) ||| (if (d32 d.rangeHi).lt x then 8 else 0)
  else
    let v := sgn (dBits d.fmt) b
    (if v < sgn 32 d.rangeLo then 4 else 0) ||| (if sgn 32 d.rangeHi < v then 8 else 0)

/-- The flags of one copy: (row, element, bits) of the flagged elements, in index order. -/
def rangeHits (d : Desc) (rows : List (TRow × List Nat)) : List (Nat × Nat) :=
  rows.flatMap fun (t, els) => ((List.range els.length).map fun k => (t.r * d.tile0 + k, rangeBits d (els.getD k 0))).filter (·.2 ≠ 0)

/-- The syndrome and detail of a RANGE record (R363). -/
def rangeRecord (slice : Nat) (handle : Nat) (hits : List (Nat × Nat)) : Record :=
  let first := (hits.headD (0, 0)).1
  { cls := 6, utype := 1, uidx := slice, syn := handle % 1024 ||| ((first % 2 ^ 32) <<< 10),
    detail := satN 16 hits.length ||| ((hits.foldl (fun a h => a ||| h.2) 0) <<< 16) }

end Sys2Proof.Machine
end

