-- ==== Sys2Proof/Machine/BankUnit.lean ====
section
/-! DEFINITION. Bank units: the router's checks and slots, starting and yielding, DOT, FILL, COPY and DIGEST, the chain, the cycle
limit and completion (R115 to R137, R435). -/

namespace Sys2Proof.Machine

/-! ## Bank units by number -/

/-- The index of a bank unit: stack × 256 + channel × 16 + bank (R378). -/
def buKey (stack chan bank : Nat) : Nat := stack * 256 + chan * 16 + bank

def buIdKey (u : BuId) : Nat := buKey u.stack.val u.chan.val u.bank.val

def State.bu (s : State) (k : Nat) : BuState := spGet {} s.buSt k
def State.setBu (s : State) (k : Nat) (b : BuState) : State := { s with buSt := spPut {} s.buSt k b }
def State.modBu (s : State) (k : Nat) (g : BuState → BuState) : State := s.setBu k (g (s.bu k))

def BuCmd.key (c : BuCmd) (p : BuPart) : Nat := buKey c.stack c.chan p.bank

def State.findBu (s : State) (id : Nat) : Option BuCmd := s.bus.find? fun c => c.id = id

/-- Replace a command in the router's order. -/
def State.putBu (s : State) (c : BuCmd) : State := { s with bus := s.bus.map fun d => if d.id = c.id then c else d }

def Issuer.isEngine : Issuer → Bool
  | .engine _ => true
  | _ => false

def Issuer.isHib : Issuer → Bool
  | .hib _ => true
  | _ => false

/-- Whether an unfinished command has a part in a bank unit. -/
def BuCmd.busyAt (c : BuCmd) (k : Nat) : Bool := c.st ≠ .done && c.parts.any fun p => c.key p = k && !p.fin

/-! ## Statuses (R121) -/

def buDone : Nat := 0x00
def buDoneZero : Nat := 0x01
def buCancelled : Nat := 0x02
def buEccUe : Nat := 0x10
def buChainPar : Nat := 0x11
def buBounds : Nat := 0x12
def buAlign : Nat := 0x13
def buBadEntry : Nat := 0x14
def buLimit : Nat := 0x15
def buBadField : Nat := 0x16
def buBadOp : Nat := 0x17

/-- The status of a command whose parts have ended: the fault of the lowest-numbered bank, else CANCELLED (R121). -/
def BuCmd.partStatus (c : BuCmd) : Nat × Option BuPart :=
  match c.parts.find? fun p => 0x10 ≤ p.fault with
  | some p => (p.fault, some p)
  | none => if c.parts.any fun p => p.fault = buCancelled then (buCancelled, none) else (buDone, none)

/-! ## The checks of R435 -/

/-- Chunk width Kc in bytes. -/
def BuCmd.kc (c : BuCmd) : Nat := c.kcBeats * 32

/-- Whether a command has no work (R122). -/
def BuCmd.zeroWork (c : BuCmd) : Bool :=
  if c.op = 1 then c.count = 0 || c.kcBeats = 0 || c.batch = 0 else (c.op = 2 || c.op = 3 || c.op = 4) && c.count = 0

/-- Whether a command writes a digest, and the bank offset where b_0 writes it (R122, R136). -/
def BuCmd.digestAt (c : BuCmd) : Option Nat :=
  if c.op = 4 then some c.dstOff
  else if c.op = 1 && c.digestEn then
    some (if c.destBank then c.dstOff + 8 * cdiv (4 * c.count * c.batch) 8 else c.dstOff)
  else none

/-- The byte ranges that a command reads or writes at fixed offsets in a bank: `first` marks b_0 (R118). -/
def BuCmd.ranges (c : BuCmd) (first : Bool) : List (Nat × Nat) :=
  let dig := match c.digestAt with
    | some a => if first then [(a, 8)] else []
    | none => []
  if c.zeroWork then dig
  else match c.op with
    | 1 => [(c.word3 % 2 ^ 25, c.batch * c.kc), (c.srcOff, c.count * c.kc)] ++
        (if c.destBank && first then [(c.dstOff, 4 * c.count * c.batch)] else []) ++ dig
    | 2 => [(c.dstOff, c.count * 32)]
    | 3 => [(c.srcOff, c.count * 32), (c.dstOff, c.count * 32)]
    | 4 => (c.srcOff, c.count * 32) :: dig
    | _ => []

/-- Whether bytes of a bank lie in bank-mode frames of a context (R118). -/
def State.inFrames (s : State) (ctx stack chan bank off n : Nat) : Bool :=
  n = 0 || (decide (off + n ≤ 2 ^ 25) &&
    (List.range ((off + n - 1) / 65536 - off / 65536 + 1)).all fun i =>
      let z := off / 65536 + i
      s.zoneBank z && s.frameIn ctx (frameOf true (bankAddr stack chan bank (z * 65536))))

/-- The operations that a path may issue (R120, R231). -/
def BuCmd.opAllowed (c : BuCmd) : Bool :=
  match c.issuer with
  | .engine _ => decide (c.op ≤ 5)
  | .host _ => c.op = 0 || c.op = 2 || c.op = 3 || c.op = 4
  | .hib _ => c.op = 2

/-- Whether the offsets keep the alignment of R119. -/
def BuCmd.aligned (c : BuCmd) : Bool :=
  match c.op with
  | 1 => c.srcOff % 32 = 0 && c.word3 % 2 ^ 25 % 32 = 0 &&
      (if c.digestEn then c.dstOff % 8 = 0 else if c.destBank then c.dstOff % 4 = 0 else true)
  | 2 => c.dstOff % 32 = 0
  | 3 => c.srcOff % 32 = 0 && c.dstOff % 32 = 0
  | 4 => c.srcOff % 32 = 0 && c.dstOff % 8 = 0
  | _ => true

/-- The micro-program that a RUN names, admitted for its context in one of the bank units named (R121, R125). -/
def State.uprogAt (s : State) (c : BuCmd) (bank : Nat) : Option Uprog :=
  s.plv.uprogs.find? fun u => u.ctx = c.ctx && u.base = c.entry && u.stackMask.testBit c.stack && u.chans.testBit c.chan && u.banks.testBit bank

/-- Whether the bytes that a part of a command touches at fixed offsets lie in the context's frames; what the HIB fills is not checked (R118). -/
def State.partInside (s : State) (c : BuCmd) (p : BuPart) : Bool :=
  c.issuer.isHib ||
  (c.ranges (some p.bank = c.parts.head?.map (·.bank))).all fun (o, n) => s.inFrames c.ctx c.stack c.chan p.bank o n

/-- The first check that a command other than NOP fails (R435), or the status of one that ends at once; `none`: it runs. -/
def State.buCheck (s : State) (c : BuCmd) : Option Nat :=
  if !c.opAllowed || 9 ≤ c.batch || 65 ≤ c.kcBeats || 4096 < c.batch * c.kc || 6 ≤ c.fmt || (c.op = 1 && c.fmt = 5) then
    some buBadField
  else if c.op = 5 && c.parts.any (fun p => (s.uprogAt c p.bank).isNone) then some buBadEntry
  else if !c.aligned then some buAlign
  else if !c.parts.all (s.partInside c) then some buBounds
  else if c.zeroWork then some buDoneZero
  else none

/-- A command that fails a check, each part with the fault where that part fails it (R121). -/
def State.buRefused (s : State) (c : BuCmd) (st : Nat) : BuCmd :=
  let bad := fun (p : BuPart) =>
    if st = buBadEntry then (s.uprogAt c p.bank).isNone else if st = buBounds then !s.partInside c p else decide (0x10 ≤ st)
  { c with st := .done, status := st, parts := c.parts.map fun p => if bad p then { p with fault := st } else p }

/-! ## Slots (R115, R119) -/

/-- The slots of a bank unit that hold a command. -/
def State.slotsUsed (s : State) (k : Nat) : List Nat :=
  s.bus.flatMap fun c => (c.parts.filter fun p => c.key p = k && decide (p.slot < 16)).map (·.slot)

/-- The slot of each part: the lowest number free in every bank unit, else the lowest free in each; `none` where a bank unit has none. -/
def State.pickSlots (s : State) (c : BuCmd) : Option (List BuPart) :=
  let free := fun (p : BuPart) => (List.range 16).filter fun i => !(s.slotsUsed (c.key p)).contains i
  match (List.range 16).find? fun i => c.parts.all fun p => (free p).contains i with
  | some i => some (c.parts.map fun p => { p with slot := i })
  | none => if c.parts.all fun p => free p ≠ [] then some (c.parts.map fun p => { p with slot := (free p).headD 0 }) else none

/-- Write 8 digest bytes into b_0 (R136). -/
def State.buWrite (s : State) (c : BuCmd) (bank off : Nat) (l : List Byte) (poison : Bool) : State :=
  let a := bankAddr c.stack c.chan bank off
  (List.range ((a + l.length - 1) / 32 - a / 32 + 1)).foldl (fun s i =>
    let beat := a / 32 + i
    let lo := max a (beat * 32)
    let hi := min (a + l.length) (beat * 32 + 32)
    s.writeBeat beat (lo % 32) ((l.drop (lo - a)).take (hi - lo)) false poison { src := 5, ctx := c.ctx, slot := 6 }) s

def State.writeDigest (s : State) (c : BuCmd) (v : Nat) (poison : Bool) : State :=
  match c.digestAt, c.parts.head? with
  | some o, some p => s.buWrite c p.bank o (leBytes 8 v) poison
  | _, _ => s

/-- What happens to a command that the router takes: it stands in its slots, or it has ended at once. -/
inductive Issued where
  | stall
  | taken (s : State) (id : Nat)

/-- Mark the parts of running host and HIB commands in the bank units of an arriving engine command as yielding (R133). -/
def State.yieldTo (s : State) (c : BuCmd) : State :=
  { s with bus := s.bus.map fun d =>
      if d.issuer.isEngine || d.st = .done then d
      else { d with parts := d.parts.map fun p => if c.parts.any (fun q => c.key q = d.key p) then { p with yielded := true } else p } }

/-- Give a command its place in the router's order (R115, R119, R435). -/
def State.buIssue (s : State) (c : BuCmd) : Issued :=
  let id := s.buNext
  let c := { c with id := id, parts := c.parts.map fun p => { p with slot := 16, yielded := !c.issuer.isEngine } }
  if c.op = 0 && c.opAllowed then
    .taken { s with bus := s.bus ++ [{ c with parts := c.parts.map fun p => { p with fin := true } }], buNext := id + 1 } id
  else match s.buCheck c with
  | some st =>
    let s := if st = buDoneZero then s.writeDigest c 0 false else s
    .taken { s with bus := s.bus ++ [s.buRefused c st], buNext := id + 1 } id
  | none =>
    match s.pickSlots c with
    | none => .stall
    | some parts =>
      let c := { c with parts := parts }
      let s := if c.issuer.isEngine then s.yieldTo c else s
      .taken { s with bus := s.bus ++ [c], buNext := id + 1 } id

/-! ## Starting (R115, R116, R126, R133, R353) -/

/-- The commands that stand before one in the router's order. -/
def State.before (s : State) (id : Nat) : List BuCmd := s.bus.takeWhile fun c => c.id ≠ id

/-- Whether a bank unit runs a part of another command now. -/
def State.buRunning (s : State) (id k : Nat) : Bool :=
  s.bus.any fun c => c.id ≠ id && c.st = .running && c.parts.any fun p => c.key p = k && !p.fin && !p.yielded

/-- Whether a live stream program names a bank unit (R133). -/
def State.streamNames (s : State) (k : Nat) : Bool :=
  (List.range 64).any fun i => s.isStream i && s.ctxState i = stLive &&
    match (s.cx i).program with
    | some p => p.bus.contains k
    | none => false

/-- Whether a host or HIB part may start in a bank unit, or resume there: in a compute window the live stream programs keep one from starting
(R133). -/
def State.hostPartOk (s : State) (id k : Nat) (p : BuPart) : Bool :=
  !s.bus.any (fun c => c.issuer.isEngine && c.busyAt k && c.st ≠ .held) && !s.buRunning id k &&
  !((s.before id).any fun c => !c.issuer.isEngine && c.busyAt k) && (p.started || !(s.tkg.phase = .compute && s.streamNames k))

/-- The bank unit's registers as a command starts there (R116, R126, R353). -/
def BuState.start (b : BuState) (c : BuCmd) (pos : Nat) : BuState :=
  { b with cmd := some c.id, pc := c.entry, beat0 := zeros 32, beat1 := zeros 32, flags := 0, input := [], half := none, bad := [],
           row := if b.lastCtx = some c.ctx then b.row else none, lastCtx := some c.ctx,
           scr := if c.op ≠ 5 then [] else
             [(1, c.srcOff), (2, c.dstOff), (3, c.word3), (4, c.count), (5, pos), (6, c.parts.length)].foldl
               (fun t (r, v) => spPut 0 t r (BitVec.ofNat 32 v)) [] }

/-- Note the banks that a slice's accesses, or the bank-unit commands it issued, open (R352). -/
def State.noteBanks (s : State) (n : Nat) (keys : List Nat) : State :=
  s.modSlice n fun x => { x with opened := keys.foldl (fun t k => spPut false t k true) x.opened }

/-- Start the given parts of a command; the banks of one that a slice issued are noted for its next precharge (R352). -/
def State.startParts (s : State) (c : BuCmd) (ok : BuPart → Bool) : State :=
  let s := (List.range c.parts.length).foldl (fun s j =>
    match c.parts[j]? with
    | some p =>
      if ok p && !p.fin then
        if c.op ≠ 5 && (c.st = .queued || (s.bu (c.key p)).cmd ≠ some c.id) then s.modBu (c.key p) fun b => b.start c j else s
      else s
    | none => s) s
  let s := match c.issuer with
    | .engine n => s.noteBanks n (c.parts.map c.key)
    | _ => s
  s.putBu { c with st := .running, parts := c.parts.map fun p => if ok p then { p with yielded := false, started := true } else p }

/-- BU_COMMAND_START: an engine command starts when every bank unit it names is free for it in the router's order; a host or HIB command
starts or resumes in each bank unit separately (R115, R133). -/
def execBuCommandStart (id : Nat) (s : State) : Result :=
  actSome (s.findBu id) s fun c s =>
    if !s.clocked || c.op = 0 || c.st = .done || c.st = .held then s
    else if c.issuer.isEngine then
      if c.st = .queued && c.parts.all (fun p => !s.buRunning id (c.key p)) &&
          !(s.before id).any (fun d => d.issuer.isEngine && d.st ≠ .held && c.parts.any fun p => d.busyAt (c.key p)) then
        s.startParts c fun _ => true
      else s
    else
      let ok := fun p => s.hostPartOk id (c.key p) p
      if c.parts.any fun p => p.yielded && !p.fin && ok p then s.startParts c ok else s

/-- BU_NOP: a NOP that the router has taken completes `DONE` at once, whatever its other fields hold (R120). -/
def execBuNop (id : Nat) (s : State) : Result :=
  actSome (s.findBu id) s fun c s => if s.clocked && c.op = 0 && c.st = .queued then s.putBu { c with st := .done, status := buDone } else s

/-! ## Reading and writing beats (R117, R128, R137) -/

def buReader (c : BuCmd) : Reader :=
  { src := if c.op = 4 then 6 else 5, ctx := c.ctx, slot := if c.issuer.isEngine then 2 else 6, bundle := c.bundle, ahead := c.runahead }

/-- A BU's access opens the DRAM row of an offset: the added cycles of a read (R137). -/
def State.openRow (s : State) (k off : Nat) : State × Nat :=
  let b := s.bu k
  if b.row = some (off / 1024) then (s, 0) else (s.setBu k { b with row := some (off / 1024) }, 4)

/-- Read one beat of a part's bank: state, bytes, uncorrectable, extra cycles. -/
def State.buRead (s : State) (c : BuCmd) (bank off : Nat) : State × List Byte × Bool × Nat :=
  let (s, r) := s.readBeat (buReader c) (bankAddr c.stack c.chan bank off)
  let (s, cy) := s.openRow (buKey c.stack c.chan bank) off
  (s, r.bytes, r.bad, cy)

/-- Read `n` beats from an offset. -/
def State.buReads (s : State) (c : BuCmd) (bank off n : Nat) : State × List (List Byte × Bool) × Nat :=
  (List.range n).foldl (fun (s, l, cy) i =>
    let (s, b, bad, x) := s.buRead c bank (off + 32 * i)
    (s, l ++ [(b, bad)], cy + x)) (s, [], 0)

/-! ## DOT (R128, R129) -/

/-- The products of two beats, summed exactly, added to a partial: the new partial and the flags (R128). -/
def dotBeat (fmt : Nat) (acc : Nat) (w a : List Byte) : Nat × Nat :=
  let ws := unpack fmt w
  let as_ := unpack fmt a
  if fmtIsFloat fmt then
    let x := exactSum ((List.zip ws as_).map fun (p, q) => (fmtDec fmt p).mul (fmtDec fmt q))
    (e32 ((d32 acc).add x), 0)
  else
    let b := fmtBits fmt
    let x := (List.zip ws as_).foldl (fun t (p, q) => t + sgn b p * sgn b q) (0 : Int)
    let r := iSat 32 flAccSat (sgn 32 acc + x)
    (r.v, r.fl)

/-- The addition that the chain and the accumulators make: saturating INT32 or FP32 (R129, R161). -/
def chainAdd (fmt : Nat) (a b : Nat) : Nat × Nat :=
  if fmtIsFloat fmt then (fadd a b, 0) else let r := iSat 32 flAccSat (sgn 32 a + sgn 32 b); (r.v, r.fl)

/-- One row of a DOT on one bank unit: the partials of every batch vector (R128). -/
def dotRow (c : BuCmd) (acts : List Byte) (actsBad : List Bool) (row : List (List Byte × Bool)) : List Partial × Nat :=
  (List.range c.batch).foldl (fun (out, fl) i =>
    let r := (List.range c.kcBeats).foldl (fun (v, fl, bad) t =>
      let w := row.getD t ([], false)
      let (v, f) := dotBeat c.fmt v w.1 (bytesAt acts (i * c.kc + 32 * t) 32)
      (v, fl ||| f, bad || w.2 || actsBad.getD (i * c.kcBeats + t) false)) (0, 0, false)
    (out ++ [{ val := BitVec.ofNat 32 r.1, poison := r.2.2 }], fl ||| r.2.1)) ([], 0)

/-- Load the activation buffer of a part (R128, R137). -/
def State.dotLoad (s : State) (c : BuCmd) (p : BuPart) : State × BuPart :=
  let (s, l, cy) := s.buReads c p.bank (c.word3 % 2 ^ 25) (c.batch * c.kcBeats)
  (s, { p with acts := l.flatMap (·.1), actsBad := l.map (·.2), cyc := p.cyc + 4 + c.batch * c.kcBeats + cy,
               fault := if p.fault = 0 && l.any (·.2) then buEccUe else p.fault })

/-- Flits of partials, two in each, a last odd one alone (R129). -/
def mkFlits (cmd : Nat) : List Partial → List Flit
  | a :: b :: t => { cmd := cmd, vals := [a.val, b.val], poison := a.poison || b.poison } :: mkFlits cmd t
  | [a] => [{ cmd := cmd, vals := [a.val], poison := a.poison }]
  | [] => []

/-- How many partials a DOT forms in each bank unit. -/
def BuCmd.total (c : BuCmd) : Nat := c.count * c.batch

/-- The partials that may leave b_{n−1} as whole flits now: pairs, and the odd last one. -/
def sendable (c : BuCmd) (p : BuPart) : Nat :=
  if p.sent + p.own.length = c.total then p.own.length else p.own.length / 2 * 2

/-- Put results on the link of a bank unit, or write them in b_0 (R130). `n` results leave `p.own`. -/
def State.emitResults (s : State) (c : BuCmd) (p : BuPart) (out : List Flit) : State × BuPart :=
  let n := (out.map fun f => f.vals.length).foldl (· + ·) 0
  let first := some p.bank = c.parts.head?.map (·.bank)
  let s := if first && c.destBank then
      (out.flatMap fun f => f.vals.map fun v => (v, f.poison)).foldl (fun (s, i) (v, bad) =>
        (s.buWrite c p.bank (c.dstOff + 4 * i) (leBytes 4 v.toNat) bad, i + 1)) (s, p.sent) |>.1
    else s.modBu (c.key p) fun b => { b with link := b.link ++ out }
  (s, { p with sent := p.sent + n, fin := p.fin || (p.at_ = c.count && p.sent + n = c.total) })

/-- What b_{n−1} sends on without waiting (R129). -/
def State.sendHead (s : State) (c : BuCmd) (p : BuPart) : State × BuPart :=
  if c.runahead || some p.bank ≠ c.parts.getLast?.map (·.bank) then (s, p)
  else
    let k := sendable c p
    let (s, q) := s.emitResults c p (mkFlits c.id (p.own.take k))
    (s, { q with own := p.own.drop k })

/-- One row of one part. -/
def State.dotStep (s : State) (c : BuCmd) (p : BuPart) : State × BuPart :=
  if p.fin || p.yielded || c.count ≤ p.at_ || (c.limit ≠ 0 && c.limit ≤ p.cyc) then (s, p)
  else
    let (s, p) := if p.at_ = 0 then s.dotLoad c p else (s, p)
    let (s, row, cy) := s.buReads c p.bank (c.srcOff + p.at_ * c.kc) c.kcBeats
    let (ps, fl) := dotRow c p.acts p.actsBad row
    let p := { p with at_ := p.at_ + 1, own := p.own ++ ps, flags := p.flags ||| (if fl = 0 then 0 else 2),
                      cyc := p.cyc + c.batch * c.kcBeats * (if c.fmt = 2 then 2 else 1) + cy,
                      fault := if p.fault = 0 && row.any (·.2) then buEccUe else p.fault,
                      acc := if c.digestEn || c.runahead then p.acc ++ row.flatMap (·.1) else p.acc,
                      accBad := p.accBad || row.any (·.2) }
    s.sendHead c p

/-- Run a function over each part of a command. -/
def State.eachPart (s : State) (c : BuCmd) (g : State → BuPart → State × BuPart) : State × BuCmd :=
  let (s, ps) := c.parts.foldl (fun (s, out) p => let (s, q) := g s p; (s, out ++ [q])) (s, [])
  (s, { c with parts := ps })

/-- Whether every part of a command has read all its beats or rows. -/
def BuCmd.readAll (c : BuCmd) : Bool := c.parts.all fun p => decide (c.count ≤ p.at_)

/-- When every part of a DIGEST, or of a DOT that digests, has read its bytes, b_0 writes the digest; a part that stopped before keeps it unwritten
(R123, R136). -/
def State.digestWhenRead (s : State) (c : BuCmd) (was : BuCmd) : State :=
  if c.digestAt.isSome && !was.readAll && c.readAll then
    s.writeDigest c (mace (c.parts.flatMap (·.acc))) (c.parts.any (·.accBad))
  else s

/-- The beats that a DOT has read so far: the activation chunks first, then rows (R348). -/
def BuCmd.beatList (c : BuCmd) : List Nat :=
  c.parts.flatMap fun p =>
    let base := bankAddr c.stack c.chan p.bank 0 / 32
    (if p.at_ = 0 then [] else (List.range (c.batch * c.kcBeats)).map fun i => base + c.word3 % 2 ^ 25 / 32 + i) ++
    (List.range (p.at_ * c.kcBeats)).map fun i => base + c.srcOff / 32 + i

/-- Whether results with a tag may still be claimed: it is the context's current epoch or its successor (R346). -/
def State.epochLives (s : State) (c e : Nat) : Bool := e = (s.cx c).epoch || e = ((s.cx c).epoch + 1) % 256

/-- A run-ahead DOT after reading: one that met an uncorrectable beat is dropped; when it has read everything it is held, unless its epoch is
gone, or a beat that it read has been written since (R124, R346 to R349). -/
def State.holdRunahead (s : State) (c : BuCmd) : State :=
  let gone := { s with bus := s.bus.filter fun d => d.id ≠ c.id }
  if c.parts.any fun p => p.fault ≠ 0 then gone.bump (perfP c.slice) SlcPerf.RA_DROPPED
  else if !c.readAll then s.putBu c
  else if !s.epochLives c.ctx c.epoch then gone
  else if c.abandoned then gone.bump (perfP c.slice) SlcPerf.RA_DISCARDED
  else s.putBu { c with st := .held }

/-- Reads of a run-ahead are not recorded and not repaired (R349). -/
def State.quietRead (s : State) (t : State) (quiet : Bool) : State :=
  if quiet then { s with buSt := t.buSt } else t

/-- BU_DOT: `n` rows in every part that runs (R128). -/
def execBuDot (id n : Nat) (s : State) : Result :=
  actSome (s.findBu id) s fun c s =>
    if !s.clocked || c.op ≠ 1 || c.st ≠ .running then s
    else
      let (t, d) := (List.range n).foldl (fun (t, d) _ => t.eachPart d fun t p => t.dotStep d p) (s, c)
      if c.runahead then
        let beats := d.beatList
        ((s.quietRead t true).bump (perfP c.slice) SlcPerf.RA_BEATS (beats.length - c.beatList.length)).holdRunahead { d with reads := beats }
      else (t.putBu d).digestWhenRead d c

/-- The parts that may go on with a beat command: running, and short of the limit (R123). -/
def BuCmd.canStep (c : BuCmd) (p : BuPart) : Bool := !p.fin && !p.yielded && !(c.limit ≠ 0 && decide (c.limit ≤ p.cyc))

/-- BU_FILL: `n` beats of eight copies of word 3 (R120). -/
def execBuFill (id n : Nat) (s : State) : Result :=
  actSome (s.findBu id) s fun c s =>
    if !s.clocked || c.op ≠ 2 || c.st ≠ .running then s
    else
      let beat := (List.range 8).flatMap fun _ => leBytes 4 c.word3
      let (s, d) := (List.range n).foldl (fun (s, d) _ => s.eachPart d fun s p =>
        if !d.canStep p then (s, p) else
        let s := s.buWrite d p.bank (d.dstOff + 32 * p.at_) beat false
        (s, { p with at_ := p.at_ + 1, cyc := p.cyc + 1, fin := p.at_ + 1 = d.count })) (s, c)
      s.putBu d

/-- BU_COPY: `n` beats, each read and then written (R120). -/
def execBuCopy (id n : Nat) (s : State) : Result :=
  actSome (s.findBu id) s fun c s =>
    if !s.clocked || c.op ≠ 3 || c.st ≠ .running then s
    else
      let (s, d) := (List.range n).foldl (fun (s, d) _ => s.eachPart d fun s p =>
        if !d.canStep p then (s, p) else
        let (s, b, bad, cy) := s.buRead d p.bank (d.srcOff + 32 * p.at_)
        let s := s.buWrite d p.bank (d.dstOff + 32 * p.at_) b bad
        (s, { p with at_ := p.at_ + 1, cyc := p.cyc + 2 + cy, fin := p.at_ + 1 = d.count,
                     fault := if p.fault = 0 && bad then buEccUe else p.fault })) (s, c)
      s.putBu d

/-- BU_DIGEST: Mace reads `n` beats in each part; the digest is written when all are read (R120, R135, R136). -/
def execBuDigest (id n : Nat) (s : State) : Result :=
  actSome (s.findBu id) s fun c s =>
    if !s.clocked || c.op ≠ 4 || c.st ≠ .running then s
    else
      let (s, d) := (List.range n).foldl (fun (s, d) _ => s.eachPart d fun s p =>
        if !d.canStep p then (s, p) else
        let (s, b, bad, cy) := s.buRead d p.bank (d.srcOff + 32 * p.at_)
        (s, { p with at_ := p.at_ + 1, cyc := p.cyc + 1 + cy, fin := p.at_ + 1 = d.count, acc := p.acc ++ b, accBad := p.accBad || bad,
                     fault := if p.fault = 0 && bad then buEccUe else p.fault })) (s, c)
      (s.putBu d).digestWhenRead d c

/-- BU_RUN: a RUN that has started loads its scratch registers and begins at `ENTRY` in each bank unit (R120, R126). -/
def execBuRun (id : Nat) (s : State) : Result :=
  actSome (s.findBu id) s fun c s =>
    if s.clocked && c.op = 5 && c.st = .running then
      (List.range c.parts.length).foldl (fun s j =>
        match c.parts[j]? with
        | some p => if (s.bu (c.key p)).cmd = some id || p.fin then s else s.modBu (c.key p) fun b => b.start c j
        | none => s) s
    else s

/-! ## The chain (R128 to R130) -/

/-- The part of the running DOT in a bank unit. -/
def State.dotPart (s : State) (u : BuId) (id : Nat) : Option (BuCmd × BuPart) :=
  match s.findBu id with
  | some c => if c.stack = u.stack.val ∧ c.chan = u.chan.val ∧ c.op = 1 then
      (c.parts.find? fun p => p.bank = u.bank.val).map fun p => (c, p) else none
  | none => none

/-- Count and record a chain parity failure (R130, R360). -/
def State.chainParity (s : State) (u : BuId) (ctx : Nat) : State :=
  (s.bump (buP u.stack.val) StkBu.CHAIN_PAR_CNT).record
    { cls := 4, utype := 2, uidx := (buIdKey u), ctx := ctx, slot := 6 }

/-- The values of a flit joined with as many partials of the receiver (R129). -/
def joinFlit (c : BuCmd) (own : List Partial) (f : Flit) : Flit × Nat :=
  (List.range f.vals.length).foldl (fun (g, fl) i =>
    let o := own.getD i { val := 0, poison := false }
    let (v, x) := chainAdd c.fmt o.val.toNat (f.vals.getD i 0).toNat
    ({ g with vals := g.vals ++ [BitVec.ofNat 32 v], poison := g.poison || o.poison }, fl ||| x)) ({ f with vals := [] }, 0)

/-- CHAIN_FLIT: a bank unit receives the next flit from its upstream neighbour, checks its parity, and forwards it, adds to it, or
keeps it as input of its micro-program; a parity failure ends a micro-program, and the flit goes on poisoned (R126, R127, R129, R130). -/
def execChainFlit (u : BuId) (badParity : Bool) (s : State) : Result :=
  let up := (buIdKey u) + 1
  actSome (if u.bank.val = 15 then none else (s.bu up).link.head?) s fun f s =>
    if !s.clocked then s else
    let took := s.modBu up fun b => { b with link := b.link.drop 1 }
    let fresh := badParity && !f.poison
    let part := s.dotPart u f.cmd
    let ctx := match s.findBu f.cmd with | some c => c.ctx | none => 0xFF
    let took := if fresh then took.chainParity u ctx else took
    let f := if fresh then { f with poison := true } else f
    match part with
    | some (c, p) =>
      if p.own.length < f.vals.length then s
      else
        let (g, fl) := joinFlit c p.own f
        let (t, q) := took.emitResults c { p with own := p.own.drop f.vals.length, flags := p.flags ||| (if fl = 0 then 0 else 2) } [g]
        let q := if fresh && q.fault = 0 then { q with fault := buChainPar } else q
        t.putBu { c with parts := c.parts.map fun x => if x.bank = q.bank then q else x }
    | none =>
      match (s.bu (buIdKey u)).cmd.bind s.findBu with
      | some c =>
        if c.op = 5 && c.st = .running && c.id = f.cmd && c.parts.any (fun p => p.bank = u.bank.val && !p.fin) then
          if fresh then
            (took.modBu (buIdKey u) fun b => { b with link := b.link ++ [f] }).putBu
              { c with parts := c.parts.map fun x => if x.bank = u.bank.val then { x with fin := true, fault := buChainPar } else x }
          else took.modBu (buIdKey u) fun b => { b with input := b.input ++ f.vals.map fun v => { val := v, poison := f.poison } }
        else took.modBu (buIdKey u) fun b => { b with link := b.link ++ [f] }
      | none => took.modBu (buIdKey u) fun b => { b with link := b.link ++ [f] }

/-- CHAIN_RESULT_DELIVERY: the chain head gives the next flit of a DOT to the chain plane of its slice; a flit of any other command that reaches
the ring is dropped (R130, R176). -/
def execChainResultDelivery (id : Nat) (s : State) : Result :=
  actSome (s.findBu id) s fun c s =>
    let k := buKey c.stack c.chan 0
    match (s.bu k).link with
    | [] => s
    | f :: rest =>
      if !s.clocked || f.cmd ≠ id then s
      else
        let s := s.modBu k fun b => { b with link := rest }
        if c.op ≠ 1 || c.destBank then s
        else
          let res := (List.range f.vals.length).map fun i =>
            let n := c.delivered + i
            (c.zbank, ({ cmd := id, fmt := c.fmt, row := n / c.batch, col := n % c.batch, val := f.vals.getD i 0, poison := f.poison } : ChainRes))
          let s := if c.abandoned then s else s.modSlice c.slice fun x => { x with plane := x.plane ++ res }
          s.putBu { c with delivered := c.delivered + f.vals.length }

/-! ## Limits, cancelling and completion (R121, R123, R125) -/

/-- Whether a part stopped before its end, so that what it has not delivered is discarded (R123, R125). -/
def BuPart.stopped (p : BuPart) : Bool := p.fault = buLimit || p.fault = buCancelled

/-- Stop a part with a status, unless it has ended: what it has not sent is discarded (R123, R125). -/
def BuPart.stop (p : BuPart) (st : Nat) : BuPart :=
  if p.fin then p else { p with fin := true, own := [], fault := if p.fault = 0 then st else p.fault }

/-- The flits of commands on every link of a channel's chain are discarded (R123, R125). -/
def State.dropFlits (s : State) (c : BuCmd) : State :=
  ((List.range 16).map fun b => buKey c.stack c.chan b).foldl (fun s k =>
    if (s.bu k).link.any fun f => f.cmd = c.id then s.modBu k fun b => { b with link := b.link.filter fun f => f.cmd ≠ c.id } else s) s

/-- CYCLE_LIMIT: the parts of a command that have reached their limit stop with `LIMIT`; of a DOT every unfinished part, since the others
wait for them (R123). A run-ahead DOT that would fault is dropped (R349). -/
def execCycleLimit (id : Nat) (s : State) : Result :=
  actSome (s.findBu id) s fun c s =>
    let atLimit := fun (p : BuPart) => !p.fin && c.limit ≠ 0 && decide (c.limit ≤ p.cyc)
    if !s.clocked || c.st ≠ .running || !c.parts.any atLimit then s
    else if c.runahead then { s with bus := s.bus.filter fun d => d.id ≠ id }.bump (perfP c.slice) SlcPerf.RA_DROPPED
    else
      let s := if c.op = 1 then s.dropFlits c else s
      s.putBu { c with parts := c.parts.map fun p => if atLimit p || c.op = 1 then p.stop buLimit else p }

/-- Cancel a command: what has not ended stops at its boundary (R125). -/
def BuCmd.cancel (c : BuCmd) : BuCmd :=
  if c.st = .done then { c with abandoned := true }
  else { c with abandoned := true, st := .running, parts := c.parts.map fun p => p.stop buCancelled }

/-- Cancel every command of a context that a kind of issuer issued: what is not delivered is discarded (R63, R70, R125). Run-ahead commands go on, to
be discarded when they are done (R347). -/
def State.cancelBus (s : State) (ctx : Nat) (who : Issuer → Bool) : State :=
  let hit := fun (c : BuCmd) => c.ctx = ctx && who c.issuer && !c.runahead
  let s := (s.bus.filter fun c => hit c && c.st ≠ .done).foldl State.dropFlits s
  { s with bus := s.bus.map fun c => if hit c then c.cancel else c }

/-- Whether a command is ready to return its completion: its parts have ended, and a DOT's results have been delivered or discarded (R121, R123, R125,
R130). -/
def BuCmd.ready (c : BuCmd) : Bool :=
  match c.st with
  | .done => true
  | .running => c.parts.all (·.fin) && (c.op ≠ 1 || c.destBank || c.abandoned || c.parts.any BuPart.stopped || decide (c.total ≤ c.delivered))
  | _ => false

/-- The command's flags: those of its bank units (R127). -/
def BuCmd.stickyFlags (c : BuCmd) : Nat := c.parts.foldl (fun a p => a ||| p.flags) c.flags

/-- Free the bank units of a command and drop its flits (R123, R125). -/
def State.releaseBus (s : State) (c : BuCmd) : State :=
  let keys := (List.range 16).map fun b => buKey c.stack c.chan b
  let s := keys.foldl (fun s k =>
    let b := s.bu k
    let b' := { b with link := b.link.filter fun f => f.cmd ≠ c.id, cmd := if b.cmd = some c.id then none else b.cmd,
                       input := if b.cmd = some c.id then [] else b.input, half := if b.cmd = some c.id then none else b.half }
    if b' = b then s else s.setBu k b') s
  { s with bus := s.bus.filter fun d => d.id ≠ c.id }

/-- The counters, `BU_LAST_FAULT`, interrupt and fault record of a completion (R121). -/
def State.buCount (s : State) (c : BuCmd) (st : Nat) (p : Option BuPart) : State :=
  let pg := buP c.stack
  let s := s.bump pg StkBu.BU_CMD_CNT
  if st < 0x10 then s
  else
    let bank := match p with | some q => q.bank | none => (c.parts.head?.map (·.bank)).getD 0
    let s := s.bump pg StkBu.BU_FAULT_CNT
    let s := (((s.setF pg StkBu.LF_STATUS st).setF pg StkBu.LF_CHANNEL c.chan).setF pg StkBu.LF_BANK bank).setF pg StkBu.LF_CTX c.ctx
    (s.irq pg 2).record
      { cls := 5, utype := 2, uidx := buKey c.stack c.chan bank, ctx := c.ctx,
        slot := if c.issuer.isEngine then 2 else 6, bundle := c.bundle, addr := bankAddr c.stack c.chan bank 0, akind := 1,
        syn := st, detail := c.tag }

/-- The commands of a slice that its waits wait for: those not completed. DEDUCED: a run-ahead DOT has done its work when it is held, since nothing but a
claim in a later tick or segment completes it (R241, R346; log 22). -/
def State.sliceBus (s : State) (n : Nat) : List BuCmd :=
  s.bus.filter fun c => c.issuer = .engine n && !(c.runahead && c.st = .held) && !c.abandoned

end Sys2Proof.Machine
end

