-- ==== Sys2Proof/Machine/Save.lean ====
section
/-! DEFINITION. The save record of a host segment and the dump of a halted slice (R68, R290, R291). -/

namespace Sys2Proof.Machine

/-- The part of a save record before the vector registers: bundle address and segment, flags, slice, call stack, A, C and K (R68). -/
def Slice.saveHead (x : Slice) (n next seg : Nat) : List Byte :=
  leBytes 8 (next % 2 ^ 16 ||| ((seg % 2 ^ 32) <<< 16)) ++ leBytes 8 x.flags.toNat ++ leBytes 8 n ++ leBytes 8 x.calls.length ++
  ((List.range 8).flatMap fun i => leBytes 2 (x.calls.getD i 0)) ++ zeros 16 ++
  ((List.range 16).flatMap fun r => leBytes 8 (x.aReg r)) ++ ((List.range 8).flatMap fun r => leBytes 4 (x.cReg r)) ++
  (List.range 4).flatMap fun r => leBytes 8 (x.kReg r)

/-- The bytes of vector registers, each with the mark of its lane; lane 0 first. -/
def Slice.vecBytes (x : Slice) (lo n : Nat) : List (Byte × Bool) :=
  (List.range n).flatMap fun r => (x.lanes (lo + r)).flatMap fun (v, p) => (leBytes 4 v).map fun b => (b, p)

/-- The record of R68. -/
def Slice.saveRecord (x : Slice) (n next seg : Nat) : List (Byte × Bool) :=
  ((x.saveHead n next seg).map fun b => (b, false)) ++ x.vecBytes 0 16

/-- Registers from the bytes of a record, with the marks of the vector lanes (R68). -/
def Slice.loadRecord (x : Slice) (l : List Byte) (bad : List Bool) : Slice :=
  let lanes := fun (r : Nat) => (List.range 64).map fun i =>
    let o := 0x100 + r * 256 + i * 4
    (i, BitVec.ofNat 32 (leAt l o 4), ((bad.drop o).take 4).any id)
  let x := { x with pc := leAt l 0 2, seg := leAt l 2 4, flags := BitVec.ofNat 4 (leAt l 8 8),
                    calls := (List.range (leAt l 0x18 1 % 16)).map fun i => leAt l (0x20 + 2 * i) 2 }
  let x := (List.range 16).foldl (fun x r => x.setA r (leAt l (0x40 + 8 * r) 8)) x
  let x := (List.range 8).foldl (fun x r => x.setC r (leAt l (0xC0 + 4 * r) 4)) x
  let x := (List.range 4).foldl (fun x r => x.setK r (leAt l (0xE0 + 8 * r) 8)) x
  (List.range 16).foldl (fun x r => x.setLanes r (lanes r)) x

/-- Bytes that the weight FIFO holds, whole rows (R255, R291). -/
def Slice.fifoBytes (x : Slice) : Nat := (x.fifo.map fun r => r.room).foldl (· + ·) 0

/-- The 0x2200 bytes of a dump (R291). `count` is `HALT_COUNT`. -/
def Slice.dumpBytes (x : Slice) (n tick count epoch : Nat) (tokens : Nat → Nat) : List (Byte × Bool) :=
  let plain := fun (l : List Byte) => l.map fun b => (b, false)
  x.saveRecord n x.pc x.seg ++ x.vecBytes 16 16 ++
  plain (leBytes 8 (x.pc % 2 ^ 14 ||| ((tick % 2 ^ 32) <<< 16)) ++ leBytes 8 ((x.slotCyc + x.cyc) % 2 ^ 32 ||| ((count % 2 ^ 32) <<< 32)) ++
    ((List.range 16).flatMap fun i => leBytes 2 (tokens i)) ++ leBytes 8 (x.fifoBytes % 2 ^ 20) ++ leBytes 8 (epoch % 256) ++ zeros 0xC0)

end Sys2Proof.Machine
end

