-- ==== Sys2Proof/Machine/Stop.lean ====
section
/-! DEFINITION. How work stops: unit health and parity detections, abandoning a slice's operations, cancelling run-ahead, the exception
frame and program faults, and the cuts of stream programs and host segments (R63 to R70, R346, R347, R360, R372, R385 to R395). -/

namespace Sys2Proof.Machine

/-! ## Unit health (R360, R372) -/

def hlNormal : Nat := 0
def hlSuspect : Nat := 1
def hlQuar : Nat := 2

/-- A slice takes a health state: the mask registers follow, a change is recorded, and entry into QUARANTINED starts a
re-verification (R287, R372). -/
def State.setHealth (s : State) (n st : Nat) : State :=
  let old := s.f (slhP n) SlcHealth.HSTATE
  if old = st then s
  else
    let s := s.setF (slhP n) SlcHealth.HSTATE st
    let put := fun (s : State) (f : Fld) (on : Bool) =>
      let m := s.f hltP f
      s.setF hltP f (if on then m ||| 2 ^ n else m - (if m.testBit n then 2 ^ n else 0))
    let s := put (put s Health.SUSPECT (st = hlSuspect)) Health.QUAR (st = hlQuar)
    let s := s.record { cls := 0xB, utype := 1, uidx := n, detail := old ||| (st <<< 2) }
    if st = hlQuar then { s with plv := { s.plv with reverify := s.plv.reverify ++ [n] } } else s

/-- An error of a slice, confirmed or not (R372). -/
def State.healthError (s : State) (n : Nat) (confirmed : Bool) : State :=
  let st := s.f (slhP n) SlcHealth.HSTATE
  let last := s.f (slhP n) SlcHealth.LAST_CONF
  let window := s.f hltP Health.QUAR_WINDOW_S * 1000000000
  let near := confirmed && last ≠ 0 && decide (s.time ≤ last + window)
  let new := if st = hlNormal then hlSuspect else if st = hlSuspect && near then hlQuar else st
  let s := s.setF (slhP n) SlcHealth.LAST_ERR s.time
  let s := if confirmed then s.setF (slhP n) SlcHealth.LAST_CONF s.time else s
  s.setHealth n new

/-- A parity detection on a slice at a point of R360: counter, record and health effect. -/
def State.parityAt (s : State) (n point : Nat) (slot bundle : Nat := 7) : State :=
  let s := match point with
    | 1 => s.bump (slhP n) SlcHealth.PAR_MEM_IN
    | 2 => s.bump (portP n) SlcPort.MEM_PAR_CNT
    | 3 => s.bump (portP n) SlcPort.RES_PAR_CNT
    | 4 => s.bump (slhP n) SlcHealth.PAR_TB
    | 5 => s.bump (slhP n) SlcHealth.PAR_ACC
    | 6 => s.bump (perfP n) SlcPerf.ARR_POISON
    | _ => s.bump (slhP n) SlcHealth.PAR_REG
  let x := s.slice n
  let s := s.record { cls := 3, utype := 1, uidx := n, ctx := if x.run then x.ctx else 0xFF, slot := slot,
                      bundle := if slot = 7 then 0 else bundle, detail := point }
  s.healthError n (decide (4 ≤ point))

/-! ## Queue commands that end (R304) -/

/-- A queue command has ended with a status, result and detail; its completion waits to be reported. -/
def State.finishCmd (s : State) (id status : Nat) (result detail : Nat := 0) : State :=
  { s with cmds := s.cmds.map fun c =>
      match c.st with
      | .done _ _ _ => c
      | _ => if c.id = id then { c with st := .done status result detail } else c }

def stDone : Nat := 0
def stDoneZero : Nat := 1
def stRejected : Nat := 2
def stAborted : Nat := 3
def stHalted : Nat := 4
def stFaulted : Nat := 5
def stPlacement : Nat := 6
def stNotPermitted : Nat := 7
def stBadEntry : Nat := 8
def stCtxDead : Nat := 9
def stFabricBusy : Nat := 10

/-! ## Abandoning a slice's operations (R63, R175, R264, R366) -/

/-- Note the banks that a slice's accesses to device virtual addresses open (R352). -/
def State.openBanks (s : State) (n c va len : Nat) : State := s.noteBanks n ((s.beatsVa c va len).map fun b => (b * 32) >>> 25).eraseDups

/-- An STT or STS is applied: its bytes are written, and its range flags counted and recorded (R254, R268, R363). -/
def State.applyStore (s : State) (n c : Nat) (t : Xfer) (w : List WByte) (flags : List (Nat × Nat)) : State :=
  let s := s.storeBytes c w
  let s := w.foldl (fun s b => s.openBanks n c b.at_ 1) s
  flags.foldl (fun s (syn, det) =>
    (s.bump (perfP n) SlcPerf.RANGE_FLAGS).record { cls := 6, utype := 1, uidx := n, ctx := c, slot := 4, bundle := t.bundle, syn := syn, detail := det }) s

/-- Apply the outstanding stores of a slice, which have begun writing; a store that is not mapped writes nothing (R63). -/
def State.finishStores (s : State) (n : Nat) : State :=
  let x := s.slice n
  x.xfers.foldl (fun s t =>
    match t.op with
    | .store w flags => if (s.storeMiss x.ctx w).isNone then s.applyStore n x.ctx t w flags else s
    | .stv buf off l => s.modSlice n fun x => x.tbWrite buf off l
    | _ => s) s

def XferOp.isRahead : XferOp → Bool
  | .rahead .. => true
  | _ => false

/-- Everything a slice has in flight is dropped, and the weight FIFO empties; run-ahead reads complete, and their data is discarded (R63, R175, R264,
R347). -/
def Slice.abandon (x : Slice) : Slice :=
  { x with run := false, wait := none, resume := none, begun := false, halted := false, stalled := false, rep := 0, pend := [], xfers := [], fifo := [], cur := none, nxt := none,
           done := [], skid := [], pipe := [], front := none, fillLeft := 0, operands := [], plane := [], ext := [], capture := {}, resident := none, stale := x.stale ++ x.xfers.filter fun t => t.op.isRahead }

/-- A sample that has not been shipped by the end of the slot or tick is skipped (R366). -/
def State.dropStaging (s : State) (n : Nat) : State :=
  match (s.slice n).staging with
  | none => s
  | some _ => (s.modSlice n fun x => { x with staging := none }).bump aniP Anise.SKIPPED

/-- Stop a slice where it stands; an extension unit with requests outstanding receives `EXT_KILL` (R63, R151, R386). -/
def State.stopSlice (s : State) (n : Nat) : State :=
  let s := if (s.slice n).ext = [] then s else s.emit (.extKill n)
  ((s.finishStores n).modSlice n Slice.abandon).dropStaging n

/-! ## Run-ahead (R346 to R348) -/

/-- Discard the held tiles of a slice for which `gone` holds. -/
def State.discardTiles (s : State) (n : Nat) (gone : RaTile → Bool) : State :=
  let x := s.slice n
  let k := (x.ra.filter gone).length
  if k = 0 then s else (s.setSlice n { x with ra := x.ra.filter fun t => !gone t }).bump (perfP n) SlcPerf.RA_DISCARDED k

/-- Discard the held DOTs of a context for which `gone` holds. -/
def State.discardDots (s : State) (c : Nat) (gone : BuCmd → Bool) : State :=
  let hit := fun (b : BuCmd) => b.ctx = c && b.runahead && b.st = .held && gone b
  (s.bus.filter hit).foldl (fun s b => s.bump (perfP b.slice) SlcPerf.RA_DISCARDED) { s with bus := s.bus.filter fun b => !hit b }

/-- The run-ahead reads of a context that a slice has in flight: their data is to be discarded (R347). -/
def Slice.staleRaheads (x : Slice) (c : Nat) : Slice :=
  let mine := fun (t : Xfer) => match t.op with
    | .rahead d _ _ _ _ => decide (d = c)
    | _ => false
  { x with xfers := x.xfers.filter fun t => !mine t, stale := x.stale ++ x.xfers.filter mine }

/-- A cancellation of a context's run-ahead on slices (R346, R347). -/
def State.cancelRa (s : State) (c : Nat) (slices : List Nat) : State :=
  let s := slices.foldl (fun s n => (s.discardTiles n fun t => t.ctx = c).modSlice n fun x => x.staleRaheads c) s
  (s.discardDots c fun _ => true).modCx c fun x => { x with epoch := (x.epoch + 2) % 256 }

/-- A step of the epoch: results tagged with the old one are discarded (R346). -/
def State.stepEpoch (s : State) (c : Nat) (slices : List Nat) : State :=
  let e := ((s.cx c).epoch + 1) % 256
  let s := slices.foldl (fun s n => s.discardTiles n fun t => t.ctx = c && t.epoch ≠ e) s
  (s.discardDots c fun b => b.epoch ≠ e).modCx c fun x => { x with epoch := e }

/-! ## Programs and gangs -/

def State.gang (s : State) (c : Nat) : List Nat :=
  match (s.cx c).program with
  | some p => p.gang
  | none => []

/-- The slices of a context's gang that run it. -/
def State.running (s : State) (c : Nat) : List Nat :=
  (s.gang c).filter fun n => (s.slice n).run && (s.slice n).ctx = c

/-- A segment of a host program has ended, so the dispatcher offers free gangs (R67). -/
def State.offer (s : State) : State := { s with tkg := { s.tkg with offerAt := some s.time } }

/-- A context's program comes to rest on its gang: slices stop, engine commands are cancelled, `RUNNING` clears, and where a host segment ends so,
the dispatcher offers the gang (R67). -/
def State.stopGang (s : State) (c : Nat) : State :=
  let s := if s.isStream c || s.running c = [] then s else s.offer
  let s := ((s.running c).foldl (fun s n => s.stopSlice n) s).cancelBus c Issuer.isEngine
  (s.setF (ctxP c) Ctx.RUNNING 0).modCx c fun y => { y with halting := [] }

/-- A context's program is cut or faults: its gang stops, and its run-ahead is cancelled (R63, R70, R347, R386). -/
def State.stopProgram (s : State) (c : Nat) : State := (s.stopGang c).cancelRa c (s.gang c)

/-- Every member of a halted gang captures its state into its save staging (R290). -/
def State.captureDumps (s : State) (c : Nat) : State :=
  let y := s.cx c
  (s.running c).foldl (fun s n =>
    s.modSlice n fun x =>
      { x with dumps := x.dumps ++ y.halting.map fun h =>
          { chan := h, ctx := c, va := s.f plvP (Plv.HALT_DUMP.at h) * 256 + x.member * 0x2200, late := s.isStream c,
            bytes := x.dumpBytes n s.tickNum (s.f plvP (Plv.HALT_COUNT.at h)) y.epoch (fun t => spGet 0 y.tokens t) } }) s

/-- Whether a stream program is at work in the tick: started and not yet ended. -/
def State.streamBusy (s : State) (c : Nat) : Bool :=
  (s.cx c).started && !(s.cx c).tick.ended && (s.running c ≠ [])

/-- Whether the program of `c` took a fault at this very instant, so that a cut of the same cycle takes effect beside it (R387). -/
def State.faultedNow (s : State) (c : Nat) : Bool := decide ((s.cx c).tick.faultAt = some s.time) && decide (s.running c = [])

/-- Whether COMPUTE_END overruns stream context `c`: its program is at work, or faulted in this cycle (R63, R387). -/
def State.overruns (s : State) (c : Nat) : Bool := s.streamBusy c || (s.faultedNow c && !(s.cx c).tick.ovr)

/-- Whether a slot end cuts host context `c`: its segment runs, or faulted in this cycle (R70, R387). -/
def State.cuts (s : State) (c : Nat) : Bool := (decide (s.running c ≠ []) || s.faultedNow c) && !s.isStream c

/-- The marks and counts of an overrun (R64). -/
def State.overrun (s : State) (c : Nat) (shed : Bool) : State :=
  let s := s.modCx c fun x => { x with started := false, tick := { x.tick with ovr := true, shed := x.tick.shed || shed, payload := none } }
  let s := s.bump ovrP (TkgOvr.OVR_CNT.at c)
  let s := s.setF ovrP (TkgOvr.OVR_TICK.at c) s.tickNum
  let s := s.setF ovrP TkgOvr.OVR_SEEN (s.f ovrP TkgOvr.OVR_SEEN ||| 2 ^ c)
  s.irq ovrP 2

/-- The cut of a stream program (R63, R64): its payload is discarded and the overrun counted; `shed` marks a trip (R358). -/
def State.cutStream (s : State) (c : Nat) (shed : Bool := false) : State :=
  let s := (s.captureDumps c).stopProgram c
  s.overrun c shed

/-- A halted host program completes `HALTED`; the halt cancelled its run-ahead when it fired (R290, R347). -/
def State.haltHost (s : State) (c : Nat) : State :=
  let s := (s.captureDumps c).stopGang c
  match (s.cx c).host with
  | some h => (s.finishCmd h.cmd stHalted).modCx c fun y => { y with host := none }
  | none => s

/-- The cut of a host segment (R70): it will run again from its start. A program whose halt has fired completes `HALTED` instead (R290), and of one
that faulted in the same cycle the cut is only counted (R387). -/
def State.cutHost (s : State) (c : Nat) : State :=
  let halted := decide ((s.cx c).halting ≠ [])
  let s := if s.faultedNow c then s.modCx c fun x => { x with tick := { x.tick with faultAt := none } }
    else if halted then s.haltHost c else
    (s.stopProgram c).modCx c fun x => { x with host := x.host.map fun h => { h with active := false } }
  (s.bump ovrP TkgOvr.HOST_CUT_CNT).irq ovrP 4

/-! ## The exception frame (R388 to R392) -/

/-- What a fault says of itself (R385, R388). -/
structure FaultInfo where
  cause : Nat
  slot : Nat
  bundle : Nat := 0
  detail : Nat := 0
  addr : Nat := 0
  akind : Nat := 0
  async_ : Bool := false
  deriving DecidableEq, Repr

/-- The 256 bytes of a frame: `n` is the slice and gang member that faulted, `x` its registers (R388). -/
def State.frameBytes (s : State) (c : Nat) (f : FaultInfo) (n member : Nat) (x : Slice) (saveInvalid nested : Bool) (reason seq : Nat) : List Byte :=
  let seg := match (s.cx c).host with | some h => h.seg | none => 0
  leBytes 8 s.time ++ leBytes 8 s.tickNum ++ leBytes 1 f.cause ++ leBytes 1 f.slot ++ leBytes 2 (f.bundle % 2 ^ 14) ++
  leBytes 1 (n ||| (member <<< 4)) ++
  leBytes 1 (b2n saveInvalid ||| (b2n nested <<< 1) ||| (b2n f.async_ <<< 2) ||| (b2n (s.isStream c) <<< 3)) ++ leBytes 1 reason ++
  leBytes 1 x.calls.length ++ leBytes 8 (f.addr % 2 ^ 40) ++ leBytes 8 f.detail ++
  leBytes 8 (x.flags.toNat ||| ((seg % 2 ^ 32) <<< 16)) ++ leBytes 8 seq ++ zeros 8 ++
  ((List.range 16).flatMap fun r => leBytes 8 (x.aReg r)) ++ ((List.range 8).flatMap fun r => leBytes 4 (x.cReg r)) ++
  (List.range 4).flatMap fun r => leBytes 8 (x.kReg r)

/-- Whether a push of context `c` is in progress (R386, R392). -/
def State.pushing (s : State) (c : Nat) : Bool := decide (s.time < (s.cx c).pushEnd)

/-- Why a push writes nothing: 0 where it writes (R391, R392). -/
def State.pushReason (s : State) (c : Nat) : Nat :=
  let sp := s.f (ctxP c) Ctx.XSP
  if s.pushing c then 4
  else if 2 ^ 40 < sp + 256 ∨ (s.unmapped c sp 256).isSome then 1
  else if sp % 256 ≠ 0 then 2
  else if s.f (ctxP c) Ctx.XSIZE < 256 then 3
  else 0

/-- Latch the minimal frame, unless one stands there (R391, R392). -/
def State.latchShadow (s : State) (c : Nat) (frame : List Byte) (reason : Nat) : State :=
  let pg := ctxP c
  if s.on pg Ctx.SHADOW_VALID then s.bump pg Ctx.SHADOW_LOST
  else
    let s := (List.range 16).foldl (fun s i => s.setF pg (Ctx.FAULT_SHADOW.at i) (leAt frame (4 * i) 4)) s
    ((s.setB pg Ctx.SHADOW_VALID true).setB pg Ctx.SAVE_INVALID true).setF pg Ctx.SAVE_REASON reason

/-- The push of a frame goes on for up to 400 ns (R386, log 10). -/
def State.startPush (s : State) (c : Nat) : State :=
  let t := s.time + (Config.freePush s.anyBits).toNat % 401
  let s := { s with anyBits := s.anyBits + 1 }
  s.modCx c fun x => { x with pushEnd := t }

/-- Write a record, and the number that stands for it in an event or frame: the record's own, or a free value where no record is written, since
no rule numbers one that is lost or suppressed (R377, R393; log 10). -/
def State.recordNum (s : State) (r : Record) : State × Nat :=
  let t := s.record r
  if t.rel.seq = s.rel.seq then ({ t with anyBits := t.anyBits + 1 }, (Config.freeCount s.anyBits).toNat) else (t, s.rel.seq)

/-- Steps 4 to 8 of R386: push or latch the frame, record, FAULT event, completion, and the DEAD state. The instant at which a running program
faulted is kept for a cut of the same cycle (R387). -/
def State.reportFault (s : State) (c : Nat) (f : FaultInfo) (n member : Nat) (x : Slice) : State :=
  let pg := ctxP c
  let rec_ : Record := { cls := 0x10, utype := 1, uidx := n, ctx := c, slot := f.slot, bundle := f.bundle, addr := f.addr,
                         akind := f.akind, syn := f.cause, detail := f.detail }
  let seq := (s.recordNum rec_).2
  let why := s.pushReason c
  let sp := s.f pg Ctx.XSP
  let bad := why ≠ 0
  let frame := s.frameBytes c f n member x bad (why = 4) (if bad then why else 0) seq
  let s := if bad then s.latchShadow c frame why
    else (((s.writeVa c sp frame).setF pg Ctx.XSP (sp + 256)).setF pg Ctx.XSIZE (s.f pg Ctx.XSIZE - 256)).startPush c
  let s := (s.setF pg Ctx.LAST_CAUSE f.cause).bump pg Ctx.FAULTS
  let s := (s.recordNum rec_).1
  let s := if bad then s.record { cls := 0x11, utype := 1, uidx := n, ctx := c, slot := f.slot, bundle := f.bundle, syn := f.cause, detail := why } else s
  let s := s.post c { type := 4, status := stFaulted, result := 0x10, detail := seq % 65536,
                      cookie := (if bad then 0 else sp) ||| ((f.bundle % 2 ^ 14) <<< 40) ||| (f.cause <<< 56) }
  let s := match (s.cx c).host with
    | some h => (s.finishCmd h.cmd stFaulted f.cause).modCx c fun y => { y with host := none }
    | none => s
  let s := if x.run then s.modCx c fun y => { y with tick := { y.tick with faultAt := some s.time } } else s
  if s.isStream c then
    let s := if (s.cx c).tick.fault then s else s.setF pg Ctx.CONSEC (min 16 (s.f pg Ctx.CONSEC + 1))
    s.modCx c fun y => { y with started := false, tick := { y.tick with fault := true, payload := none } }
  else if bad && s.ctxState c = stLive then (s.setF pg Ctx.STATE stDead).postState c stDead
  else s

/-- A program fault of the gang member that runs on slice `n` (R386). -/
def State.programFault (s : State) (n : Nat) (f : FaultInfo) : State :=
  let x := s.slice n
  if !x.run then s
  else (s.stopProgram x.ctx).reportFault x.ctx f n x.member x

/-- A fault status that an abandoned operation returns raises a record and nothing else (R386). -/
def State.lateFault (s : State) (c n : Nat) (f : FaultInfo) : State :=
  s.record { cls := 0x10, utype := 1, uidx := n, ctx := c, slot := f.slot, bundle := f.bundle, addr := f.addr, akind := f.akind,
             syn := f.cause, detail := f.detail }

/-! ## Cause codes (R385) -/

def fcSeqIllegal : Nat := 1
def fcDescBounds : Nat := 2
def fcLoopBound : Nat := 3
def fcXlate : Nat := 4
def fcPoison : Nat := 5
def fcBuStatus : Nat := 6
def fcExtParity : Nat := 7
def fcExtProtocol : Nat := 8
def fcRefUnderflow : Nat := 9

/-! ## Flags (R127, R228) -/

/-- The slice's sticky flags from a bank unit's FLAGS (R228). -/
def sliceFlags (fl : Nat) : Nat := fl % 2 + (if bitOf fl 1 then flAccSat else 0) + (if bitOf fl 2 then flSat else 0)

end Sys2Proof.Machine
end

