-- ==== Sys2Proof/Machine/Array.lean ====
section
/-! DEFINITION. The matrix array: shape, shadow fills and swaps, weight rows, accumulator banks, chain merges and the completion of
products (R158 to R178, R264 to R267), and the selection of samples (R364 to R367). -/

namespace Sys2Proof.Machine

/-! ## Shape (R45, R141, R158) -/

def kphysOf (code : Nat) : Nat := 128 * 2 ^ code
def State.kphys (s : State) (n : Nat) : Nat := kphysOf (fld (s.portId n) 1 0)
def State.nphys (s : State) (n : Nat) : Nat := if bitOf (s.portId n) 2 then 8 else 4
def State.shape (s : State) (n : Nat) : Nat := fld (s.portId n) 2 0

/-- K_pass of a format (R158). -/
def kpass (kphys fmt : Nat) : Nat :=
  match fmt with
  | 0 => 2 * kphys
  | 2 => kphys / 4
  | 4 => kphys / 2
  | _ => kphys

/-- Products per MAC cell (R158). -/
def perCell (fmt : Nat) : Nat :=
  match fmt with
  | 0 => 8
  | 2 => 1
  | 4 => 2
  | _ => 4

/-- Weight bytes per row (R158). -/
def rowBytes (kphys fmt : Nat) : Nat := if fmt = 2 then kphys / 2 else kphys

def Product.passes (q : Product) (kphys : Nat) : Nat := cdiv q.kt (kpass kphys q.fmt)
def Product.groups (q : Product) (nphys : Nat) : Nat := cdiv q.n nphys

/-- Columns in use in a column group (R166, R168). -/
def Product.colsIn (q : Product) (nphys g : Nat) : Nat := min nphys (q.n - g * nphys)

/-- Reduction positions of a pass that lie inside K_t (R162, R167). -/
def Product.kIn (q : Product) (kphys p : Nat) : Nat := min (kpass kphys q.fmt) (q.kt - p * kpass kphys q.fmt)

/-- The pass after one, in the order of R166; `none` after the last. -/
def Product.after (q : Product) (kphys nphys : Nat) : Option (Nat × Nat) :=
  if q.pass + 1 < q.passes kphys then some (q.group, q.pass + 1)
  else if q.group + 1 < q.groups nphys then some (q.group + 1, 0)
  else none

/-- Whether a product is one pass of one group (R266). -/
def Product.single (q : Product) (kphys nphys : Nat) : Bool := q.passes kphys = 1 && q.groups nphys = 1

/-- Whether the stationary operand that a product names is the resident one (R266). -/
def Slice.isResident (x : Slice) (q : Product) (kphys nphys : Nat) : Bool :=
  match x.resident with
  | some r => q.single kphys nphys && r.handle = q.s && r.fmt = q.fmt && r.n = q.n
  | none => false

/-! ## Shadow fills (R162, R174, R259) -/

/-- The operand that a fill reads for a pass: per column the packed elements inside K_t, the rest zero, with poison and invalid granules. -/
def Slice.fillData (x : Slice) (q : Product) (kphys nphys g p : Nat) : Stationary × Nat :=
  let kp := kpass kphys q.fmt
  let kin := q.kIn kphys p
  let first := 8 * p * kp
  let lo := first * fmtBits q.fmt / 8
  let (l, u) := x.tbRead 0 (q.sOff + lo) (packedLen q.fmt (8 * kin))
  let bytes := l.map (·.1)
  let bad := l.map (·.2)
  let cols := (List.range nphys).map fun c =>
    let r := g * nphys + c
    if q.n ≤ r then zeros (packedLen q.fmt kp)
    else pack q.fmt ((List.range kp).map fun k => if k < kin then elemAt q.fmt bytes (8 * k + r) else 0)
  let poison := (List.range (q.colsIn nphys g)).any fun c => (List.range kin).any fun k => elemBad q.fmt bad (8 * k + g * nphys + c)
  ({ cols := cols, poison := poison }, u)

/-- Whether an outstanding write to the span of S was issued before a product (R267). -/
def State.spanPending (s : State) (n : Nat) (q : Product) : Bool :=
  let x := s.slice n
  x.xfers.any fun t => decide (t.id < q.issued) &&
    (t.ranges fun h => s.desc x.ctx h).any fun r => rangesHit 1 r (0, q.sOff, packedLen q.fmt (8 * q.kt))

/-- The operand of the pass entered last. -/
def Slice.latestOperand (x : Slice) : Stationary := (x.operands.getLast?.map (·.2)).getD x.active

/-- Make the queued product the running one when the array is free; a resident operand needs no fill and no swap (R232, R266). -/
def State.promote (s : State) (n : Nat) : State :=
  let x := s.slice n
  match x.cur, x.nxt with
  | none, some q =>
    if x.isResident q (s.kphys n) (s.nphys n) && !s.spanPending n q then
      (s.setSlice n { x with cur := some { q with swapped := true }, nxt := none, passNo := x.passNo + 1, waited := 0,
                             operands := x.operands ++ [(x.passNo + 1, x.latestOperand)] }).bump (perfP n) SlcPerf.RESIDENT_HITS
    else s.setSlice n { x with cur := some q, nxt := none }
  | _, _ => s

/-- Which fill comes next, once the previous swap has completed in every stage: the product (false: the running one, true: the queued one) with its
group and pass (R162). -/
def Slice.fillNext (x : Slice) (kphys nphys : Nat) : Option (Bool × Product × Nat × Nat) :=
  match x.cur with
  | none => none
  | some q =>
    if x.front.isSome then none
    else if !q.swapped then (if q.filled then none else some (false, q, q.group, q.pass))
    else if q.filled then none
    else match q.after kphys nphys with
      | some (g, p) => some (false, q, g, p)
      | none => match x.nxt with
        | some r => if r.filled || x.isResident r kphys nphys then none else some (true, r, 0, 0)
        | none => none

/-- The cycles of a fill: the bytes inside K_t of the columns in use, 512 a cycle (R162). -/
def Product.fillCycles (q : Product) (kphys nphys g p : Nat) : Nat := cdiv (packedLen q.fmt (q.kIn kphys p) * q.colsIn nphys g) 512

/-- SHADOW_FILL: the sequencer begins the fill of the shadow for the next pass, after the previous swap; it takes F cycles of the array (R162;
log 48). A parity failure poisons the operand (R174). -/
def execShadowFill (n : Fin 16) (badParity : Bool) (s : State) : Result :=
  let s := if s.clocked then s.promote n.val else s
  let x := s.slice n.val
  let kp := s.kphys n.val
  let np := s.nphys n.val
  actSome (x.fillNext kp np) s fun (isNxt, q, g, p) s =>
    if !s.clocked || !x.run || s.spanPending n.val q then s
    else
      let (d, u) := x.fillData q kp np g p
      let d := if badParity && !d.poison then { d with poison := true } else d
      let mark := { q with filled := true, touched := false }
      let x := { x with shadow := d, fillLeft := q.fillCycles kp np g p + 1, ripple := false }
      let x := if isNxt then { x with nxt := some mark } else { x with cur := some mark }
      let x := if u = 0 then x else x.flag flUninit
      let s := (s.setSlice n.val x).bump (perfP n.val) SlcPerf.TB_UNINIT_RD u
      if badParity && !(x.fillData q kp np g p).1.poison then s.parityAt n.val 6 2 q.bundle else s

/-! ## The stages (R159, R160) -/

/-- Stages of a column (R159). -/
def stages (kphys : Nat) : Nat := kphys / 32

/-- Whether a row in the pipeline, from place `lo` to place `hi`, satisfies `p`. Place 0 is the row being read, 1 the row being unpacked, 2 + s
stage s (R160). -/
def Slice.inPipe (x : Slice) (lo hi : Nat) (p : ArrRow → Bool) : Bool := ((x.pipe.take (hi + 1)).drop lo).any fun r => r.any p

/-- The stationary operand that stage `s` holds: the shadow behind the front of a ripple swap (R164). -/
def Slice.stageOperand (x : Slice) (s : Nat) : Stationary := if x.front.any fun k => decide (s < k) then x.shadow else x.active

/-- What stage `s` adds to the partial sum of a column: its 8 cells, in ascending order; `k` positions take part (R159, R161, R167). -/
def stageSum (fmt k s : Nat) (w st : List Byte) (p : W64) : W64 :=
  let pc := perCell fmt
  let n := pc * fmtBits fmt
  let we := unpack fmt (bytesAt w (s * n) n)
  let se := unpack fmt (bytesAt st (s * n) n)
  if fmtIsFloat fmt then
    let cell := fun (i : Nat) => exactSum ((List.range pc).map fun j =>
      let e := i * pc + j
      if s * 8 * pc + e < k then (fmtDec fmt (we.getD e 0)).mul (fmtDec fmt (se.getD e 0)) else .fin false 0 0)
    (List.range 8).foldl (fun (a : W64) i =>
      BitVec.ofNat 64 (e32 (if s = 0 ∧ i = 0 then cell 0 else (d32 (a.toNat % 2 ^ 32)).add (cell i)))) p
  else
    let b := fmtBits fmt
    BitVec.ofInt 64 ((List.range (8 * pc)).foldl (fun (a : Int) e =>
      if s * 8 * pc + e < k then a + sgn b (we.getD e 0) * sgn b (se.getD e 0) else a) p.toInt)

/-- The sum of one column for one row as it leaves the last stage (R161). -/
def colSum (fmt kphys k : Nat) (w st : List Byte) : W64 :=
  (List.range (stages kphys)).foldl (fun p s => stageSum fmt k s w st p) 0

/-- A row meets the operand of a stage (R160, R174). -/
def ArrRow.meet (r : ArrRow) (s : Nat) (d : Stationary) : ArrRow :=
  { r with sums := r.sums.zipIdx.map fun (p, c) => stageSum r.fmt r.k s r.w (d.cols.getD c []) p, poison := r.poison || d.poison }

/-! ## Swaps (R163 to R165) -/

/-- The pass that the swap into the shadow's operand enters: every row of the previous pass has been read, and the fill has begun. -/
def Slice.entry (x : Slice) (kphys nphys : Nat) : Option (Product × Nat × Nat) :=
  match x.cur with
  | none => none
  | some q =>
    if !q.filled || x.front.isSome then none
    else if !q.swapped then some (q, q.group, q.pass)
    else if q.row = q.m then (q.after kphys nphys).map fun (g, p) => (q, g, p)
    else none

/-- The slice as it enters a pass. -/
def Slice.enter (x : Slice) (kphys nphys : Nat) (q : Product) (g p : Nat) : Slice :=
  { x with lastFmt := some q.fmt, passNo := x.passNo + 1, operands := x.operands ++ [(x.passNo + 1, x.shadow)], waited := 0,
           resident := if q.single kphys nphys && !q.touched
             then some { handle := q.s, fmt := q.fmt, n := q.n, off := q.sOff, len := packedLen q.fmt (8 * q.kt) } else none,
           cur := some { q with swapped := true, filled := false, group := g, pass := p, row := 0 } }

/-- Whether a broadcast swap happens now: the fill has been complete for a cycle, no row is in the feeder or a stage, and the choice of R165 is not a
ripple swap (R163). -/
def Slice.mayBroadcast (x : Slice) : Bool := x.fillLeft = 0 && !x.ripple && !x.inPipe 0 x.pipe.length fun _ => true

/-- Whether the new pass follows by a ripple swap: it has the format of the previous pass, a row of which is still in the feeder or a stage as the fill
completes; known from one cycle before the one in which the new pass's first row is read (R164, R165). -/
def Slice.mayRipple (x : Slice) (kphys fmt : Nat) : Bool :=
  x.lastFmt = some fmt && (if x.fillLeft ≤ 1 then x.ripple
    else decide (x.fillLeft ≤ 3) && x.inPipe 0 (stages kphys + 2 - x.fillLeft) fun _ => true)

/-- BROADCAST_SWAP: with the fill complete and no valid row in any stage, every shadow becomes active (R163). -/
def execBroadcastSwap (n : Fin 16) (s : State) : Result :=
  let s := if s.clocked then s.promote n.val else s
  let kp := s.kphys n.val
  let np := s.nphys n.val
  actSome ((s.slice n.val).entry kp np) s fun (q, g, p) s =>
    let x := s.slice n.val
    if s.clocked && x.run && x.mayBroadcast then
      (s.setSlice n.val { x.enter kp np q g p with active := x.shadow, shadow := {} }).bump (perfP n.val) SlcPerf.BCAST
    else s

/-- RIPPLE_SWAP: the array enters the new pass behind the last row of the previous one; the stages' shadows then become active one stage a cycle, as
the array's cycles go on. The cycles since the last row was read were bubbles (R164, R165, R173). -/
def execRippleSwap (n : Fin 16) (s : State) : Result :=
  let s := if s.clocked then s.promote n.val else s
  let kp := s.kphys n.val
  let np := s.nphys n.val
  actSome ((s.slice n.val).entry kp np) s fun (q, g, p) s =>
    let x := s.slice n.val
    if s.clocked && x.run && x.mayRipple kp q.fmt then
      ((s.setSlice n.val { x.enter kp np q g p with front := some 0 }).bump (perfP n.val) SlcPerf.RIPPLE).bump (perfP n.val) SlcPerf.ARR_BUBBLES x.waited
    else s

/-! ## Accumulation (R161, R170, R171) -/

def zKey (z row col : Nat) : Nat := (z * 512 + row) * 8 + col

/-- Add one row of column sums into an accumulator bank (R161, R170): flags, and poison that stays with the entry (R174). -/
def Slice.accRow (x : Slice) (k : ArrRow) : Slice :=
  (List.range k.sums.length).foldl (fun x i =>
    let key := zKey k.z k.row (k.col0 + i)
    let old := if k.fresh then 0 else (spGet 0 x.z key).toNat
    let oldBad := !k.fresh && spGet false x.zPoison key
    let sum := k.sums.getD i 0
    let (v, fl) := if fmtIsFloat k.fmt then (fadd old (sum.toNat % 2 ^ 32), 0)
      else let r := iSat 32 flAccSat (sgn 32 old + sum.toInt); (r.v, r.fl)
    let x := { x with z := spPut 0 x.z key (BitVec.ofNat 32 v), zPoison := spPut false x.zPoison key (k.poison || oldBad) }
    if fl = 0 then x else x.flag fl) x

/-- The products that have not completed, oldest first. -/
def Slice.products (x : Slice) : List Product := x.done ++ x.cur.toList ++ x.nxt.toList

/-- Whether the array share of row `m` of a product has been added (R172). -/
def Slice.rowAdded (x : Slice) (q : Product) (kphys nphys m : Nat) : Bool :=
  let waits := fun (r : ArrRow) => decide (r.prod = q.issued) && decide (r.row = m)
  decide (q.m ≤ m) || (!x.skid.any waits && !x.pipe.any (fun r => r.any waits) &&
    (q.opened || (q.swapped && (q.after kphys nphys).isNone && decide (m < q.row))))

/-- Whether row `m` of a product is complete: its last pass added, and its chain results merged (R172). -/
def Slice.rowDone (x : Slice) (q : Product) (kphys nphys m : Nat) : Bool :=
  decide (q.m ≤ m) || (x.rowAdded q kphys nphys m && (!q.bank || decide ((m + 1) * q.n ≤ q.merged)))

/-- Whether a ZRD issued as operation `id` may read row `r` of a bank (R172, R184). -/
def Slice.zrdReady (x : Slice) (kphys nphys z r id : Nat) : Bool :=
  x.products.all fun q => q.z ≠ z || decide (id < q.issued) || x.rowDone q kphys nphys r

/-- Whether accumulator port `i` is taken in this cycle: row ports 0 to 3, merge ports 4 to 7 (R171, R176). -/
def Slice.portUsed (x : Slice) (i : Nat) : Bool := spGet 0 x.ports i = x.cyc + 1

def Slice.usePort (x : Slice) (i : Nat) : Slice := { x with ports := spPut 0 x.ports i (x.cyc + 1) }

/-- Whether a row may not be written: the vector slot has its bank's row port in this cycle, or a ZRD issued before its product has rows left to read
(R171, R267). -/
def Slice.portTaken (x : Slice) (k : ArrRow) : Bool :=
  x.portUsed k.z || x.pend.any fun p =>
    match p.dst with
    | .zrd _ z _ _ _ got => z = k.z && decide (got.length < 64) && decide (p.id < k.prod)
    | _ => false

/-- The oldest row of the skid queue is added, where its bank's row port is free (R160, R171). A pass is complete when its last row has been added. -/
def State.drainSkid (s : State) (n : Nat) : State :=
  let x := s.slice n
  match x.skid with
  | [] => s
  | k :: rest =>
    if x.portTaken k then s
    else
      let s := s.setSlice n (({ x with skid := rest }.accRow k).usePort k.z)
      if k.last then s.bump (perfP n) SlcPerf.ARR_PASSES else s

/-! ## Samples (R364 to R367) -/

/-- The selection register of a slice; it is never 0 once it has stepped (R365). -/
def State.selReg (s : State) (n : Nat) : Nat :=
  let x := (s.slice n).sel
  if x ≠ 0 then x
  else
    let v := s.f aniP Anise.SEED ^^^ (0x0111 * n)
    if v = 0 then 1 else v

/-- One step of the selection register (R365). -/
def selStep (v : Nat) : Nat :=
  let b := (v >>> 15) ^^^ (v >>> 13) ^^^ (v >>> 12) ^^^ (v >>> 10)
  ((v <<< 1) ||| (b % 2)) % 65536

/-- A candidate tile, unless the program's halt has fired: the register steps, and the tile is captured into the staging where it is sampled, or skipped (R364 to R366). -/
def State.candidate (s : State) (n : Nat) (t : Tile) : State :=
  if (s.cx (s.slice n).ctx).halting ≠ [] then s else
  let v := selStep (s.selReg n)
  let s := s.modSlice n fun x => { x with sel := v }
  let k := if s.f (slhP n) SlcHealth.HSTATE = hlNormal then s.f aniP Anise.SAMPLE_LOG2 else s.f aniP Anise.SUSPECT_LOG2
  if !s.on aniP Anise.EN || v % 2 ^ k ≠ 0 then s
  else if (s.slice n).staging.isSome || decide (4 ≤ s.rel.recs.length) then s.bump aniP Anise.SKIPPED
  else s.modSlice n fun x => { x with staging := some t }

/-- The record of an array tile whose last row is `r` (R367). -/
def State.arrayTile (s : State) (n : Nat) (r : ArrRow) (st : Stationary) (c : Capture) : Tile :=
  let kph := s.kphys n
  let els := st.cols.map fun l => unpack r.fmt l
  let stat := pack r.fmt ((List.range (kpass kph r.fmt)).flatMap fun k => (List.range 8).map fun i => (els.getD i []).getD k 0)
  { origin := n, ctx := (s.slice n).ctx, ttype := 1, shape := s.shape n, ext := false,
    bytes := leBytes 1 1 ++ leBytes 1 r.fmt ++ leBytes 1 (s.shape n) ++ leBytes 1 r.sums.length ++ leBytes 1 c.rows ++ zeros 3 ++ zeros 8 ++
      bytesAt stat 0 (8 * kph) ++ c.weights,
    result := c.result }

/-! ## The array's cycle (R160, R161, R164, R167, R171 to R174) -/

/-- A row leaves the last stage for the skid queue; every eighth row of a pass and its last one end an array tile (R160, R364, R366). -/
def State.leaveStages (s : State) (n : Nat) (r : ArrRow) : State :=
  let x := s.slice n
  let cap : Capture := { rows := x.capture.rows + 1, weights := x.capture.weights ++ bytesAt r.w 0 (s.kphys n),
                         result := x.capture.result ++ (List.range 8).flatMap (fun c => leBytes 8 (r.sums.getD c 0).toNat),
                         bad := x.capture.bad || r.poison }
  let st := ((x.operands.find? fun e => e.1 = r.pass).map (·.2)).getD {}
  let ends := decide (cap.rows = 8) || r.last
  let s := s.setSlice n { x with skid := x.skid ++ [r], capture := if ends then {} else cap,
                                 operands := if r.last then x.operands.filter (fun e => e.1 ≠ r.pass) else x.operands }
  if ends && !cap.bad then s.candidate n (s.arrayTile n r st cap) else s

/-- Every row moves on by one place, and each stage computes on the row that has reached it; the row in the last stage has left. A row counts as it
enters stage 0, and as poisoned where a poisoned operand marks it (R160, R174, R178). -/
def State.moveRows (s : State) (n : Nat) : State :=
  let x := s.slice n
  let last := stages (s.kphys n) + 1
  let s := match (x.pipe.getD last none) with
    | some r => s.leaveStages n r
    | none => s
  let met := (List.range last).map fun i =>
    (x.pipe.getD i none).map fun r => if i = 0 then (r, false) else
      let r' := r.meet (i - 1) (x.stageOperand (i - 1))
      (r', r'.poison && !r.poison)
  let s := s.modSlice n fun y => { y with pipe := none :: met.map fun e => e.map (·.1) }
  let s := if (x.pipe.getD 1 none).isSome then s.bump (perfP n) SlcPerf.ARR_ROWS else s
  s.bump (perfP n) SlcPerf.ARR_POISON (met.filter fun e => e.any (·.2)).length

/-- The row of the current pass that the feeder reads (R160, R166 to R168). -/
def Product.rowOf (q : Product) (kphys nphys passNo : Nat) (r : FifoRow) (bad : Bool) : ArrRow :=
  { prod := q.issued, pass := passNo, last := decide (q.row + 1 = q.m), z := q.z, row := q.row, col0 := q.group * nphys, fmt := q.fmt,
    fresh := q.clear && q.pass = 0, poison := bad || r.poison, k := min (q.kIn kphys q.pass) r.elems,
    w := bytesAt r.bytes 0 (rowBytes kphys q.fmt), sums := List.replicate (q.colsIn nphys q.group) 0 }

/-- The feeder reads the next row of the open pass, or inserts a bubble; with no pass open the cycle counts towards those of R173. -/
def State.feed (s : State) (n : Nat) (badParity : Bool) : State :=
  let x := s.slice n
  let kph := s.kphys n
  let nph := s.nphys n
  let wait := s.setSlice n { x with waited := x.waited + 1 }
  match x.cur with
  | none => wait
  | some q =>
    if !q.swapped || q.m ≤ q.row then wait
    else match x.fifo with
      | [] => s.bump (perfP n) SlcPerf.ARR_BUBBLES
      | r :: rest =>
        let fresh := badParity && !r.poison
        let s := if fresh then s.parityAt n 6 2 q.bundle else s
        let q' := { q with row := q.row + 1 }
        let s := s.modSlice n fun y => { y with cur := some q', fifo := rest, pipe := some (q.rowOf kph nph y.passNo r fresh) :: y.pipe.drop 1 }
        if q'.row = q.m && (q.after kph nph).isNone then
          (s.modSlice n fun y => { y with cur := none, done := y.done ++ [{ q' with opened := true }] }).promote n
        else s

/-- The end of a cycle for a ripple swap: stage 0 swaps when the last row of the previous pass occupies it, or has, and the fill is complete; then a
stage a cycle, until the shadow is active in every stage (R164). -/
def Slice.moveFront (x : Slice) (kphys : Nat) : Slice :=
  match x.front with
  | none => x
  | some k =>
    if k = 0 && (decide (1 < x.fillLeft) || x.inPipe 0 1 fun r => decide (r.pass < x.passNo)) then x
    else if k + 1 < stages kphys then { x with front := some (k + 1) }
    else { x with active := x.shadow, shadow := {}, front := none }

/-- A cycle of a fill; as it completes, the array chooses the swap (R165). -/
def Slice.fillCycle (x : Slice) : Slice :=
  if x.fillLeft = 0 then x
  else
    let fmt := match x.cur with
      | some q => if q.filled then some q.fmt else x.nxt.map (·.fmt)
      | none => none
    let left := x.cur.any fun q => q.swapped && decide (q.row < q.m)
    let x' := { x with fillLeft := x.fillLeft - 1 }
    if x.fillLeft = 2 then { x' with ripple := decide (x.lastFmt = fmt) && (left || x.inPipe 0 x.pipe.length fun _ => true) } else x'

/-- WEIGHT_ROW_READ: one cycle of the array in an engine cycle: a waiting result is added, every row moves on, the feeder reads a row or inserts a
bubble, and a ripple swap goes on; with the skid queue full the array holds (R160, R164, R171, R173; log 48). -/
def execWeightRowRead (n : Fin 16) (badParity : Bool) (s : State) : Result :=
  let x := s.slice n.val
  act (s.clocked && x.run && decide (x.arrAt ≠ x.cyc + 1)) s fun s =>
    let s := (s.promote n.val).modSlice n.val fun x => { x with arrAt := x.cyc + 1 }
    let full := decide (4 ≤ (s.slice n.val).skid.length)
    let s := s.drainSkid n.val
    if full then (s.modSlice n.val Slice.fillCycle).bump (perfP n.val) SlcPerf.ARR_HOLDS
    else (((s.moveRows n.val).feed n.val badParity).modSlice n.val Slice.fillCycle).modSlice n.val fun x => x.moveFront (s.kphys n.val)

/-! ## Chain merges and completion (R172, R176, R177) -/

/-- The first chain result of a bank that may merge now, in order of arrival (R176). -/
def Slice.mergeNext (x : Slice) (kphys nphys z : Nat) : Option (ChainRes × Option Product) :=
  (x.plane.find? fun (b, c) => b = z && match x.products.find? fun q => q.dot = some c.cmd with
    | some q => !q.bank || x.rowAdded q kphys nphys c.row
    | none => true).map fun (_, c) => (c, x.products.find? fun q => q.dot = some c.cmd)

/-- CHAIN_MERGE: the merge port adds one chain result to its accumulator entry, one in a cycle (R176). -/
def execChainMerge (n : Fin 16) (z : Fin 4) (badParity : Bool) (s : State) : Result :=
  let kph := s.kphys n.val
  let nph := s.nphys n.val
  actSome ((s.slice n.val).mergeNext kph nph z.val) s fun (c, _) s =>
    let x := s.slice n.val
    if !s.clocked || x.portUsed (4 + z.val) then s
    else
      let key := zKey z.val c.row c.col
      let oldBad := spGet false x.zPoison key
      let (v, fl) := chainAdd c.fmt (spGet 0 x.z key).toNat c.val.toNat
      let fresh := badParity && !(oldBad || c.poison)
      let bad := oldBad || c.poison || fresh
      let up := fun (p : Product) => if p.dot = some c.cmd then { p with merged := p.merged + 1 } else p
      let x := { x with plane := x.plane.eraseP fun e => e = (z.val, c),
                        z := spPut 0 x.z key (BitVec.ofNat 32 v), zPoison := spPut false x.zPoison key bad,
                        cur := x.cur.map up, nxt := x.nxt.map up, done := x.done.map up }
      let x := if fl = 0 then x else x.flag fl
      let s := (s.setSlice n.val (x.usePort (4 + z.val))).bump (perfP n.val) SlcPerf.ARR_MERGES
      if fresh then s.parityAt n.val 5 2 else s

/-- Whether a product has nothing left to add or merge (R177). -/
def Slice.productDone (x : Slice) (q : Product) : Bool :=
  q.opened && !(x.skid.any fun k => k.prod = q.issued) && !(x.pipe.any fun r => r.any fun k => k.prod = q.issued) && (!q.bank || decide (q.m * q.n ≤ q.merged))

/-- PRODUCT_COMPLETE: the oldest product completes when every unmasked entry has been added and merged (R172, R177). -/
def execProductComplete (n : Fin 16) (s : State) : Result :=
  let x := s.slice n.val
  actSome (x.done.find? fun q => x.productDone q) s fun q s =>
    if s.clocked then (s.modSlice n.val fun x => { x with done := x.done.filter fun p => p.issued ≠ q.issued }).promote n.val else s

end Sys2Proof.Machine
end

