-- ==== Sys2Proof/Machine/Sfu.lean ====
section
/-! DEFINITION. The special functions (R186 to R197): node values, coefficients, interpolation in both table versions, special
arguments and thresholds, and the composite operations on one lane. -/

namespace Sys2Proof.Machine

/-- RN32(2^(j / 128)), j = 0 to 128: the exp2 nodes v(0), v(½) and v(1) of every segment (R188). -/
def exp2Nodes : List Nat :=
  [
   0x3F800000, 0x3F80B1ED, 0x3F8164D2, 0x3F8218AF, 0x3F82CD87, 0x3F838359, 0x3F843A29, 0x3F84F1F6, 0x3F85AAC3,
   0x3F866491, 0x3F871F62, 0x3F87DB35, 0x3F88980F, 0x3F8955EE, 0x3F8A14D5, 0x3F8AD4C6, 0x3F8B95C2, 0x3F8C57CA,
   0x3F8D1ADF, 0x3F8DDF04, 0x3F8EA43A, 0x3F8F6A81, 0x3F9031DC, 0x3F90FA4D, 0x3F91C3D3, 0x3F928E72, 0x3F935A2B,
   0x3F9426FF, 0x3F94F4F0, 0x3F95C3FF, 0x3F96942D, 0x3F97657D, 0x3F9837F0, 0x3F990B88, 0x3F99E046, 0x3F9AB62B,
   0x3F9B8D3A, 0x3F9C6573, 0x3F9D3EDA, 0x3F9E196E, 0x3F9EF532, 0x3F9FD228, 0x3FA0B051] ++
  [
   0x3FA18FAF, 0x3FA27043, 0x3FA3520F, 0x3FA43516, 0x3FA51958, 0x3FA5FED7, 0x3FA6E595, 0x3FA7CD94, 0x3FA8B6D5,
   0x3FA9A15B, 0x3FAA8D26, 0x3FAB7A3A, 0x3FAC6897, 0x3FAD583F, 0x3FAE4934, 0x3FAF3B79, 0x3FB02F0E, 0x3FB123F6,
   0x3FB21A32, 0x3FB311C4, 0x3FB40AAF, 0x3FB504F3, 0x3FB60094, 0x3FB6FD92, 0x3FB7FBF0, 0x3FB8FBAF, 0x3FB9FCD2,
   0x3FBAFF5B, 0x3FBC034A, 0x3FBD08A4, 0x3FBE0F68, 0x3FBF179A, 0x3FC0213B, 0x3FC12C4D, 0x3FC238D2, 0x3FC346CD,
   0x3FC4563F, 0x3FC5672A, 0x3FC67991, 0x3FC78D75, 0x3FC8A2D8, 0x3FC9B9BE, 0x3FCAD226] ++
  [
   0x3FCBEC15, 0x3FCD078C, 0x3FCE248C, 0x3FCF4319, 0x3FD06334, 0x3FD184DF, 0x3FD2A81E, 0x3FD3CCF1, 0x3FD4F35B,
   0x3FD61B5E, 0x3FD744FD, 0x3FD87039, 0x3FD99D16, 0x3FDACB94, 0x3FDBFBB8, 0x3FDD2D82, 0x3FDE60F5, 0x3FDF9613,
   0x3FE0CCDF, 0x3FE2055B, 0x3FE33F89, 0x3FE47B6D, 0x3FE5B907, 0x3FE6F85B, 0x3FE8396A, 0x3FE97C38, 0x3FEAC0C7,
   0x3FEC0719, 0x3FED4F30, 0x3FEE9910, 0x3FEFE4BA, 0x3FF13231, 0x3FF28177, 0x3FF3D290, 0x3FF5257D, 0x3FF67A41,
   0x3FF7D0DF, 0x3FF9295A, 0x3FFA83B3, 0x3FFBDFED, 0x3FFD3E0C, 0x3FFE9E11, 0x40000000]

/-- RN32(log2(1 + j / 128)), j = 0 to 128: the log2 nodes of every segment (R188). -/
def log2Nodes : List Nat :=
  [
   0x00000000, 0x3C37F286, 0x3CB73CB4, 0x3D08E68F, 0x3D35D69C, 0x3D626FD6, 0x3D8759C5, 0x3D9D517F, 0x3DB31FB8,
   0x3DC8C50B, 0x3DDE4212, 0x3DF39761, 0x3E0462C4, 0x3E0EE68D, 0x3E19574F, 0x3E23B550, 0x3E2E00D2, 0x3E383A17,
   0x3E42615F, 0x3E4C76E8, 0x3E567AF1, 0x3E606DB6, 0x3E6A4F72, 0x3E74205F, 0x3E7DE0B6, 0x3E83C857, 0x3E88983F,
   0x3E8D602E, 0x3E92203D, 0x3E96D888, 0x3E9B8926, 0x3EA03232, 0x3EA4D3C2, 0x3EA96DF0, 0x3EAE00D2, 0x3EB28C7F,
   0x3EB7110E, 0x3EBB8E96, 0x3EC0052B, 0x3EC474E4, 0x3EC8DDD4, 0x3ECD4012, 0x3ED19BB0] ++
  [
   0x3ED5F0C4, 0x3EDA3F60, 0x3EDE8797, 0x3EE2C97D, 0x3EE70525, 0x3EEB3A9F, 0x3EEF69FF, 0x3EF39355, 0x3EF7B6B4,
   0x3EFBD42B, 0x3EFFEBCD, 0x3F01FED4, 0x3F0404E8, 0x3F060828, 0x3F08089E, 0x3F0A0650, 0x3F0C0146, 0x3F0DF989,
   0x3F0FEF1F, 0x3F11E20F, 0x3F13D260, 0x3F15C01A, 0x3F17AB44, 0x3F1993E3, 0x3F1B7A00, 0x3F1D5DA0, 0x3F1F3ECA,
   0x3F211D84, 0x3F22F9D5, 0x3F24D3C2, 0x3F26AB53, 0x3F28808C, 0x3F2A5374, 0x3F2C2411, 0x3F2DF268, 0x3F2FBE80,
   0x3F31885C, 0x3F335004, 0x3F35157D, 0x3F36D8CB, 0x3F3899F5, 0x3F3A58FF, 0x3F3C15EE] ++
  [
   0x3F3DD0C8, 0x3F3F8991, 0x3F41404F, 0x3F42F506, 0x3F44A7BA, 0x3F465872, 0x3F480731, 0x3F49B3FB, 0x3F4B5ED7,
   0x3F4D07C7, 0x3F4EAED0, 0x3F5053F7, 0x3F51F740, 0x3F5398AF, 0x3F553848, 0x3F56D60F, 0x3F587209, 0x3F5A0C3A,
   0x3F5BA4A4, 0x3F5D3B4E, 0x3F5ED039, 0x3F60636A, 0x3F61F4E5, 0x3F6384AD, 0x3F6512C7, 0x3F669F35, 0x3F6829FB,
   0x3F69B31E, 0x3F6B3A9F, 0x3F6CC083, 0x3F6E44CD, 0x3F6FC781, 0x3F7148A1, 0x3F72C832, 0x3F744636, 0x3F75C2B0,
   0x3F773DA4, 0x3F78B714, 0x3F7A2F04, 0x3F7BA578, 0x3F7D1A71, 0x3F7E8DF2, 0x3F800000]

/-- Coefficients c0, c1, c2 of segment `i` from its node values (R188). -/
def coeffs (nodes : List Nat) (quad : Bool) (i : Nat) : Fv × Fv × Fv :=
  let v0 := d32 (nodes.getD (2 * i) 0)
  let vh := d32 (nodes.getD (2 * i + 1) 0)
  let v1 := d32 (nodes.getD (2 * i + 2) 0)
  if quad then
    (v0, rn (((Fv.ofInt 4).mul vh).add (((Fv.ofInt (-3)).mul v0).add v1.neg)),
      rn (((Fv.ofInt 2).mul v1).add (((Fv.ofInt (-4)).mul vh).add ((Fv.ofInt 2).mul v0))))
  else (v0, rn (v1.add v0.neg), .fin false 0 0)

/-- The interpolant before its last rounding: exact in version 2, step by step in version 1 (R189). -/
def interp (ver : Nat) (c : Fv × Fv × Fv) (quad : Bool) (t : Fv) : Fv :=
  let (c0, c1, c2) := c
  if ver = 1 then
    if quad then rn (c0.add (rn (t.mul (rn (c1.add (rn (t.mul c2)))))))
    else rn (c0.add (rn (c1.mul t)))
  else if quad then c0.add (t.mul (c1.add (t.mul c2)))
  else c0.add (c1.mul t)

/-- Scale a value by 2^n, exactly. -/
def Fv.scale (n : Int) : Fv → Fv
  | .fin s m e => .fin s m (e + n)
  | x => x

/-- floor(x) of a finite value, and 64 times the remaining fraction as a value: its segment and position t. -/
def Fv.split (s : Bool) (m : Nat) (e : Int) : Int × Nat × Fv :=
  if 0 ≤ e then (Fv.signed s (m * 2 ^ e.toNat), 0, .fin false 0 0)
  else
    let k := (-e).toNat
    let x := Fv.signed s m
    let n := x / (2 ^ k : Nat)
    let r := (x % (2 ^ k : Nat)).toNat
    let q := 64 * r
    (n, q / 2 ^ k, .fin false (q % 2 ^ k) e)

/-- The result of a special function: encoding, flags, and whether a threshold row made it zero (R190). DEDUCED: `SFU_FLUSH` counts the zeros of
EXP2's argument thresholds alone, not LOG2 results that R190's last row makes signed zero, nor the threshold zeros of the exp2 inside VGACT, VSMX,
VSMXC and VSMXN (R200; log 51). -/
structure SRes where
  v : Nat
  fl : Nat := 0
  flush : Bool := false
  deriving DecidableEq, Repr

def sOut (fmt : Nat) (x : Fv) : SRes :=
  let (v, fl) := narrowOut fmt x
  { v := v, fl := fl }

/-- EXP2 of an FP32 lane: table version, quadratic or linear, output format (R186, R189, R190). -/
def sfuExp2 (ver : Nat) (quad : Bool) (fmt : Nat) (b : Nat) : SRes :=
  match d32 b with
  | .nan => sOut fmt .nan
  | .inf false => sOut fmt (.inf false)
  | .inf true => { v := 0 }
  | .fin s m e =>
    if m = 0 then sOut fmt (.fin false 1 0)
    else
      let x : Fv := .fin s m e
      let lo : Int := if fmt = 2 then -6 else -126
      if x.lt (Fv.ofInt lo) then { v := 0, flush := true }
      else if fmt ≠ 2 ∧ !x.lt (Fv.ofInt 128) then sOut fmt (.inf false)
      else if fmt = 2 ∧ !x.lt (Fv.ofInt 256) then sOut fmt (.fin false 1 256)
      else
        let (n, i, t) := Fv.split s m e
        sOut fmt (rn ((rn (interp ver (coeffs exp2Nodes quad i) quad t)).scale n))

/-- LOG2 of an FP32 lane (R187, R189, R190). -/
def sfuLog2 (ver : Nat) (quad : Bool) (fmt : Nat) (b : Nat) : SRes :=
  match d32 b with
  | .nan => sOut fmt .nan
  | .inf false => sOut fmt (.inf false)
  | .inf true => sOut fmt .nan
  | .fin s m e =>
    if m = 0 then sOut fmt (.inf true)
    else if s then sOut fmt .nan
    else
      let f := m - 2 ^ 23
      let ex := e + 23
      let i := f * 64 / 2 ^ 23
      let t : Fv := .fin false (f * 64 % 2 ^ 23) (-23)
      let p := interp ver (coeffs log2Nodes quad i) quad t
      sOut fmt (rn ((Fv.ofInt ex).add p))

/-- L2E (R192's constant table). -/
def l2e : Nat := 0x3FB8AA3B

/-- σ(v) of R192. -/
def sigmoid (ver : Nat) (quad : Bool) (v : Nat) : Nat :=
  fdiv 0x3F800000 (fadd 0x3F800000 (sfuExp2 ver quad 0 (fmul (fneg v) l2e)).v)

/-- The activation of a code (R192). -/
def activation (ver : Nat) (quad : Bool) (code v : Nat) : Nat :=
  match code with
  | 0 => v
  | 1 => match d32 v with
    | .nan => fp32.nan
    | x => if (Fv.fin false 0 0).lt x then v else 0
  | 2 => sigmoid ver quad v
  | 3 =>
    let v2 := e32 ((d32 v).mul (Fv.ofInt 2))
    fsub (fmul 0x40000000 (sigmoid ver quad v2)) 0x3F800000
  | _ => fmul v (sigmoid ver quad v)

/-- VGACT of one lane (R192). -/
def vgact (ver : Nat) (quad : Bool) (code fmt g v : Nat) : SRes :=
  sOut fmt (rn ((d32 g).mul (d32 (activation ver quad code v))))

/-- VSTAT of one lane: (μ', M2') from sample, μ, M2 and the count before; with a count of 0, a finite sample is the mean, and M2 is 0,
whatever stood there (R193). -/
def vstat (n x mu m2 : Nat) : Nat × Nat :=
  if n = 0 && (match d32 x with | .fin _ _ _ => true | _ => false) then (e32 (d32 x), 0)
  else
    let n1 := e32 (Fv.ofInt (n + 1))
    let d := fsub x mu
    let mu' := fadd mu (fdiv d n1)
    (mu', fadd m2 (fmul d (fsub x mu')))

/-- One combine of VSTATR at stage `s` for count `n` (R194). -/
def vstatCombine (n s : Nat) (a b : Nat × Nat) : Nat × Nat :=
  let k2 := e32 (.fin false (n * 2 ^ s) (-1))
  let delta := fsub b.1 a.1
  (fadd a.1 (fmul delta 0x3F000000), fadd (fadd a.2 b.2) (fmul (fmul delta delta) k2))

/-- exp2 of a scaled difference with FP32 output (R195). -/
def expDiff (ver : Nat) (quad : Bool) (scale a b : Nat) : Nat :=
  (sfuExp2 ver quad 0 (fmul (fsub a b) scale)).v

def isInf (b : Nat) (neg : Bool) : Bool := d32 b = .inf neg

/-- Whether a scale is positive and finite (R195). -/
def scaleOk (b : Nat) : Bool :=
  match d32 b with
  | .fin s m _ => !s && m ≠ 0
  | _ => false

/-- The factor of R195 for an old value `x` under the new maximum `m'`, with its overrides. -/
def smFactor (ver : Nat) (quad : Bool) (scale x m' : Nat) : Nat :=
  if isInf x true then 0
  else if isInf m' true then 0
  else if isInf m' false then (if isInf x false then 0x3F800000 else 0)
  else expDiff ver quad scale x m'

/-- VSMX of one lane: (m', s') from element, m, s and scale (R195). -/
def vsmx (ver : Nat) (quad : Bool) (x m s scale : Nat) : Nat × Nat :=
  if (d32 x).isNan || !scaleOk scale || (d32 m).isNan then (fp32.nan, fp32.nan)
  else
    let m' := fmax m x
    let r := smFactor ver quad scale m m'
    let e := if isInf m' true then 0
      else if isInf m' false then (if isInf x false then 0x3F800000 else 0)
      else expDiff ver quad scale x m'
    (m', fadd (fmul s r) e)

/-- One combine of VSMXC (R196). -/
def vsmxCombine (ver : Nat) (quad : Bool) (scale : Nat) (a b : Nat × Nat) : Nat × Nat :=
  if (d32 a.1).isNan || (d32 b.1).isNan || !scaleOk scale then (fp32.nan, fp32.nan)
  else
    let m := fmax a.1 b.1
    (m, fadd (fmul a.2 (smFactor ver quad scale a.1 m)) (fmul b.2 (smFactor ver quad scale b.1 m)))

/-- VSMXN of one lane (R197). -/
def vsmxn (ver : Nat) (quad : Bool) (x m s scale : Nat) : Nat :=
  if (d32 m).isNan || (d32 s).isNan then fp32.nan
  else if isInf m true then 0
  else if isInf m false then (if isInf x false then 0x3F800000 else 0)
  else fdiv (expDiff ver quad scale x m) s

/-- The six-stage reduction of 64 lanes (R185): `g s a b` combines at stage `s`. The left operand is the lower lane. -/
def reduceLanes {α : Type} (g : Nat → α → α → α) : Nat → List α → List α
  | 0, l => l
  | k + 1, l =>
    let s := 5 - k
    let l := (List.range (l.length / 2)).filterMap fun i =>
      match l[2 * i]?, l[2 * i + 1]? with
      | some a, some b => some (g s a b)
      | _, _ => none
    reduceLanes g k l

end Sys2Proof.Machine
end

