-- ==== Sys2Proof/Machine/Vector.lean ====
section
/-! DEFINITION. The vector slot: fields, latency and units, and what each opcode writes (R179 to R200, R229). -/

namespace Sys2Proof.Machine

/-- The fields of the vector slot (R229). -/
structure VSlot where
  op : Nat
  vd : Nat
  va : Nat
  vb : Nat
  vm : Nat
  men : Bool
  quad : Bool
  mode : Nat
  aux : Nat
  deriving DecidableEq, Repr

def vSlot (v : Nat) : VSlot :=
  { op := fld v 7 0, vd := fld v 12 8, va := fld v 17 13, vb := fld v 22 18, vm := fld v 27 23, men := bitOf v 28,
    quad := bitOf v 29, mode := fld v 32 30, aux := fld v 47 33 }

/-- Whether an opcode ignores the lane mask (R185). -/
def VSlot.crossLane (i : VSlot) : Bool := i.op = 0x40 || i.op = 0x42 || i.op = 0x44

/-- Whether VGACT takes one of the forms that divide (R181, R182). -/
def VSlot.divides (i : VSlot) : Bool := i.op = 0x46 && decide (2 ≤ i.mode)

/-- The latency of an opcode (R181); the extension and ZRD have their own. -/
def VSlot.latency (i : VSlot) : Nat :=
  let q := fun (a b : Nat) => if i.quad then b else a
  if i.op = 0x0B ∨ i.op = 0x0C then 10
  else if 1 ≤ i.op ∧ i.op ≤ 0x0A then 2
  else if 0x10 ≤ i.op ∧ i.op ≤ 0x1A then 1
  else if 0x20 ≤ i.op ∧ i.op ≤ 0x27 then 4
  else if i.op = 0x28 ∨ i.op = 0x29 then 16
  else if 0x30 ≤ i.op ∧ i.op ≤ 0x33 then 2
  else if 0x38 ≤ i.op ∧ i.op ≤ 0x3A then 2
  else if i.op = 0x40 ∨ i.op = 0x42 ∨ i.op = 0x44 then 18
  else if i.op = 0x41 then 24
  else if i.op = 0x43 then q 12 15
  else if i.op = 0x45 then q 22 25
  else if i.op = 0x46 then q 12 15 + (if i.divides then 16 else 0)
  else if i.op = 0x47 ∨ i.op = 0x48 then q 6 9
  else if i.op = 0x50 then 10
  else 2

/-- How long an instruction occupies the special-function unit (R182). -/
def VSlot.sfuCycles (i : VSlot) : Nat :=
  if 0x43 ≤ i.op ∧ i.op ≤ 0x48 ∧ i.op ≠ 0x44 then (if i.quad then 4 else 1) else 0

/-- How long it occupies the divider (R182). -/
def VSlot.fdivCycles (i : VSlot) : Nat :=
  if i.op = 0x28 ∨ i.op = 0x29 ∨ i.op = 0x41 ∨ i.op = 0x45 ∨ i.divides then 4 else 0

/-- How long it occupies the integer divider, and the reduction tree (R181). -/
def VSlot.idivCycles (i : VSlot) : Nat := if i.op = 0x0B ∨ i.op = 0x0C then 8 else 0
def VSlot.redCycles (i : VSlot) : Nat := if i.crossLane then 6 else 0

/-- Whether the destination is a pair vd, vd + 1. -/
def VSlot.pair (i : VSlot) : Bool := decide (0x41 ≤ i.op) && decide (i.op ≤ 0x44)

/-- The registers that an opcode writes. -/
def VSlot.dests (i : VSlot) : List Nat :=
  if i.op = 0 then [] else if i.pair then [i.vd, (i.vd + 1) % 32] else [i.vd]

/-- Whether an opcode reads va; vb; vd (R229). -/
def VSlot.readsVa (i : VSlot) : Bool :=
  !(i.op = 0 || i.op = 0x42 || i.op = 0x44 || i.op = 0x50 || i.op = 0x58)

def VSlot.readsVb (i : VSlot) : Bool :=
  (decide (1 ≤ i.op) && decide (i.op ≤ 6)) || (decide (9 ≤ i.op) && decide (i.op ≤ 0x0C)) ||
  (decide (0x10 ≤ i.op) && decide (i.op ≤ 0x17) && i.op ≠ 0x13) || (decide (0x18 ≤ i.op) && decide (i.op ≤ 0x1A)) ||
  (decide (0x20 ≤ i.op) && decide (i.op ≤ 0x25)) || i.op = 0x28 || i.op = 0x39 ||
  (decide (0x43 ≤ i.op) && decide (i.op ≤ 0x46)) || decide (0xE0 ≤ i.op)

def VSlot.readsVd (i : VSlot) : Bool := i.op = 0x23 || i.pair

/-- Every vector register that an instruction reads. -/
def VSlot.sources (i : VSlot) : List Nat :=
  if i.op = 0 then [] else
  (if i.readsVa then [i.va] else []) ++ (if i.readsVb then [i.vb] else []) ++
  (if i.readsVd then (if i.pair then [i.vd, (i.vd + 1) % 32] else [i.vd]) else []) ++
  (if i.men || i.op = 0x1A then [i.vm] else []) ++
  (if i.op = 0x45 then [fld i.aux 4 0, (fld i.aux 4 0 + 1) % 32] else [])

/-- One lane's result. -/
structure LRes where
  v : Nat
  fl : Nat := 0
  flush : Bool := false
  bad : Bool := false
  deriving DecidableEq, Repr

def LRes.ofI (r : IRes) : LRes := { v := r.v, fl := r.fl }
def LRes.ofS (r : SRes) : LRes := { v := r.v, fl := r.fl, flush := r.flush }

/-- The integer operation of a vector opcode. -/
def vecIOp (op : Nat) : Option IOp :=
  match op with
  | 0x01 => some .add | 0x02 => some .adds | 0x03 => some .sub | 0x04 => some .subs | 0x05 => some .mul | 0x06 => some .muls
  | 0x07 => some .neg | 0x08 => some .abs | 0x09 => some .min | 0x0A => some .max | 0x0B => some .div | 0x0C => some .rem
  | 0x10 => some .and | 0x11 => some .or | 0x12 => some .xor | 0x13 => some .not | 0x14 => some .shl | 0x15 => some .shls
  | 0x16 => some .shr | 0x17 => some .sar
  | _ => none

/-- CMP (R229). -/
def vecCmp (mode a b : Nat) : Bool :=
  match mode with
  | 0 => a = b
  | 1 => a ≠ b
  | 2 => sgn 32 a < sgn 32 b
  | 3 => sgn 32 a ≤ sgn 32 b
  | 4 => a < b
  | _ => a ≤ b

/-- The result of lane `l` for an opcode that works lane by lane on va, vb and vd (R229). -/
def vecLane (x : Slice) (ver : Nat) (i : VSlot) (l : Nat) : LRes :=
  let a := x.lane i.va l
  let b := x.lane i.vb l
  let d := x.lane i.vd l
  let bad := (i.readsVa && x.laneBad i.va l) || (i.readsVb && x.laneBad i.vb l) || (i.op = 0x23 && x.laneBad i.vd l)
  let mk := fun (r : LRes) => if bad then { r with bad := true, fl := 0 } else r
  match vecIOp i.op with
  | some op => mk (.ofI (iOp 32 op a b))
  | none =>
    match i.op with
    | 0x18 => mk { v := b2n (vecCmp i.mode a b) }
    | 0x19 => mk { v := b2n (fcmp i.mode a b) }
    | 0x1A =>
      let t := (x.lane i.vm l).testBit 0
      { v := if t then a else b, bad := x.laneBad i.vm l || (if t then x.laneBad i.va l else x.laneBad i.vb l) }
    | 0x20 => mk { v := fadd a b }
    | 0x21 => mk { v := fsub a b }
    | 0x22 => mk { v := fmul a b }
    | 0x23 => mk { v := ffma a b d }
    | 0x24 => mk { v := fmin a b }
    | 0x25 => mk { v := fmax a b }
    | 0x26 => mk { v := fabs a }
    | 0x27 => mk { v := fneg a }
    | 0x28 => mk { v := fdiv a b }
    | 0x29 => mk { v := fsqrt a }
    | 0x30 => mk { v := e32 (Fv.ofInt (sgn 32 a)) }
    | 0x31 => mk (.ofI (fvToI 32 (d32 a)))
    | 0x32 => mk (.ofI (narrow i.mode a))
    | 0x33 => mk { v := widen i.mode (a % 2 ^ fmtBits i.mode) }
    | 0x38 => { v := x.lane i.va (fld i.aux 5 0), bad := x.laneBad i.va (fld i.aux 5 0) }
    | 0x39 => { v := x.lane i.va (b % 64), bad := x.laneBad i.vb l || x.laneBad i.va (b % 64) }
    | 0x3A =>
      let j := (l : Int) - sgn 7 (fld i.aux 6 0)
      if 0 ≤ j ∧ j < 64 then { v := x.lane i.va j.toNat, bad := x.laneBad i.va j.toNat } else { v := 0 }
    | 0x46 => mk (.ofS (vgact ver i.quad i.mode (fld i.aux 1 0) a b))
    | 0x47 => mk (.ofS (sfuExp2 ver i.quad (fld i.aux 1 0) a))
    | 0x48 => mk (.ofS (sfuLog2 ver i.quad (fld i.aux 1 0) a))
    | 0x58 => match sreg (fld i.aux 4 0) with
      | some r => { v := x.sread32 r }
      | none => { v := 0 }
    | _ => mk { v := a }

/-- What a vector instruction writes and counts. -/
structure VOut where
  regs : List (Nat × List (Nat × W32 × Bool)) := []
  fl : Nat := 0
  full : Nat := 0
  quarter : Nat := 0
  flush : Nat := 0
  deriving DecidableEq, Repr

/-- The lanes that an instruction acts on (R180, R185). -/
def VSlot.active (i : VSlot) (x : Slice) : List Nat :=
  if i.men && !i.crossLane then (List.range 64).filter fun l => (x.lane i.vm l).testBit 0 else List.range 64

/-- Whether a mask lane is poisoned (R362). -/
def VSlot.badMask (i : VSlot) (x : Slice) : Bool := i.men && !i.crossLane && (List.range 64).any fun l => x.laneBad i.vm l

/-- Lanes of one register. -/
def allLanes (v : Nat) (bad : Bool) : List (Nat × W32 × Bool) := (List.range 64).map fun l => (l, BitVec.ofNat 32 v, bad)

/-- VRED: the combine of a mode, with the flag that an INT32 sum sets (R185). -/
def vredCombine (mode : Nat) (a b : Nat × Nat) : Nat × Nat :=
  match mode with
  | 0 => let r := iOp 32 .adds a.1 b.1; (r.v, a.2 ||| b.2 ||| r.fl)
  | 1 => (fadd a.1 b.1, 0)
  | 2 => ((iOp 32 .max a.1 b.1).v, 0)
  | 3 => (fmax a.1 b.1, 0)
  | 4 => ((iOp 32 .min a.1 b.1).v, 0)
  | _ => (fmin a.1 b.1, 0)

/-- The results of a vector instruction other than NOP, ZRD and the extension opcodes. `freeN` is the count of VSTATR (log 10). -/
def vecExec (x : Slice) (ver freeN : Nat) (i : VSlot) : VOut :=
  let act := i.active x
  let d1 := (i.vd + 1) % 32
  let anyBad := fun (r : Nat) => (List.range 64).any fun l => x.laneBad r l
  let pairs := fun (r : Nat) => (List.range 64).map fun l => (x.lane r l, x.lane ((r + 1) % 32) l)
  match i.op with
  | 0x40 =>
    let r := (reduceLanes (fun _ => vredCombine i.mode) 6 ((List.range 64).map fun l => (x.lane i.va l, 0))).headD (0, 0)
    let bad := anyBad i.va
    { regs := [(i.vd, allLanes r.1 bad)], fl := if bad then 0 else r.2 }
  | 0x42 =>
    let r := (reduceLanes (vstatCombine freeN) 6 (pairs i.vd)).headD (0, 0)
    let bad := anyBad i.vd || anyBad d1
    { regs := [(i.vd, allLanes r.1 bad), (d1, allLanes r.2 bad)] }
  | 0x44 =>
    let r := (reduceLanes (fun _ => vsmxCombine ver false (x.lane i.vb 0)) 6 (pairs i.vd)).headD (0, 0)
    let bad := anyBad i.vd || anyBad d1 || x.laneBad i.vb 0
    { regs := [(i.vd, allLanes r.1 bad), (d1, allLanes r.2 bad)], full := 256 }
  | 0x41 =>
    let n := x.cReg (fld i.aux 2 0)
    let rs := act.map fun l => (l, vstat n (x.lane i.va l) (x.lane i.vd l) (x.lane d1 l),
      x.laneBad i.va l || x.laneBad i.vd l || x.laneBad d1 l)
    { regs := [(i.vd, rs.map fun (l, r, b) => (l, BitVec.ofNat 32 r.1, b)), (d1, rs.map fun (l, r, b) => (l, BitVec.ofNat 32 r.2, b))] }
  | 0x43 =>
    let rs := act.map fun l => (l, vsmx ver i.quad (x.lane i.va l) (x.lane i.vd l) (x.lane d1 l) (x.lane i.vb l),
      x.laneBad i.va l || x.laneBad i.vd l || x.laneBad d1 l || x.laneBad i.vb l)
    { regs := [(i.vd, rs.map fun (l, r, b) => (l, BitVec.ofNat 32 r.1, b)), (d1, rs.map fun (l, r, b) => (l, BitVec.ofNat 32 r.2, b))],
      full := if i.quad then 0 else act.length, quarter := if i.quad then act.length else 0 }
  | 0x45 =>
    let m := fld i.aux 4 0
    let m1 := (m + 1) % 32
    { regs := [(i.vd, act.map fun l => (l, BitVec.ofNat 32 (vsmxn ver i.quad (x.lane i.va l) (x.lane m l) (x.lane m1 l) (x.lane i.vb l)),
        x.laneBad i.va l || x.laneBad m l || x.laneBad m1 l || x.laneBad i.vb l))],
      full := act.length }
  | _ =>
    let rs := act.map fun l => (l, vecLane x ver i l)
    let sfu := 0x46 ≤ i.op ∧ i.op ≤ 0x48
    { regs := [(i.vd, rs.map fun (l, r) => (l, BitVec.ofNat 32 r.v, r.bad))],
      fl := rs.foldl (fun a (_, r) => a ||| r.fl) 0,
      full := if sfu ∧ !i.quad then act.length else 0, quarter := if sfu ∧ i.quad then act.length else 0,
      flush := (rs.filter fun (_, r) => r.flush).length }

/-- The lanes of a register that a list of writes leaves: what it holds after the instruction. -/
def Slice.lanesAfter (x : Slice) (o : VOut) (r : Nat) : List W32 :=
  let w := (o.regs.find? fun e => e.1 = r).map (·.2)
  (List.range 64).map fun l =>
    match w.bind fun v => v.find? fun e => e.1 = l with
    | some (_, v, _) => v
    | none => BitVec.ofNat 32 (x.lane r l)

end Sys2Proof.Machine
end

