-- ==== Sys2Proof/Machine/Encoding.lean ====
section
/-! DEFINITION. Which bundles are legal encodings, which registers they read and write, and which jump (R221 to R243). The verifier
rejects the others, and a slice that executes one raises SEQ_ILLEGAL (R245). -/

namespace Sys2Proof.Machine

/-! ## Scalar slot fields (R226) -/

def Bundle.rd (b : Bundle) : Nat := fld b.sc 10 6
def Bundle.ra (b : Bundle) : Nat := fld b.sc 15 11
def Bundle.rb (b : Bundle) : Nat := fld b.sc 20 16
def Bundle.imm (b : Bundle) : Nat := fld b.sc 39 16
def Bundle.simm (b : Bundle) : Int := sgn 24 b.imm

def isA (r : Nat) : Bool := decide (r < 16)
def isC (r : Nat) : Bool := decide (16 ≤ r) && decide (r < 24)
def isK (r : Nat) : Bool := decide (24 ≤ r) && decide (r < 28)
def isAC (r : Nat) : Bool := decide (r < 24)

/-- Whether the scalar slot is a legal encoding (R226, R227). -/
def Bundle.scalarOk (b : Bundle) : Bool :=
  let rd := b.rd
  let ra := b.ra
  let rb := b.rb
  let imm := b.imm
  let hi := fld b.sc 39 21
  match b.scOp with
  | 0x00 => b.sc = 0
  | 0x01 | 0x02 => isAC rd && ra = 0
  | 0x03 => isAC rd && isAC ra && rb = 0 && hi = 0
  | 0x04 | 0x06 => isAC rd && isAC ra && isAC rb && hi = 0
  | 0x05 | 0x07 | 0x08 | 0x09 | 0x0C | 0x0D | 0x10 | 0x11 | 0x12 | 0x13 | 0x14 | 0x15 | 0x16 | 0x17 | 0x18 =>
    isC rd && isC ra && isC rb && hi = 0
  | 0x0A => isAC rd && isAC ra
  | 0x0B => isC rd && isC ra
  | 0x0E | 0x0F => isC rd && isC ra && rb = 0 && hi = 0
  | 0x20 => rd = 0 && ra = 0 && imm < 2 ^ 14
  | 0x21 | 0x22 => rd = 0 && isK ra && imm < 2 ^ 14
  | 0x23 => rd = 0 && ra = 0 && imm < 64
  | 0x24 => b.sc = 0x24
  | 0x25 => isK rd && isAC ra && rb = 0 && hi = 0
  | 0x26 => isK rd && ra = 0
  | 0x27 => isC rd && ra = 0 && imm < 6
  | 0x28 => rd = 0 && ra = 0 && imm < 16
  | _ => false

/-! ## The other slots (R229, R230, R233, R241) -/

/-- Whether an opcode of the vector slot is defined (R229). -/
def vecDefined (op : Nat) : Bool :=
  (decide (op ≤ 0x0C)) || (decide (0x10 ≤ op) && decide (op ≤ 0x1A)) || (decide (0x20 ≤ op) && decide (op ≤ 0x29)) ||
  (decide (0x30 ≤ op) && decide (op ≤ 0x33)) || (decide (0x38 ≤ op) && decide (op ≤ 0x3A)) ||
  (decide (0x40 ≤ op) && decide (op ≤ 0x48)) || op = 0x50 || op = 0x58 || op = 0x59 || (decide (0xE0 ≤ op) && decide (op ≤ 0xEF))

/-- How many `MODE` values an opcode has; 1 where it has none. -/
def vecModes (op : Nat) : Nat :=
  if op = 0x18 ∨ op = 0x40 then 6 else if op = 0x19 then 4 else if op = 0x32 ∨ op = 0x33 ∨ op = 0x46 then 5 else 1

/-- Whether `AUX` of an opcode is legal (R184, R229). -/
def vecAuxOk (op aux : Nat) : Bool :=
  match op with
  | 0x38 => aux < 64
  | 0x3A => aux < 128
  | 0x41 => aux < 8
  | 0x45 => aux < 32 && aux % 2 = 0
  | 0x46 | 0x47 | 0x48 => aux < 3
  | 0x50 => aux < 2048 && decide (aux % 512 ≤ 504)
  | 0x58 => aux < 28
  | _ => aux = 0

def VSlot.ok (i : VSlot) : Bool :=
  if i.op = 0 then i = vSlot 0
  else
    vecDefined i.op && i.mode < vecModes i.op && vecAuxOk i.op i.aux &&
    (i.readsVa || i.va = 0) && (i.readsVb || i.vb = 0) && (i.men || i.op = 0x1A || i.vm = 0) &&
    !(i.men && i.crossLane) && (!i.quad || i.op = 0x43 || (decide (0x46 ≤ i.op) && decide (i.op ≤ 0x48))) &&
    (!i.pair || i.vd % 2 = 0)

def Bundle.matrixOk (b : Bundle) : Bool :=
  match b.mxOp with
  | 0 => b.mx = 0
  | 1 => !bitOf b.mx 27
  | 2 => true
  | 3 => fld b.mx 23 18 = 0 && fld b.mx 27 24 = 0
  | _ => false

def Bundle.loadOk (b : Bundle) : Bool :=
  match b.ldOp with
  | 0 => b.ld = 0
  | 1 => fld b.ld 39 36 = 0 && (fld b.ld 19 18 ≠ 1 || fld b.ld 33 20 = 0)
  | 2 => fld b.ld 39 34 = 0 && fld b.ld 11 9 < 6 && fld b.ld 13 12 ≠ 1
  | 3 => fld b.ld 39 23 = 0 && fld b.ld 22 18 < 28
  | 4 => fld b.ld 27 19 = 0
  | _ => false

def Bundle.storeOk (b : Bundle) : Bool :=
  match b.stOp with
  | 0 => b.st = 0
  | 1 => fld b.st 39 36 = 0 && fld b.st 19 18 ≠ 1
  | 2 => fld b.st 39 34 = 0 && fld b.st 11 9 < 6 && fld b.st 13 12 ≠ 1
  | 3 => fld b.st 39 23 = 0 && fld b.st 22 18 < 28
  | 4 => fld b.st 39 23 = 0 && isC (fld b.st 22 18) && fld b.st 17 4 = 0
  | _ => false

def Bundle.syRa (b : Bundle) : Nat := fld b.sy 8 5
def Bundle.syRb (b : Bundle) : Nat := fld b.sy 12 9
def Bundle.syImm (b : Bundle) : Nat := fld b.sy 31 13

/-- The bits of `IMM` that a sync opcode reads; the others are reserved (R241). -/
def Bundle.syncOk (b : Bundle) : Bool :=
  let plain := b.syRa = 0 && b.syRb = 0
  match b.syOp with
  | 0 => b.sy = 0
  | 1 | 2 | 3 | 4 | 9 => plain && b.syImm = 0
  | 5 => plain && b.syImm < 64
  | 6 | 8 => plain && b.syImm < 4096
  | 7 => plain && b.syImm < 16
  | 0xA => b.syRb = 0 && b.syImm < 65536
  | 0xB => b.syImm = 0
  | _ => false

/-- The first part of a bundle that is no legal encoding, as a slot number of R378; the header counts with the scalar slot. -/
def Bundle.bad (b : Bundle) : Option Nat :=
  if b.resv ≠ 0 || !b.scalarOk then some 0
  else if !(vSlot b.ve).ok then some 1
  else if !b.matrixOk then some 2
  else if !b.loadOk then some 3
  else if !b.storeOk then some 4
  else if !b.syncOk then some 5
  else none

/-! ## Registers read and written (R238, R239) -/

/-- A register of a slice: a scalar register by its code of R225, or a vector register. -/
inductive RegName where
  | s (code : Nat)
  | v (r : Nat)
  deriving DecidableEq, Repr

/-- Scalar registers that the scalar slot reads. -/
def Bundle.scalarReads (b : Bundle) (x : Slice) : List RegName :=
  match b.scOp with
  | 0x02 => [.s b.rd]
  | 0x03 | 0x0A | 0x0B | 0x0E | 0x0F | 0x25 => [.s b.ra]
  | 0x04 | 0x05 | 0x06 | 0x07 | 0x08 | 0x09 | 0x0C | 0x0D | 0x10 | 0x11 | 0x12 | 0x13 | 0x14 | 0x15 | 0x16 | 0x17 | 0x18 => [.s b.ra, .s b.rb]
  | 0x21 | 0x22 => [.s b.ra, .s (16 + fld (x.kReg (b.ra - 24)) 34 32)]
  | _ => []

def Bundle.scalarWrites (b : Bundle) : List RegName :=
  if (decide (1 ≤ b.scOp) && decide (b.scOp ≤ 0x18)) || (decide (0x25 ≤ b.scOp) && decide (b.scOp ≤ 0x27)) then [.s b.rd] else []

/-- Counters that a descriptor's runtime length names (R252). -/
def Desc.counters (d : Desc) : List RegName := if d.rtEn then [.s (16 + d.rtCtr)] else []

/-- The registers that the load or the store slot reads; `d` gives the descriptors. -/
def lsReads (d : Nat → Desc) (v : Nat) (store : Bool) : List RegName :=
  let op := v % 16
  let an : RegName := .s (fld v 17 14)
  let h := d (fld v 13 4)
  match op with
  | 1 => an :: h.counters ++ (if h.idxEn then (d h.idxHandle).counters else [])
  | 2 => if store then [an, .v (fld v 8 4)] else [an]
  | 3 => if store then [an, .s (fld v 22 18)] else [an]
  | 4 => if store then [.s (fld v 22 18)] else an :: h.counters ++ (if h.idxEn then (d h.idxHandle).counters else [])
  | _ => []

def lsWrites (v : Nat) (store : Bool) : List RegName :=
  let op := v % 16
  let an : RegName := .s (fld v 17 14)
  match op with
  | 1 => if bitOf v 34 then [an] else []
  | 2 => (if bitOf v 33 then [an] else []) ++ (if store then [] else [.v (fld v 8 4)])
  | 3 => if store then [] else [.s (fld v 22 18)]
  | _ => []

def Bundle.matrixReads (d : Nat → Desc) (b : Bundle) : List RegName :=
  match b.mxOp with
  | 1 | 2 => (d (fld b.mx 13 4)).counters ++ (d (fld b.mx 23 14)).counters
  | 3 => [.s (fld b.mx 17 14)]
  | _ => []

def Bundle.syncReads (b : Bundle) : List RegName :=
  match b.syOp with
  | 0xA => [.s b.syRa]
  | 0xB => [.s b.syRa, .s b.syRb]
  | _ => []

/-- What the vector slot reads beside vector registers: the counter of VSTAT, the register of VSPLAT. -/
def VSlot.scalarReads (i : VSlot) : List RegName :=
  if i.op = 0x41 then [.s (16 + fld i.aux 2 0)] else if i.op = 0x58 then [.s (fld i.aux 4 0)] else []

def Bundle.reads (d : Nat → Desc) (b : Bundle) (x : Slice) : List RegName :=
  let v := vSlot b.ve
  b.scalarReads x ++ v.sources.map .v ++ v.scalarReads ++ b.matrixReads d ++ lsReads d b.ld false ++ lsReads d b.st true ++ b.syncReads

/-- The registers that a bundle writes, slot by slot; one that appears twice is a conflict (R239). -/
def Bundle.writes (b : Bundle) : List RegName :=
  b.scalarWrites ++ (vSlot b.ve).dests.map .v ++ lsWrites b.ld false ++ lsWrites b.st true

/-- Whether a bundle must have `REPEAT` = 1 (R223). -/
def Bundle.repeatOne (b : Bundle) : Bool :=
  (decide (0x20 ≤ b.scOp) && decide (b.scOp ≤ 0x24)) || b.syOp = 1 || b.syOp = 2 || b.syOp = 3 || b.syOp = 9

end Sys2Proof.Machine
end

