-- ==== Sys2Proof/Machine/Slots.lean ====
section
/-! DEFINITION. What each slot of a bundle does in its issue cycle (R226 to R246, R251 to R268). Every slot reads the slice as it stood at the
start of the cycle, the argument `x`, and works on the state `s` (R237). -/

namespace Sys2Proof.Machine

/-- What a slot answers: a fault, or the state after it. -/
abbrev Slot := Except FaultInfo State

/-- A new operation number of a slice; numbers follow the program order. -/
def State.opId (s : State) (n : Nat) : State × Nat :=
  let x := s.slice n
  (s.setSlice n { x with nextId := x.nextId + 1 }, x.nextId)

def State.pend (s : State) (n ready : Nat) (d : Dst) : State :=
  let (s, id) := s.opId n
  s.modSlice n fun x => { x with pend := x.pend ++ [{ id := id, ready := ready, dst := d }] }

def State.xfer (s : State) (n bundle : Nat) (op : XferOp) : State :=
  let (s, id) := s.opId n
  s.modSlice n fun x => { x with xfers := x.xfers ++ [{ id := id, op := op, bundle := bundle }] }

/-- Count `k` on a performance counter of a slice. -/
def State.perf (s : State) (n : Nat) (f : Fld) (k : Nat := 1) : State := if k = 0 then s else s.bump (perfP n) f k

/-- Invalid granules read: the flag and the counter (R259). -/
def State.uninit (s : State) (n k : Nat) : State :=
  if k = 0 then s else (s.modSlice n fun x => x.flag flUninit).perf n SlcPerf.TB_UNINIT_RD k

/-! ## Scalar slot (R226 to R228, R274) -/

/-- A source of MOV, ADD, SUB, ADDI and KLIM: an A register, or a C register sign-extended (R225). -/
def Slice.wide (x : Slice) (code : Nat) : Int := if isA code then sgn 40 (x.aReg code) else sgn 32 (x.cReg (code - 16))

/-- Write an A or C register with the low bits of a value (R225). -/
def Slice.setAC (x : Slice) (code : Nat) (v : Int) : Slice :=
  if isA code then x.setA code (low 40 v) else x.setC (code - 16) (low 32 v)

/-- The integer operation of a scalar opcode on C registers. -/
def scalarIOp (op : Nat) : Option IOp :=
  match op with
  | 0x05 => some .adds | 0x07 => some .subs | 0x08 => some .mul | 0x09 => some .muls | 0x0C => some .div | 0x0D => some .rem
  | 0x0E => some .neg | 0x0F => some .abs | 0x10 => some .and | 0x11 => some .or | 0x12 => some .xor | 0x13 => some .shl
  | 0x14 => some .shls | 0x15 => some .shr | 0x16 => some .sar | 0x17 => some .min | 0x18 => some .max
  | _ => none

/-- The value that the scalar slot gives rd, with the flags (R226). -/
def Slice.scalarValue (x : Slice) (b : Bundle) : Int × Nat :=
  let c := fun (r : Nat) => x.cReg (r - 16)
  match scalarIOp b.scOp with
  | some op => let r := iOp 32 op (c b.ra) (c b.rb); (r.v, r.fl)
  | none =>
    match b.scOp with
    | 0x01 => (b.simm, 0)
    | 0x02 => ((b.imm * 2 ^ 20 + (if isA b.rd then x.aReg b.rd else c b.rd) % 2 ^ 20 : Nat), 0)
    | 0x03 => (x.wide b.ra, 0)
    | 0x04 => (x.wide b.ra + x.wide b.rb, 0)
    | 0x06 => (x.wide b.ra - x.wide b.rb, 0)
    | 0x0A => (x.wide b.ra + b.simm, 0)
    | 0x0B => let r := iSat 32 flSat (sgn 32 (c b.ra) + b.simm); (r.v, r.fl)
    | _ => (0, 0)

/-- The bound of a backward branch or of a BUCMD at an address of slice `n`: in the program, or in the routine that the slice holds there (R273). -/
def State.boundAt (s : State) (n c kind pc : Nat) : Option Nat :=
  let find := fun (base : Nat) (l : List Bound) => (l.find? fun e => e.off + base = pc && e.kind = kind).map (·.bound)
  if pc < 8192 then (s.cx c).program.bind fun p => find p.base p.bounds
  else (s.plv.routines.find? fun r => r.slices.testBit n && decide (r.base ≤ pc) && decide (pc < r.base + r.count)).bind fun r => find r.base r.bounds

/-- A taken branch: a backward one is counted against its bound (R274). -/
def State.branch (s : State) (n : Nat) (x : Slice) (target : Nat) : Slot :=
  if x.pc < target then .ok s
  else
    match s.boundAt n x.ctx 0 x.pc with
    | none => .ok s
    | some bound =>
      let k := spGet 0 x.brCount x.pc
      if bound ≤ k then .error { cause := fcLoopBound, slot := 0, bundle := x.pc, detail := bound }
      else .ok (s.modSlice n fun y => { y with brCount := spPut 0 y.brCount x.pc (k + 1) })

/-- The special value of RDSR (R226); the first cycle of a slot or window reads 0, and a segment that begins later counts on from the cycles that
had passed (log 17). -/
def State.rdsr (s : State) (n : Nat) (x : Slice) (v : Nat) : Nat :=
  match v with
  | 0 => x.flags.toNat
  | 1 => s.tickNum % 2 ^ 32
  | 2 => n
  | 3 => x.member
  | 4 => (x.slotCyc + x.cyc - 1) % 2 ^ 32
  | _ => x.seg

/-- The scalar slot: the state after it, and where a taken branch, CALL or RET goes. -/
def State.issueScalar (s : State) (n : Nat) (x : Slice) (b : Bundle) : Except FaultInfo (State × Option Nat) :=
  let jump := fun (s : State) (t : Nat) => Except.ok (s, some t)
  let target := b.imm % 2 ^ 14
  let take := fun (t : Nat) => match s.branch n x t with
    | .ok s => jump s t
    | .error e => .error e
  let illegal := fun (code r : Nat) => Except.error { cause := fcSeqIllegal, slot := 0, bundle := x.pc, detail := code ||| (r <<< 8) }
  match b.scOp with
  | 0x00 => .ok (s, none)
  | 0x20 => take target
  | 0x21 => if x.pred (b.ra - 24) then take target else .ok (s, none)
  | 0x22 => if x.pred (b.ra - 24) then .ok (s, none) else take target
  | 0x23 =>
    if x.calls.length = 8 then illegal 1 (b.imm % 64)
    else match s.plv.routines.find? fun r => r.idx = b.imm % 64 && r.slices.testBit n with
      | none => illegal 3 (b.imm % 64)
      | some r =>
        jump (s.modSlice n fun y => { y with calls := y.calls ++ [(x.pc + 1) % 2 ^ 14],
                                             brCount := spDrop y.brCount r.base (r.base + r.count) }) (r.base + r.entry)
  | 0x24 =>
    match x.calls.getLast? with
    | none => illegal 2 0
    | some t => jump (s.modSlice n fun y => { y with calls := y.calls.dropLast }) t
  | 0x25 => .ok (s.modSlice n fun y => y.swrite32 (.k (b.rd - 24)) (low 32 (x.wide b.ra)), none)
  | 0x26 =>
    let v := low 32 (sgn 18 (fld b.imm 23 6)) ||| (fld b.imm 2 0 <<< 32) ||| (fld b.imm 5 3 <<< 35)
    .ok (s.modSlice n fun y => y.setK (b.rd - 24) v, none)
  | 0x27 => .ok (s.modSlice n fun y => y.setC (b.rd - 16) (s.rdsr n x (b.imm % 16)), none)
  | 0x28 => .ok (s.modSlice n fun y => { y with flags := y.flags &&& ~~~ BitVec.ofNat 4 b.imm }, none)
  | op =>
    let (v, fl) := x.scalarValue b
    if op = 0x0C ∨ op = 0x0D then
      let s := s.modSlice n fun y => { y.flag fl with divFree := x.cyc + 8 }
      .ok (s.pend n (x.cyc + 8) (.c (b.rd - 16) (BitVec.ofNat 32 (low 32 v))), none)
    else .ok (s.modSlice n fun y => (y.setAC b.rd v).flag fl, none)

/-! ## Vector slot (R180 to R185, R229, R147, R364) -/

/-- The special-function version in force (R198). -/
def State.sfuVer (s : State) (c : Nat) : Nat :=
  match (s.cx c).program with
  | some p => if p.sfu = 0 then s.f devP DevCap.SFU_NATIVE_VER else p.sfu
  | none => s.f devP DevCap.SFU_NATIVE_VER

/-- The record of a vector tile, its results `after` the instruction (R367). -/
def Slice.vectorTile (x : Slice) (n ver : Nat) (b : Bundle) (ext : Bool) (after : List (Nat × List W32)) : Tile :=
  let i := vSlot b.ve
  let reg := fun (used : Bool) (r : Nat) => (List.range 64).flatMap fun l => leBytes 4 (if used then x.lane r l else 0)
  let ds := i.dests
  let d1 := (i.vd + 1) % 32
  let res := fun (r : Nat) => match after.find? fun e => e.1 = r with
    | some (_, l) => l.flatMap fun v => leBytes 4 v.toNat
    | none => zeros 256
  { origin := n, ctx := x.ctx, ttype := 2, shape := 0, ext := ext,
    bytes := leBytes 1 2 ++ leBytes 1 ver ++ leBytes 6 b.ve ++ zeros 8 ++ leBytes 4 (if i.op = 0x41 then x.cReg (fld i.aux 2 0) else 0) ++
      zeros 12 ++ reg i.readsVa i.va ++ reg i.readsVb i.vb ++ reg (i.men || i.op = 0x1A) i.vm ++
      reg (ds.contains i.vd) i.vd ++ reg (ds.contains d1 && i.pair) d1,
    result := res i.vd ++ (if i.pair then res d1 else zeros 256) }

/-- Whether any lane that an instruction reads is poisoned (R364). -/
def VSlot.poisoned (i : VSlot) (x : Slice) : Bool := i.sources.any fun r => (List.range 64).any fun l => x.laneBad r l

/-- The manifest descriptor of an extension opcode (R155). -/
def State.extDesc (s : State) (n op : Nat) : Nat := s.f (extP n) (SlcExt.MAN.at (4 + op))

def State.extAdmitted (s : State) (n op : Nat) : Bool := (s.f (extP n) (SlcExt.MAN.at 1)).testBit op

/-- An operand as its shape shows it on the boundary, each lane with the parity of its bytes: inverted for a poisoned lane of the mask, and right
elsewhere (R145, R146, R155, R360). -/
def extOperand (shape : Nat) (lanes : W64) (l : List (Nat × Bool)) : List (W32 × BitVec 4) :=
  (List.range 64).map fun i =>
    let (v, p) := l.getD i (0, false)
    let w := match shape with
      | 1 => if i = 0 then v else 0
      | 2 => v
      | 3 => v % 2 ^ 16
      | 4 => v % 2 ^ 8
      | _ => 0
    let d := BitVec.ofNat 32 w
    (d, if p && lanes.getLsbD i && shape ≠ 0 then ~~~ bytePar d else bytePar d)

/-- Parity over the opcode, the tag and the lane mask: `EXT_REQ_CPAR` (R145, R146). -/
def reqPar (op tag : Nat) (lanes : W64) : Bool := parity (op + 16 * tag + 256 * lanes.toNat) 72

/-- A tag that is not outstanding (R147). DESIGN CHOICE: the first from the one after the last used on; the rule only forbids an outstanding one
(log 49). -/
def Slice.freeTag (x : Slice) : Nat :=
  (((List.range 16).map fun i => (x.extTag + i) % 16).find? fun t => !x.ext.any fun r => r.tag = t).getD 0

/-- Issue a request to the extension unit (R145, R147). -/
def State.issueExt (s : State) (n : Nat) (x : Slice) (b : Bundle) : State :=
  let i := vSlot b.ve
  let op := i.op - 0xE0
  let d := s.extDesc n op
  let lanes := BitVec.ofNat 64 (maskOf (i.active x))
  let tag := x.freeTag
  let det := (s.f (extP n) (SlcExt.MAN.at 2)).testBit 0
  let tile := if s.on aniP Anise.EXT_EN && det && !i.poisoned x
    then some (x.vectorTile n (s.sfuVer x.ctx) b true []) else none
  let (s, id) := s.opId n
  (s.modSlice n fun y =>
    { y with ext := y.ext ++ [{ tag := tag, op := op, lanes := lanes, shapeR := fld d 20 18, vd := i.vd, deadline := x.cyc + fld d 11 0,
                                order := id, bundle := x.pc, tile := tile }],
             extTag := (tag + 1) % 16, extLast := spPut 0 y.extLast op (x.total + 1) }).emit
    (let a := extOperand (fld d 14 12) lanes (x.lanes i.va)
     let b := extOperand (fld d 17 15) lanes (x.lanes i.vb)
     .extReq n op tag lanes (reqPar op tag lanes) (a.map (·.1)) (b.map (·.1)) (a.map (·.2)) (b.map (·.2)))

/-- The vector slot (R229). -/
def State.issueVector (s : State) (n : Nat) (x : Slice) (b : Bundle) : Slot :=
  let i := vSlot b.ve
  if i.op = 0 then .ok s
  else if i.badMask x then .error { cause := fcPoison, slot := 1, bundle := x.pc, detail := 1 }
  else
    let s := s.perf n SlcPerf.VEC_INSTR
    if 0xE0 ≤ i.op then .ok (s.issueExt n x b)
    else if i.op = 0x50 then .ok (s.pend n 0 (.zrd i.vd (fld i.aux 10 9) (fld i.aux 8 0) (i.active x) false []))
    else
      let ver := s.sfuVer x.ctx
      let o := vecExec x ver (Config.freeCount s.anyBits).toNat i
      let s := if i.op = 0x42 then { s with anyBits := s.anyBits + 1 } else s
      let s := s.modSlice n fun y =>
        let y := y.flag o.fl
        let until_ := fun (k old : Nat) => if k = 0 then old else x.cyc + k
        { y with sfuFree := until_ i.sfuCycles y.sfuFree, vdivFree := until_ i.fdivCycles y.vdivFree,
                 idivFree := until_ i.idivCycles y.idivFree, vlongFree := until_ i.redCycles y.vlongFree }
      let s := o.regs.foldl (fun s (r, l) => s.pend n (x.cyc + i.latency) (.lanes r l)) s
      let s := ((s.perf n SlcPerf.SFU_FULL o.full).perf n SlcPerf.SFU_QUARTER o.quarter).perf n SlcPerf.SFU_FLUSH o.flush
      if i.op = 0x58 ∨ i.op = 0x59 ∨ i.poisoned x then .ok s
      else .ok (s.candidate n (x.vectorTile n ver b false (i.dests.map fun r => (r, x.lanesAfter o r))))

/-! ## Matrix slot (R230 to R232, R263 to R265) -/

/-- How many DRAM rows two spans of a bank touch together, each as (offset, length): a row that both touch counts once (R137). -/
def distinctRows (a b : Nat × Nat) : Nat :=
  let rows := fun (o n : Nat) => if n = 0 then 0 else (o + n - 1) / 1024 - o / 1024 + 1
  let both := if a.2 = 0 ∨ b.2 = 0 then 0 else min ((a.1 + a.2 - 1) / 1024) ((b.1 + b.2 - 1) / 1024) + 1 - max (a.1 / 1024) (b.1 / 1024)
  rows a.1 a.2 + rows b.1 b.2 - both

/-- The executed cycles of a DOT as step 7 costs them, plus 1 (R137, R282). -/
def dotLimit (c : BuCmd) (m b : Nat) : Nat :=
  let w := 1 + 4 + cdiv (b * c.kc) 32 + m * b * c.kcBeats * (if c.fmt = 2 then 2 else 1) +
    4 * distinctRows (c.word3 % 2 ^ 25, b * c.kc) (c.srcOff, m * c.kc)
  let last := (c.parts.getLast?.map (·.bank)).getD 0
  12 + w + cdiv w 7 + 2 * (last + 1) + (if c.destBank then cdiv (4 * m * b) 32 + 2 else 16) + 1

/-- The parts of a command at the banks of a mask, ascending. -/
def bankParts (mask : Nat) : List BuPart := (bitsOf mask 16).map fun b => { bank := b, slot := 16 }

/-- The DOT of a bank part (R265); `m` and `b` are the effective values, `dst` the offset that no field gives (log 10). -/
def dotCmd (n : Nat) (x : Slice) (w : Desc) (tag12 m b bMax : Nat) (dst : Nat) (destBank digest : Bool) (zbank : Nat) : BuCmd :=
  let parts := bankParts w.bkMask
  let c : BuCmd :=
    { id := 0, issuer := .engine n, op := 1, ctx := x.ctx, fmt := w.fmt, stack := w.bkStack, chan := w.bkChan, parts := parts,
      digestEn := digest, destBank := destBank, srcOff := w.bkOff, dstOff := dst, word3 := w.bkActOff, count := m,
      kcBeats := cdiv (dLen w.fmt w.kBank) (32 * parts.length), batch := b, tag := (n <<< 12) ||| tag12, slice := n, zbank := zbank,
      bundle := x.pc }
  { c with limit := dotLimit c w.dim1 bMax }

/-- The held DOT that a command takes over: the same context, tag and current epoch (R124, R246, R346). DESIGN CHOICE: where its `BATCH`, which no
rule gives the RAHEAD, is another than the command's, its results are none of the command's, which then reads for itself (log 22). -/
def State.heldDot (s : State) (c : BuCmd) : Option BuCmd :=
  s.bus.find? fun d => d.runahead && d.st = .held && d.ctx = c.ctx && d.tag = c.tag && d.epoch = (s.cx c.ctx).epoch && d.batch = c.batch

/-- Issue a DOT, or claim the held one, which goes on from its held results with the destination that the command gives it; `none` where the router
stalls (R115, R124). -/
def State.issueDot (s : State) (n : Nat) (c : BuCmd) : Option (State × Nat) :=
  match s.heldDot c with
  | some d =>
    let d := { d with runahead := false, st := .running, destBank := c.destBank, dstOff := c.dstOff, zbank := c.zbank, slice := c.slice,
                      digestEn := c.digestEn, limit := c.limit, bundle := c.bundle }
    let s := if d.digestEn then s.writeDigest d (mace (d.parts.flatMap (·.acc))) (d.parts.any (·.accBad)) else s
    let (s, d) := s.eachPart d fun s p => s.sendHead d p
    some ((s.putBu d).perf n SlcPerf.RA_CLAIMED, d.id)
  | none =>
    match s.buIssue c with
    | .stall => none
    | .taken s id => some (s, id)

/-- The free `DST_OFF` of a DOT that writes a bank, on the boundary that R119 asks (log 10). -/
def freeDstOff (k : Nat) : Nat := (Config.freeDst k).toNat % 2 ^ 22 * 8

/-- The 32-byte template of BUCMD as a command (R119, R231). -/
def templateCmd (n : Nat) (x : Slice) (w : Desc) (tag12 limit : Nat) (l : List Byte) : BuCmd :=
  let v := fun i => leAt l (4 * i) 4
  let op := fld (v 0) 7 0
  { id := 0, issuer := .engine n, op := if op = 1 then 0xFF else op, ctx := x.ctx, fmt := fld (v 0) 16 14, stack := w.bkStack,
    chan := w.bkChan, parts := bankParts w.bkMask, srcOff := fld (v 1) 24 0, dstOff := fld (v 2) 24 0, word3 := v 3,
    count := fld (v 4) 23 0, entry := fld (v 5) 21 12, tag := (n <<< 12) ||| tag12, slice := n, limit := limit, bundle := x.pc }

/-- What the matrix slot answers: the router or the array may make the bundle wait. -/
inductive MSlot where
  | stall
  | fault (f : FaultInfo)
  | ok (s : State)

/-- The matrix slot (R230). -/
def State.issueMatrix (s : State) (n : Nat) (x : Slice) (b : Bundle) : MSlot :=
  let w := s.desc x.ctx (fld b.mx 13 4)
  let sh := fld b.mx 23 14
  let st := s.desc x.ctx sh
  let z := fld b.mx 25 24
  let tag := fld b.mx 39 28
  let f1 := bitOf b.mx 26
  let m := (w.eff x.cReg).getD 1 0
  let nt := (st.eff x.cReg).getD 1 0
  match b.mxOp with
  | 1 =>
    let empty := m = 0 || nt = 0 || w.d0 = 0
    if !empty && 2 ≤ x.products.length then .stall
    else
      let dot := if w.bkEn then
          match s.issueDot n (dotCmd n x w tag m nt st.dim1 0 false false z) with
          | some (s, id) => some (s, some id)
          | none => none
        else some (s, none)
      match dot with
      | none => .stall
      | some (s, id) =>
        if empty then .ok ((s.perf n SlcPerf.ZERO_WORK).perf n SlcPerf.TILE_SKIPS (if m = 0 ∨ nt = 0 then 1 else 0))
        else
          let (s, k) := s.opId n
          let q : Product := { w := fld b.mx 13 4, s := sh, z := z, clear := f1, m := m, n := nt, kt := w.d0, fmt := w.fmt,
                               sOff := st.base % 2 ^ 20, bank := w.bkEn, dot := id, bundle := x.pc, issued := k }
          .ok ((s.modSlice n fun y => { y with nxt := some q }).promote n)
  | 2 =>
    let f2 := bitOf b.mx 27
    let dst := if f1 || f2 then freeDstOff s.anyBits else 0
    let s := if f1 || f2 then { s with anyBits := s.anyBits + 1 } else s
    match s.issueDot n (dotCmd n x w tag m nt st.dim1 dst f1 f2 z) with
    | some (s, _) => .ok s
    | none => .stall
  | 3 =>
    let (l, u) := x.tbRead 3 (x.aReg (fld b.mx 17 14)) 32
    if l.any (·.2) then .fault { cause := fcPoison, slot := 2, bundle := x.pc, detail := 6 }
    else
      match (s.uninit n u).buIssue (templateCmd n x w tag ((s.boundAt n x.ctx 1 x.pc).getD 0 + 1) (l.map (·.1))) with
      | .stall => .stall
      | .taken s _ => .ok s
  | _ => .ok s

/-! ## Load slot (R233, R235, R246, R251 to R262) -/

/-- The buffer offset of a T operation in repetition `rep` (R235). -/
def tOff (t : TForm) (d : Desc) (rep : Nat) : Nat := t.off + (if t.binc then rep * (cdiv (d.tileBytes t.buf) 64 * 64) else 0)

/-- `AINC` of a T or V operation (R235). -/
def State.ainc (s : State) (n an : Nat) (on : Bool) (by_ : Nat) : State :=
  if on then s.modSlice n fun x => x.setA an (low 40 ((x.aReg an : Nat) + by_ : Nat)) else s

/-- The counts of a tile operation's issue (R169, R235, R258, R259, R269). -/
def State.planCounts (s : State) (n : Nat) (p : Plan) : State :=
  (((s.perf n SlcPerf.ZERO_WORK (b2n p.empty)).perf n SlcPerf.TILE_SKIPS (b2n p.skip)).perf n SlcPerf.IDX_OOR p.oor).uninit n p.uninit

/-- The device address of LDS or STS, or the fault of R262. -/
def lsAddr (d : Desc) (h an slot pc : Nat) : Except FaultInfo Nat :=
  if an % 4 = 0 && decide (an + 4 ≤ d.span) then .ok (d.base + an)
  else .error { cause := fcDescBounds, slot := slot, bundle := pc, detail := h ||| (an <<< 10), addr := (d.base + an) % 2 ^ 40, akind := 3 }

/-- The bytes that the rows of a tile take in the run-ahead area (R255, R344). -/
def raBytes (d : Desc) (rows : List TRow) : Nat := (rows.filter fun r => r.n ≠ 0).length * d.trow

/-- Run-ahead tiles that a slice holds or is reading: their number and bytes (R344). -/
def State.raUsed (s : State) (n : Nat) : Nat × Nat :=
  let x := s.slice n
  let fly := x.xfers.filterMap fun t => match t.op with
    | .rahead c h _ _ rows => some (raBytes (s.desc c h) rows)
    | _ => none
  (x.ra.length + fly.length, (x.ra.map (·.bytes)).foldl (· + ·) 0 + fly.foldl (· + ·) 0)

/-- RAHEAD (R246, R343 to R350): `none` where the router stalls. -/
def State.issueRahead (s : State) (n : Nat) (x : Slice) (v : Nat) : Option State :=
  let h := fld v 13 4
  let d := s.desc x.ctx h
  let e := ((s.cx x.ctx).epoch + 1) % 256
  let drop := s.perf n SlcPerf.RA_DROPPED
  if !bitOf v 18 then
    let an := x.aReg (fld v 17 14)
    let p := tilePlan x d (s.desc x.ctx d.idxHandle) an
    let (k, used) := s.raUsed n
    if p.empty then some s
    else if p.badIdx || 8 ≤ k || 65536 < used + raBytes d p.rows ||
        p.rows.any (fun r => (s.unmapped x.ctx r.va (r.bytes d.fmt)).isSome) then some drop
    else some (s.xfer n x.pc (.rahead x.ctx h an e p.rows))
  else
    let batch := (Config.freeBatch s.anyBits).toNat % 9
    let s := { s with anyBits := s.anyBits + 1 }
    let m := (d.eff x.cReg).getD 1 0
    let c := { dotCmd n x d (fld v 39 28) m batch 8 0 false false 0 with runahead := true, epoch := e }
    let held := fun (p : BuPart) => (s.bus.filter fun b => b.runahead && b.parts.any fun q => b.key q = c.key p).length
    if s.buCheck c = some buDoneZero then some s
    else if (s.buCheck c).isSome || c.parts.any (fun p => 2 ≤ held p) then some (s.perf n SlcPerf.RA_DROPPED)
    else match s.buIssue c with
      | .stall => none
      | .taken s _ => some s

/-- The load slot (R233). A RAHEAD that the router stalls leaves `none`. -/
def State.issueLoad (s : State) (n : Nat) (x : Slice) (b : Bundle) : Except FaultInfo (Option State) :=
  match b.ldOp with
  | 1 =>
    let t := tForm b.ld
    let d := s.desc x.ctx t.handle
    let an := x.aReg t.an
    let p := tilePlan x d (s.desc x.ctx d.idxHandle) an
    if p.badIdx then .error { cause := fcPoison, slot := 3, bundle := x.pc, detail := 2 }
    else
      let s := (s.planCounts n p).ainc n t.an t.ainc d.istep
      if p.empty then .ok (some s)
      else
        let e := (s.cx x.ctx).epoch
        match if t.buf = 1 then x.ra.find? fun r => r.ctx = x.ctx && r.handle = t.handle && r.an = an && r.epoch = e else none with
        | some r =>
          let s := (s.modSlice n fun y => { y with ra := y.ra.erase r }).perf n SlcPerf.RA_CLAIMED
          .ok (some (s.xfer n x.pc (.claim r.rows)))
        | none => .ok (some (s.xfer n x.pc (.ldt t.handle an t.buf (tOff t d x.rep) p.rows)))
  | 2 =>
    let t := vForm b.ld
    let (l, u) := x.tbRead t.buf (t.off + x.aReg t.an) (vBytes t.fmt)
    let bytes := l.map (·.1)
    let bad := l.map (·.2)
    let vals := (List.range 64).map fun j => (j, BitVec.ofNat 32 (widen t.fmt (elemAt t.fmt bytes j)), elemBad t.fmt bad j)
    let s := (s.uninit n u).ainc n t.an t.ainc (vBytes t.fmt)
    .ok (some (s.xfer n x.pc (.ldv t.vd vals)))
  | 3 =>
    let h := fld b.ld 13 4
    match lsAddr (s.desc x.ctx h) h (x.aReg (fld b.ld 17 14)) 3 x.pc, sreg (fld b.ld 22 18) with
    | .ok va, some r => .ok (some (s.xfer n x.pc (.lds r va)))
    | .error e, _ => .error e
    | .ok _, none => .ok (some s)
  | 4 => .ok (s.issueRahead n x b.ld)
  | _ => .ok (some s)

/-! ## Store slot (R233, R234, R253, R254, R268) -/

/-- What an STT reads from its buffer for one tile row: the converted elements with their marks, and the flags. -/
def sttRow (x : Slice) (d : Desc) (t : TForm) (off : Nat) (r : TRow) : List (Nat × Bool) × Nat :=
  let o := d.copyOff off r.copy
  let l := if t.buf = 0 then (x.tbRead 0 o (dLen d.bufFmt (8 * r.n))).1 else (x.tbRead t.buf (o + r.r * d.trow) (dLen d.bufFmt r.n)).1
  let bytes := l.map fun e => e.1
  let bad := l.map fun e => e.2
  let el := fun (k : Nat) => if t.buf = 0 then bufElem d 0 bytes r.r k else elemAt (min d.bufFmt 5) bytes k
  let eb := fun (k : Nat) => if t.buf = 0 then bufElemBad d 0 bad r.r k else elemBad d.bufFmt bad k
  (List.range r.n).foldl (fun (out, fl) k =>
    let c := dConvert d.bufFmt d.fmt (el k)
    (out ++ [(c.v, eb k)], fl ||| c.fl)) ([], 0)

/-- The invalid granules that an STT reads (R259): in the stationary buffer once per copy, since rows share granules. -/
def sttUninit (x : Slice) (d : Desc) (t : TForm) (off : Nat) (rows : List TRow) : Nat :=
  if t.buf = 0 then
    ((rows.map fun r => r.copy).eraseDups.map fun o =>
      let n := ((rows.filter fun r => r.copy = o).map fun r => r.n).foldl max 0
      (x.tbRead 0 (d.copyOff off o) (dLen d.bufFmt (8 * n))).2).foldl (· + ·) 0
  else (rows.map fun r => (x.tbRead t.buf (d.copyOff off r.copy + r.r * d.trow) (dLen d.bufFmt r.n)).2).foldl (· + ·) 0

/-- STT (R233). -/
def State.issueStt (s : State) (n : Nat) (x : Slice) (v : Nat) : Slot :=
  let t := tForm v
  let d := s.desc x.ctx t.handle
  let an := x.aReg t.an
  let p := tilePlan x d (s.desc x.ctx d.idxHandle) an
  if p.badIdx then .error { cause := fcPoison, slot := 4, bundle := x.pc, detail := 2 }
  else
    let s := (s.planCounts n p).ainc n t.an t.ainc d.istep
    if p.empty then .ok s
    else
      let off := tOff t d x.rep
      let i0 := (d.split an).getD 0 0
      let rows := (p.rows.filter fun r => r.n ≠ 0).map fun r => (r, sttRow x d t off r)
      let writes := rows.flatMap fun (r, (els, _)) => rowWrites d r (i0 + r.n = d.d0) els
      let fl := rows.foldl (fun a (_, (_, f)) => a ||| f) 0
      let u := sttUninit x d t off (rows.map fun (r, _) => r)
      let copies := (rows.map fun (r, _) => r.copy).eraseDups
      let flags := if !d.chk then [] else copies.filterMap fun o =>
        let hits := rangeHits d ((rows.filter fun (r, _) => r.copy = o).map fun (r, (els, _)) => (r, els.map (·.1)))
        if hits = [] then none else let k := rangeRecord n t.handle hits; some (k.syn, k.detail)
      let s := (s.uninit n u).modSlice n fun y => y.flag fl
      .ok (s.xfer n x.pc (.store writes flags))

/-- The bytes that STV writes: the lanes narrowed, with marks, and the flag (R210, R233). -/
def stvBytes (x : Slice) (t : VForm) : List (Byte × Bool) × Nat :=
  let r := (x.lanes t.vd).map fun (v, p) => let o := narrow t.fmt v; (o.v, p, o.fl)
  (packMarked t.fmt (r.map fun (v, p, _) => (v, p)), r.foldl (fun a (_, p, f) => if p then a else a ||| f) 0)

/-- Whether a buffer range overlaps that of an outstanding transfer. -/
def State.bufHit (s : State) (n g : Nat) (r : Nat × Nat × Nat) : Bool :=
  let x := s.slice n
  x.xfers.any fun t => (t.ranges fun h => s.desc x.ctx h).any fun q => rangesHit g q r

/-- The store slot (R233, R234). STV writes the buffer at once, unless an earlier load to the same range is outstanding (R240). -/
def State.issueStore (s : State) (n : Nat) (x : Slice) (b : Bundle) : Slot :=
  match b.stOp with
  | 1 => s.issueStt n x b.st
  | 2 =>
    let t := vForm b.st
    let (l, fl) := stvBytes x t
    let off := t.off + x.aReg t.an
    let s := (s.modSlice n fun y => y.flag fl).ainc n t.an t.ainc (vBytes t.fmt)
    if s.bufHit n 1 (t.buf, off, l.length) then .ok (s.xfer n x.pc (.stv t.buf off l))
    else .ok (s.modSlice n fun y => y.tbWrite t.buf off l)
  | 3 =>
    let h := fld b.st 13 4
    match lsAddr (s.desc x.ctx h) h (x.aReg (fld b.st 17 14)) 4 x.pc, sreg (fld b.st 22 18) with
    | .ok va, some r =>
      let l := leBytes 4 (x.sread32 r)
      .ok (s.xfer n x.pc (.store ((List.range 4).map fun i => { at_ := va + i, val := l.getD i 0 }) []))
    | .error e, _ => .error e
    | .ok _, none => .ok s
  | 4 =>
    let at_ := (x.cyc, x.member)
    .ok (s.modCx x.ctx fun y =>
      let old := y.tick.payAt
      if y.tick.payload.isSome && (at_.1 < old.1 || (at_.1 = old.1 && at_.2 < old.2)) then y
      else { y with tick := { y.tick with payload := some (BitVec.ofNat 32 (x.cReg (fld b.st 22 18 - 16))), payAt := at_ } })
  | _ => .ok s

/-! ## Sync slot (R241, R242, R374) -/

/-- DCMP of two digests (R374). -/
def State.dcmp (s : State) (n : Nat) (x : Slice) (a b : Nat) : Slot :=
  let rd : Reader := { src := 4, unit := n, ctx := x.ctx, slot := 5, bundle := x.pc }
  let miss := fun (w va : Nat) => Except.error { cause := fcXlate, slot := 5, bundle := x.pc, detail := w, addr := va, akind := 3 }
  let a := a / 8 * 8
  let b := b / 8 * 8
  match s.readVa rd x.ctx a 8 with
  | (_, .error va) => miss 0 va
  | (s, .ok (ra, pa)) =>
    match s.readVa rd x.ctx b 8 with
    | (_, .error va) => miss 0 va
    | (s, .ok (rb, pb)) =>
      let ue := pa.any id || pb.any id
      if ra = rb && !ue then .ok (s.bump fruP Fru.DIG_CMP)
      else if (s.unmapped x.ctx (b + 8) 8).isSome then miss 1 (b + 8)
      else
        let s := s.writeVa x.ctx (b + 8) (leBytes 8 (1 ||| (b2n ue <<< 1) ||| ((s.tickNum % 2 ^ 48) <<< 16)))
        let (s, seq) := s.recordNum { cls := 0xC, utype := 1, uidx := n, ctx := x.ctx, slot := 5, bundle := x.pc, addr := b, akind := 3,
                                      syn := leNat ra, detail := leNat rb }
        let s := s.post x.ctx { type := 4, status := stFaulted, result := 0xC, detail := seq % 65536, cookie := (x.pc % 2 ^ 14) <<< 40 }
        .ok (s.bump fruP Fru.DIG_MISMATCH)

/-- What a sync operation does at once, and what it waits for. -/
def State.issueSync (s : State) (n : Nat) (x : Slice) (b : Bundle) : Except FaultInfo (State × Option Wait) :=
  let imm := b.syImm
  match b.syOp with
  | 1 => .ok (s, some .finish)
  | 2 => .ok (s, some .segend)
  | 3 => .ok (s, some .tbar)
  | 4 => .ok (s, some .fence)
  | 5 => .ok (s, some (.classes (imm % 64)))
  | 6 => .ok (s, some (.tag (imm % 4096)))
  | 7 => .ok (s.modCx x.ctx fun y => { y with tokens := spPut 0 y.tokens (imm % 16) (min 0xFFFF (spGet 0 y.tokens (imm % 16) + 1)) }, none)
  | 8 => .ok (s, some (.token (imm % 16) (fld imm 11 4)))
  | 9 => .ok (s, some .gbar)
  | 0xA => .ok (s.post x.ctx { type := 2, cookie := ((imm % 2 ^ 16) <<< 40) ||| x.aReg b.syRa }, none)
  | 0xB =>
    match s.dcmp n x (x.aReg b.syRa) (x.aReg b.syRb) with
    | .ok s => .ok (s, none)
    | .error e => .error e
  | _ => .ok (s, none)

end Sys2Proof.Machine
end

