-- ==== Sys2Proof/Machine/Bundle.lean ====
section
/-! DEFINITION. The sequencer: one engine cycle of a slice with its stalls, waits, predicates and halts; the completion of transfers, results
and extension requests (R222, R235 to R246, R148 to R151, R290, R361, R362). -/

namespace Sys2Proof.Machine

/-! ## Hazards (R236 to R238) -/

def SReg.name : SReg → RegName
  | .a r => .s r
  | .c r => .s (16 + r)
  | .k r => .s (24 + r)

/-- Registers with a write pending, and whether the write blocks later writes as well as reads (R238). -/
def Slice.pendRegs (x : Slice) : List (RegName × Bool) :=
  (x.pend.map fun p => match p.dst with
    | .a r _ => (RegName.s r, true)
    | .c r _ => (.s (16 + r), true)
    | .k r _ => (.s (24 + r), true)
    | .lanes r _ => (.v r, true)
    | .zrd r _ _ _ _ _ => (.v r, false)) ++
  (x.xfers.filterMap fun t => match t.op with
    | .ldv vd _ => some (RegName.v vd, true)
    | .lds d _ => some (d.name, true)
    | _ => none) ++
  (x.ext.filter fun r => r.shapeR ≠ 0).map fun r => (RegName.v r.vd, false)

def Slice.blocks (x : Slice) (reads writes : List RegName) : Bool :=
  x.pendRegs.any fun (r, w) => reads.contains r || (w && writes.contains r)

def XferOp.isLoad : XferOp → Bool
  | .store .. | .stv .. => false
  | _ => true

def Slice.loads (x : Slice) : Nat := (x.xfers.filter fun t => t.op.isLoad).length
def Slice.stores (x : Slice) : Nat := (x.xfers.filter fun t => !t.op.isLoad).length

/-- Whether the tile of a T or H operation is empty, so that it is never outstanding. -/
def State.tEmpty (s : State) (x : Slice) (v : Nat) : Bool :=
  let d := s.desc x.ctx (fld v 13 4)
  (tilePlan x d (s.desc x.ctx d.idxHandle) (x.aReg (fld v 17 14))).empty

/-- The index range that a T operation reads. -/
def State.idxRange (s : State) (x : Slice) (v : Nat) : List (Nat × Nat × Nat) :=
  let d := s.desc x.ctx (fld v 13 4)
  if d.idxEn then let i := s.desc x.ctx d.idxHandle; [(3, i.base % 2 ^ 20, dLen i.fmt i.dim0)] else []

/-- The tile-buffer ranges that a bundle reads, as (buffer, offset, length). -/
def State.tbReads (s : State) (x : Slice) (b : Bundle) : List (Nat × Nat × Nat) :=
  let l := vForm b.ld
  let t := tForm b.st
  (if b.ldOp = 2 then [(l.buf, l.off + x.aReg l.an, vBytes l.fmt)] else []) ++
  (if b.ldOp = 1 ∨ (b.ldOp = 4 ∧ !bitOf b.ld 18) then s.idxRange x b.ld else []) ++
  (if b.stOp = 1 then let d := s.desc x.ctx t.handle; (t.buf, tOff t d x.rep, d.tileBytes t.buf) :: s.idxRange x b.st else []) ++
  (if b.mxOp = 3 then [(3, x.aReg (fld b.mx 17 14), 32)] else [])

/-- Whether a vector instruction waits for a unit (R182, R181). -/
def Slice.vecUnitBusy (x : Slice) (b : Bundle) : Bool :=
  let i := vSlot b.ve
  (i.sfuCycles ≠ 0 && decide (x.cyc < x.sfuFree)) || (i.fdivCycles ≠ 0 && decide (x.cyc < x.vdivFree)) ||
  (i.idivCycles ≠ 0 && decide (x.cyc < x.idivFree)) || (i.redCycles ≠ 0 && decide (x.cyc < x.vlongFree))

/-- Whether an extension request must wait: the initiation interval, or 16 requests outstanding (R147). -/
def State.extBusy (s : State) (n : Nat) (x : Slice) (b : Bundle) : Bool :=
  let op := (vSlot b.ve).op
  if op < 0xE0 then false
  else
    let last := spGet 0 x.extLast (op - 0xE0)
    decide (16 ≤ x.ext.length) || (last ≠ 0 && decide (x.total + 1 < last + fld (s.extDesc n (op - 0xE0)) 29 24))

/-- Whether a bundle stalls (R238). -/
def State.stalls (s : State) (n : Nat) (x : Slice) (b : Bundle) : Bool :=
  x.blocks (b.reads (fun h => s.desc x.ctx h) x) b.writes || x.vecUnitBusy b || s.extBusy n x b ||
  ((b.scOp = 0x0C || b.scOp = 0x0D) && decide (x.cyc < x.divFree)) ||
  (decide (8 ≤ x.loads) && (b.ldOp = 2 || b.ldOp = 3 || ((b.ldOp = 1 || (b.ldOp = 4 && !bitOf b.ld 18)) && !s.tEmpty x b.ld))) ||
  (decide (8 ≤ x.stores) && (b.stOp = 2 || b.stOp = 3 || (b.stOp = 1 && !s.tEmpty x b.st))) ||
  ((s.tbReads x b).any fun r => s.bufHit n 4096 r)

/-! ## Waits (R241, R242) -/

/-- Whether nothing of a slice is outstanding, as END, SEGEND and TBAR ask. -/
def State.quiet (s : State) (n : Nat) : Bool :=
  let x := s.slice n
  x.pend = [] && x.xfers = [] && x.products = [] && x.skid = [] && x.plane = [] && x.ext = [] && s.sliceBus n = []

/-- Whether a class of WAITQ has nothing outstanding. -/
def State.classIdle (s : State) (n k : Nat) : Bool :=
  let x := s.slice n
  match k with
  | 0 => x.loads = 0
  | 1 => x.stores = 0
  | 2 => x.products = [] && x.skid = [] && x.plane = []
  | 3 => s.sliceBus n = []
  | 4 => x.ext = []
  | _ => !x.pend.any fun p => match p.dst with | .lanes .. | .zrd .. => true | _ => false

/-- What a wait that is over leaves: `none` while it lasts. -/
def State.waitDone (s : State) (n : Nat) (w : Wait) : Option State :=
  let c := (s.slice n).ctx
  match w with
  | .finish | .segend | .tbar => none
  | .fence => if s.classIdle n 1 && s.classIdle n 3 then some s else none
  | .classes m => if (bitsOf m 6).all fun k => s.classIdle n k then some s else none
  | .tag t => if (s.sliceBus n).any fun b => b.tag = (n <<< 12) ||| t then none else some s
  | .token t k =>
    let v := spGet 0 (s.cx c).tokens t
    if k ≤ v then some (s.modCx c fun y => { y with tokens := spPut 0 y.tokens t (v - k) }) else none
  | .gbar =>
    let y := s.cx c
    let s := if y.gbar = [] && (s.gang c).all (fun k => (s.slice k).run && (s.slice k).ctx = c && (s.slice k).wait = some .gbar)
      then s.setCx c { y with gbar := s.gang c } else s
    if (s.cx c).gbar.contains n then some (s.modCx c fun y => { y with gbar := y.gbar.filter (· ≠ n) }) else none

/-- Go on after a repetition, or after its wait. -/
def Slice.goTo (x : Slice) (at_ : Nat × Nat) : Slice :=
  { x with pc := at_.1 % 2 ^ 14, rep := at_.2, begun := at_.2 ≠ 0, wait := none, resume := none }

/-! ## Halts (R289, R290) -/

/-- A member begins a bundle: the armed channels that count its arrival, and those that fire (R289, R290). -/
def State.haltArrive (s : State) (c member pc : Nat) : State × List Nat :=
  (List.range 4).foldl (fun (s, fired) h =>
    let g := fun (f : Fld) => s.f plvP (f.at h)
    if s.on plvP (Plv.HALT_ARM.at h) && g Plv.HALT_CTX = c && g Plv.HALT_MEMBER = member && g Plv.HALT_ADDR = pc && g Plv.HALT_REMAIN ≠ 0 then
      let left := g Plv.HALT_REMAIN - 1
      let s := s.setF plvP (Plv.HALT_REMAIN.at h) left
      if left = 0 then ((((s.setB plvP (Plv.HALT_ARM.at h) false).setB plvP (Plv.HALT_FIRED.at h) true).irq plvP 2), fired ++ [h])
      else (s, fired)
    else (s, fired)) (s, [])

/-- When every member of a halted gang has stopped and has nothing outstanding, a host program completes `HALTED` and a stream program is
cut (R290). -/
def State.haltSettle (s : State) (c : Nat) : State :=
  if (s.running c).all fun n => (s.slice n).halted && s.quiet n then
    if s.isStream c then s.cutStream c else s.haltHost c
  else s

/-! ## The cycle -/

/-- What issuing a repetition answers. -/
inductive Issue where
  | stall
  | fault (f : FaultInfo)
  | ok (s : State) (jump : Option Nat) (wait : Option Wait)

/-- Issue every slot of a repetition from the slice `x` (R222, R237). -/
def State.issueAll (s : State) (n : Nat) (x : Slice) (b : Bundle) : Issue :=
  match s.issueMatrix n x b with
  | .stall => .stall
  | _ =>
    match s.issueScalar n x b with
    | .error f => .fault f
    | .ok (s, jump) =>
      match s.issueVector n x b with
      | .error f => .fault f
      | .ok s =>
        match s.issueMatrix n x b with
        | .stall => .stall
        | .fault f => .fault f
        | .ok s =>
          match s.issueLoad n x b with
          | .error f => .fault f
          | .ok none => .stall
          | .ok (some s) =>
            match s.issueStore n x b with
            | .error f => .fault f
            | .ok s =>
              match s.issueSync n x b with
              | .error f => .fault f
              | .ok (s, w) => .ok s jump w

/-- Poison the first granule of a buffer range as a read sees it; answers whether it was clean. -/
def Slice.spoilTb (x : Slice) (r : Nat × Nat × Nat) : Slice × Bool :=
  let key := tbKey r.1 r.2.1 / 32 * 32
  if spGet false x.tbValid (key / 32) && !(List.range 32).any (fun i => spGet false x.tbPoison (key + i)) then
    ({ x with tbPoison := spRun false x.tbPoison key (List.replicate 32 true) }, true)
  else (x, false)

/-- The register that holds a unit. -/
def hitName : RegHit → RegName
  | .scalar code => .s code
  | .lane r _ => .v r

/-- Whether a unit is not poisoned already, so that a failure of its check is a detection (R360). -/
def hitClean (x : Slice) : RegHit → Bool
  | .scalar _ => true
  | .lane r l => !x.laneBad r l

/-- The registers that the predicate of a bundle reads (R218). -/
def Bundle.predReads (b : Bundle) (x : Slice) : List RegName := if b.pen then [.s (24 + b.pk), .s (16 + fld (x.kReg b.pk) 34 32)] else []

/-- The first slot of a bundle that reads a register; the header counts with the scalar slot. -/
def Bundle.slotReading (d : Nat → Desc) (b : Bundle) (x : Slice) (r : RegName) : Option Nat :=
  let v := vSlot b.ve
  [b.predReads x ++ b.scalarReads x, v.sources.map .v ++ v.scalarReads, b.matrixReads d, lsReads d b.ld false, lsReads d b.st true,
   b.syncReads].findIdx? fun l => l.contains r

/-- The units of registers that a bundle reads and whose check fails (R360 point 0x7). -/
def Bundle.struck (d : Nat → Desc) (b : Bundle) (x : Slice) (up : Upset) : List RegHit :=
  up.regs.eraseDups.filter fun h => (b.slotReading d x (hitName h)).isSome && hitClean x h

/-- Detections at register-file reads (R360 point 0x7). -/
def State.regHits (s : State) (n : Nat) (x : Slice) (b : Bundle) (hits : List RegHit) : State :=
  hits.foldl (fun s h => s.parityAt n 7 ((b.slotReading (fun k => s.desc x.ctx k) x (hitName h)).getD 0) x.pc) s

/-- The fault of a struck scalar register whose value is about to enter an A, C or K register, the payload of STDEC, the cookie of EVENT or an
address of DCMP; in slot order (R362). -/
def Bundle.hitFault (b : Bundle) (x : Slice) (hits : List RegHit) : Option FaultInfo :=
  let bad := fun (l : List RegName) => l.any fun r => hits.any fun h => decide (hitName h = r)
  let f := fun (slot detail : Nat) => some ({ cause := fcPoison, slot := slot, bundle := x.pc, detail := detail } : FaultInfo)
  let an := fun (v : Nat) => RegName.s (fld v 17 14)
  let inc := fun (v : Nat) => (v % 16 = 1 && bitOf v 34) || (v % 16 = 2 && bitOf v 33)
  if b.scalarWrites ≠ [] && bad (b.scalarReads x) then f 0 0
  else if inc b.ld && bad [an b.ld] then f 3 0
  else if inc b.st && bad [an b.st] then f 4 0
  else if b.stOp = 4 && bad [.s (fld b.st 22 18)] then f 4 3
  else if bad b.syncReads then f 5 (if b.syOp = 0xA then 4 else 5)
  else none

/-- A register's operands as the slots see them: struck lanes are poisoned, and with a struck counter every lane of VSTAT, whose result depends on it
(R361). -/
def Slice.strikeRegs (x : Slice) (b : Bundle) (hits : List RegHit) : Slice :=
  let i := vSlot b.ve
  let mark := fun (x : Slice) (r l : Nat) => { x with vPoison := spPut false x.vPoison (r * 64 + l) true }
  let x := hits.foldl (fun x h => match h with
    | .lane r l => mark x r l
    | .scalar _ => x) x
  if i.op = 0x41 && hits.contains (.scalar (16 + fld i.aux 2 0)) then
    let r := (i.sources.find? fun r => r ≠ i.vm).getD i.va
    (List.range 64).foldl (fun x l => mark x r l) x
  else x

/-- What VSPLAT and STS of a struck register give from operation `from_` on: poisoned lanes and bytes (R361). -/
def Slice.strikeResults (x : Slice) (from_ : Nat) (b : Bundle) (hits : List RegHit) : Slice :=
  let bad := fun (code : Nat) => hits.contains (.scalar code)
  let i := vSlot b.ve
  let x := if i.op = 0x58 && bad (fld i.aux 4 0) then
      { x with pend := x.pend.map fun p => match p.dst with
          | .lanes r l => if from_ ≤ p.id then { p with dst := .lanes r (l.map fun e => (e.1, e.2.1, true)) } else p
          | _ => p }
    else x
  if b.stOp = 3 && bad (fld b.st 22 18) then
    { x with xfers := x.xfers.map fun t => match t.op with
        | .store w f => if from_ ≤ t.id then { t with op := .store (w.map fun e => { e with poison := true }) f } else t
        | _ => t }
  else x

/-- Parity failures found as the slots read their operands (R360 points 0x4 and 0x7): the slice as the slots see it, and the state with
what the detections record. -/
def State.upsets (s : State) (n : Nat) (x : Slice) (b : Bundle) (up : Upset) (hits : List RegHit) : State × Slice :=
  let (s, x) := match up.tileBuf, s.tbReads x b with
    | true, r :: _ => let (y, fresh) := x.spoilTb r; if fresh then (s.parityAt n 4 (if b.ldOp = 2 then 3 else if b.stOp = 1 then 4 else 2) x.pc, y) else (s, x)
    | _, _ => (s, x)
  (s.regHits n x b hits, x.strikeRegs b hits)

/-- A bundle waits a cycle (R238). -/
def State.stallCycle (s : State) (n : Nat) : State := (s.modSlice n fun x => { x with stalled := true }).perf n SlcPerf.STALLS

/-- Mark the ZRD that this repetition issued as striking an accumulator parity error (R360 point 0x5). -/
def Slice.spoilZrd (x : Slice) (from_ : Nat) : Slice :=
  { x with pend := x.pend.map fun p => match p.dst with
      | .zrd r b row m _ g => if from_ ≤ p.id then { p with dst := .zrd r b row m true g } else p
      | _ => p }

/-- One repetition of the bundle at the PC, or its end when the predicate fails (R218, R222). -/
def State.repetition (s : State) (n : Nat) (b : Bundle) (up : Upset) : State :=
  let x := s.slice n
  let next := (x.pc + 1, 0)
  if b.rept = 0 then s.modSlice n fun x => x.goTo next
  else
    let k := b.pk
    let hits := b.struck (fun h => s.desc x.ctx h) x up
    if x.blocks (b.predReads x) [] then s.stallCycle n
    else if b.pen && (x.pred k = b.pneg) then
      ((s.regHits n x b (hits.filter fun h => (b.predReads x).contains (hitName h))).modSlice n fun x => x.goTo next).perf n SlcPerf.PRED_FALSE
    else
      let ext := (vSlot b.ve).op
      match b.bad with
      | some slot => s.programFault n { cause := fcSeqIllegal, slot := slot, bundle := x.pc }
      | none =>
        if 0xE0 ≤ ext && !s.extAdmitted n (ext - 0xE0) then s.programFault n { cause := fcSeqIllegal, slot := 1, bundle := x.pc }
        else if s.stalls n x b then s.stallCycle n
        else
          let (s, y) := s.upsets n x b up hits
          match s.issueAll n y b, b.hitFault x hits with
          | .stall, _ => s.stallCycle n
          | .fault f, none => s.programFault n f
          | .fault f, some g => s.programFault n (if g.slot < f.slot then g else f)
          | .ok _ _ _, some g => s.programFault n g
          | .ok s jump wait, none =>
            let s := s.modSlice n fun z => z.strikeResults x.nextId b hits
            let s := if up.accum then s.modSlice n fun z => z.spoilZrd x.nextId else s
            let onward : Nat × Nat := match jump with
              | some t => (t, 0)
              | none => if x.rep + 1 < b.rept then (x.pc, x.rep + 1) else next
            let s := (s.modSlice n fun z =>
              { z with stalled := false, cyc := if jump.isSome then z.cyc + 1 else z.cyc, wait := wait, resume := some onward }).perf n SlcPerf.REPS
            match wait with
            | none => s.modSlice n fun z => z.goTo onward
            | some w => match s.waitDone n w with
              | some s => s.modSlice n fun z => z.goTo onward
              | none => s

/-- The handles that the slots of a bundle name (R230, R233). -/
def Bundle.handles (b : Bundle) : List Nat :=
  (if b.mxOp = 1 ∨ b.mxOp = 2 then [fld b.mx 13 4, fld b.mx 23 14] else if b.mxOp = 3 then [fld b.mx 13 4] else []) ++
  (if b.ldOp = 1 ∨ b.ldOp = 3 ∨ b.ldOp = 4 then [fld b.ld 13 4] else []) ++ (if b.stOp = 1 ∨ b.stOp = 3 then [fld b.st 13 4] else [])

/-- A slice reads the descriptors of a bundle as it begins it, and those of their index tensors (R105, R106, R247; log 7). -/
def State.noteDescs (s : State) (n : Nat) (x : Slice) (b : Bundle) : State :=
  if s.syn = [] then s
  else b.handles.foldl (fun s h =>
    let rd : Reader := { src := 4, unit := n, ctx := x.ctx, bundle := x.pc }
    let d := s.desc x.ctx h
    let s := s.noteDesc rd x.ctx h
    if d.idxEn then s.noteDesc rd x.ctx d.idxHandle else s) s

/-- The start of a bundle, where its first cycle comes: the halt channels and the count (R289). -/
def State.beginBundle (s : State) (n : Nat) (b : Bundle) (up : Upset) : State :=
  let x := s.slice n
  if x.begun then s.repetition n b up
  else
    let (s, fired) := s.haltArrive x.ctx x.member x.pc
    if fired ≠ [] then
      let s := (s.cancelRa x.ctx (s.gang x.ctx)).modCx x.ctx fun y => { y with halting := fired }
      (s.modSlice n fun z => { z with halted := true }).haltSettle x.ctx
    else (((s.noteDescs n x b).modSlice n fun z => { z with begun := true }).perf n SlcPerf.BUNDLES).repetition n b up

/-- The bundle at the PC (R219). -/
def Slice.fetch (x : Slice) : Bundle := Bundle.ofWord (spGet 0 x.store x.pc)

/-- What the sequencer does in a cycle: it waits, stalls, evaluates a predicate or issues a repetition (R222). -/
def State.seqCycle (s : State) (n : Nat) (up : Upset) : State :=
  let x := s.slice n
  if x.halted then s.haltSettle x.ctx
  else if (s.cx x.ctx).halting ≠ [] && (!x.begun || x.wait.isSome) then
    (s.modSlice n fun z => { z with halted := true }).haltSettle x.ctx
  else
    match x.wait with
    | none => s.beginBundle n x.fetch up
    | some w =>
      match s.waitDone n w with
      | none => s
      | some s =>
        let s := s.modSlice n fun z => z.goTo (z.resume.getD (z.pc + 1, 0))
        let x := s.slice n
        s.beginBundle n x.fetch up

/-- The ZRD that has bank `z`'s row port: the oldest with rows left to read (R171, R184). -/
def Slice.zrdNext (x : Slice) (z : Nat) : Option PendWrite :=
  x.pend.find? fun p => match p.dst with
    | .zrd _ b _ _ _ got => b = z && decide (got.length < 64)
    | _ => false

/-- A bank's row port serves the vector slot for a cycle: the oldest ZRD reads its next row once that is complete, and its result follows 10 cycles
after the last one (R171, R181, R184). A parity failure is found at the first row (R360 point 0x5). -/
def State.zrdRow (s : State) (n z : Nat) : State :=
  let x := s.slice n
  match x.zrdNext z with
  | none => s
  | some p =>
    match p.dst with
    | .zrd r b row mask bad got =>
      let j := row + got.length / 8
      if !x.zrdReady (s.kphys n) (s.nphys n) z j p.id then s
      else
        let fresh := bad && got = [] && !spGet false x.zPoison (zKey z row 0)
        let got := got ++ (List.range 8).map fun c => (spGet 0 x.z (zKey z j c), spGet false x.zPoison (zKey z j c) || (fresh && c = 0))
        let p' := { p with dst := .zrd r b row mask bad got, ready := if got.length = 64 then x.cyc + 10 else 0 }
        let y := { x with pend := x.pend.map fun (q : PendWrite) => if q.id = p.id then p' else q }
        let s := s.setSlice n (y.usePort z)
        if fresh then s.parityAt n 5 1 x.pc else s
    | _ => s

/-- Whether a ZRD waits in this cycle for a row (R172, R184). -/
def State.zrdLate (s : State) (n : Nat) : Bool :=
  let x := s.slice n
  (List.range 4).any fun z => (x.zrdNext z).any fun p => match p.dst with
    | .zrd _ _ row _ _ got => !x.zrdReady (s.kphys n) (s.nphys n) z (row + got.length / 8) p.id
    | _ => false

/-- Whether the vector instruction at the PC stalled in this cycle for a unit (R182). -/
def Slice.vecWaits (x : Slice) : Bool :=
  let b := x.fetch
  x.stalled && !x.blocks (b.predReads x) [] && x.vecUnitBusy b

/-- BUNDLE: one engine cycle of a slice that runs: the sequencer's part, then that of the row ports which serve the vector slot (R171, R200, R222). -/
def execBundle (n : Fin 16) (up : Upset) (s : State) : Result :=
  act (s.clocked && (s.slice n.val).run) s fun s =>
    let s := (s.modSlice n.val fun x => { x with cyc := x.cyc + 1, total := x.total + 1, stalled := false }).seqCycle n.val up
    if !(s.slice n.val).run then s
    else
      let s := if s.zrdLate n.val || (s.slice n.val).vecWaits then s.perf n.val SlcPerf.VEC_STALL else s
      (List.range 4).foldl (fun s z => s.zrdRow n.val z) s

/-! ## Results (R183, R184, R237) -/

/-- Write lanes of a register by the instruction that is `order`-th in the program: in the same cycle a later instruction's lanes stand (R183). -/
def Slice.writeLanes (x : Slice) (order vd : Nat) (vals : List (Nat × W32 × Bool)) : Slice :=
  let (cy, o, ls) := spGet (0, 0, []) x.vlast vd
  let same := decide (cy = x.cyc) && ls ≠ []
  let vals := if same && order < o then vals.filter fun v => !ls.contains v.1 else vals
  let x := x.setLanes vd vals
  { x with vlast := spPut (0, 0, []) x.vlast vd (x.cyc, if same then max o order else order, (if same then ls else []) ++ vals.map (·.1)) }

/-- OP_RESULT_WRITE: result `i` of a slice is written, so that an instruction that issues its latency after it can read it (R181, R237). -/
def execOpResultWrite (n : Fin 16) (i : Nat) (s : State) : Result :=
  actSome ((s.slice n.val).pend.find? fun p => p.id = i) s fun p s =>
    let x := s.slice n.val
    if !s.clocked || x.cyc + 1 < p.ready then s
    else
      let y := { x with pend := x.pend.filter fun q => q.id ≠ i }
      match p.dst with
      | .a r v => s.setSlice n.val (y.setA r v.toNat)
      | .c r v => s.setSlice n.val (y.setC r v.toNat)
      | .k r v => s.setSlice n.val (y.setK r v.toNat)
      | .lanes r vals => s.setSlice n.val (y.writeLanes i r vals)
      | .zrd r _ _ mask _ got =>
        if got.length < 64 then s
        else s.setSlice n.val (y.writeLanes i r (mask.map fun l => let e := got.getD l (0, false); (l, e.1, e.2)))

/-! ## Transfers (R240, R253 to R257, R281, R314, R343 to R349) -/

/-- The device ranges that a transfer touches, and whether it writes them. -/
def XferOp.spans (d : Nat → Desc) : XferOp → List (Nat × Nat) × Bool
  | .ldt h _ _ _ rows => (rows.map fun r => (r.va, r.bytes (d h).fmt), false)
  | .lds _ va => ([(va, 4)], false)
  | .store w _ => (w.map fun b => (b.at_, 1), true)
  | _ => ([], false)

/-- Whether a transfer must wait for an earlier one: an overlapping device access of which one writes, an overlapping buffer write, or an
earlier load into the weight FIFO (R240, R253). -/
def Slice.xferBlocked (x : Slice) (d : Nat → Desc) (t : Xfer) : Bool :=
  let fifo := fun (o : XferOp) => match o with | .ldt _ _ buf _ _ => buf = 1 | .claim _ => true | _ => false
  let (sp, w) := t.op.spans d
  x.xfers.any fun e => decide (e.id < t.id) &&
    ((fifo e.op && fifo t.op) ||
     ((e.ranges d).any fun a => (t.ranges d).any fun b => rangesHit 1 a b) ||
     (let (sq, v) := e.op.spans d
      (w || v) && sp.any fun a => sq.any fun b => decide (a.1 < b.1 + b.2) && decide (b.1 < a.1 + a.2)))

/-- The elements of a tile row from memory: converted, with marks; with the flags, and whether `bad0`, which poisons the row's first beat, found that
beat clean; or the address that is not mapped (R210, R360). -/
def State.readRow (s : State) (rd : Reader) (n c : Nat) (d : Desc) (r : TRow) (bad0 : Bool) :
    State × Except Nat (List (Nat × Bool) × Nat × Bool) :=
  if r.n = 0 then (s, .ok ([], 0, false))
  else
    match s.readVa rd c r.va (r.bytes d.fmt) with
    | (s, .error a) => (s, .error a)
    | (s, .ok (l, bad)) =>
      let k := min (32 - r.va % 32) bad.length
      let fresh := bad0 && !bad.headD false
      let bad := if bad0 then List.replicate k true ++ bad.drop k else bad
      let el := r.elems d.fmt l
      let (out, fl) := (List.range el.length).foldl (fun (out, fl) j =>
        let k := dConvert d.fmt d.bufFmt (el.getD j 0)
        (out ++ [(k.v, elemBad d.fmt bad (j + b2n r.nib))], fl ||| k.fl)) ([], 0)
      (s.openBanks n c r.va (r.bytes d.fmt), .ok (out, fl, fresh))

/-- Every row of a tile; `bad0` poisons the first beat read. -/
def State.readRows (s : State) (rd : Reader) (n c : Nat) (d : Desc) (rows : List TRow) (bad0 : Bool) :
    State × Except Nat (List (TRow × List (Nat × Bool)) × Nat × Bool) :=
  rows.foldl (fun (s, acc) r =>
    match acc with
    | .error a => (s, .error a)
    | .ok (out, fl, fresh) =>
      match s.readRow rd n c d r (bad0 && out.all fun e => e.1.n = 0) with
      | (s, .error a) => (s, .error a)
      | (s, .ok (els, f, g)) => (s, .ok (out ++ [(r, els)], fl ||| f, fresh || g))) (s, .ok ([], 0, false))

/-- The FIFO rows of a tile: those that lie inside (R253, R255). -/
def fifoRows (d : Desc) (rows : List (TRow × List (Nat × Bool))) : List FifoRow :=
  (rows.filter fun (r, _) => r.n ≠ 0).map fun (_, els) =>
    { bytes := (packMarked d.bufFmt els).map (·.1), elems := els.length, poison := els.any (·.2), room := d.trow }

/-- Put the rows of a loaded tile into its buffer, copy by copy (R253 to R257). -/
def Slice.putTile (x : Slice) (d : Desc) (buf off : Nat) (rows : List (TRow × List (Nat × Bool))) : Slice :=
  if buf = 1 then { x with fifo := x.fifo ++ fifoRows d rows }
  else
    ((rows.map fun (r, _) => r.copy).eraseDups).foldl (fun x o =>
      x.tbWrite buf (d.copyOff off o) (copyImage d buf ((rows.filter fun (r, _) => r.copy = o).map (·.2)))) x

/-- A fault that a transfer returns (R389). -/
def xferFault (t : Xfer) (cause slot detail va : Nat) : FaultInfo :=
  { cause := cause, slot := slot, bundle := t.bundle, detail := detail, addr := va, akind := 3, async_ := true }

/-- A run-ahead read has come in: its beats are counted; one that met a fault is dropped; its tile is held where it may still be claimed, and else
discarded (R343 to R349). -/
def State.raheadRead (s : State) (n : Nat) (t : Xfer) (badParity keep : Bool) : State :=
  match t.op with
  | .rahead c h an e rows =>
    let d := s.desc c h
    let rd : Reader := { src := 4, unit := n, ctx := c, slot := 3, bundle := t.bundle, ahead := true }
    let beats := rows.flatMap fun r => if r.n = 0 then [] else s.beatsVa c r.va (r.bytes d.fmt)
    match s.readRows rd n c d rows false with
    | (s, .error _) => s.perf n SlcPerf.RA_DROPPED
    | (s, .ok (out, _)) =>
      let q := fifoRows d out
      let s := s.perf n SlcPerf.RA_BEATS beats.length
      let ue := q.any (·.poison)
      let s := if badParity && !(q.take 1).any (·.poison) then s.parityAt n 1 3 t.bundle else s
      if ue then s.perf n SlcPerf.RA_DROPPED
      else if !keep || !s.epochLives c e then s
      else
        let q := if badParity then (q.take 1).map (fun f => { f with poison := true }) ++ q.drop 1 else q
        s.modSlice n fun x => { x with ra := x.ra ++ [{ ctx := c, handle := h, an := an, epoch := e, rows := q, beats := beats, bytes := raBytes d rows }] }
  | _ => s

/-- TRANSFER_COMPLETE: transfer `i` of a slice completes, after the earlier ones that it must follow (R240, R281); a run-ahead read whose data is to
be discarded completes whatever the slice does (R347). -/
def execTransferComplete (n : Fin 16) (i : Nat) (badParity : Bool) (s : State) : Result :=
  match (s.slice n.val).stale.find? fun t => t.id = i with
  | some t => act s.clocked s fun s =>
      (s.raheadRead n.val t badParity false).modSlice n.val fun x => { x with stale := x.stale.filter fun u => u.id ≠ i }
  | none =>
  actSome ((s.slice n.val).xfers.find? fun t => t.id = i) s fun t s =>
    let x := s.slice n.val
    let c := x.ctx
    if !s.clocked || !x.run || x.xferBlocked (fun h => s.desc c h) t then s
    else
      let rd : Reader := { src := 4, unit := n.val, ctx := c, slot := 3, bundle := t.bundle }
      let drop := fun (s : State) => s.modSlice n.val fun x => { x with xfers := x.xfers.filter fun u => u.id ≠ i }
      match t.op with
      | .ldt h _ buf off rows =>
        let d := s.desc c h
        match s.readRows rd n.val c d rows badParity with
        | (s, .error va) => s.programFault n.val (xferFault t fcXlate 3 0 va)
        | (s, .ok (out, fl, fresh)) =>
          let s := if fresh then s.parityAt n.val 1 3 t.bundle else s
          drop (s.modSlice n.val fun x => (x.putTile d buf off out).flag fl)
      | .ldv vd vals => drop (s.modSlice n.val fun x => x.writeLanes i vd vals)
      | .lds dst va =>
        match s.readVa rd c va 4 with
        | (s, .error va) => s.programFault n.val (xferFault t fcXlate 3 0 va)
        | (s, .ok (l, bad)) =>
          let ue := bad.any id
          let s := if badParity && !ue then s.parityAt n.val 1 3 t.bundle else s
          let s := s.openBanks n.val c va 4
          if ue || badParity then s.programFault n.val (xferFault t fcPoison 3 0 va)
          else drop (s.modSlice n.val fun x => x.swrite32 dst (leNat l))
      | .claim rows => drop (s.modSlice n.val fun x => { x with fifo := x.fifo ++ rows })
      | .rahead .. => drop (s.raheadRead n.val t badParity true)
      | .store w flags =>
        match s.storeMiss c w with
        | some va => s.programFault n.val (xferFault t fcXlate 4 1 va)
        | none =>
          let fresh := badParity && !(w.take 32).all (·.poison)
          let s := if fresh then s.parityAt n.val 2 4 t.bundle else s
          let w := if fresh then (w.take 32).map (fun b => { b with poison := true }) ++ w.drop 32 else w
          drop (s.applyStore n.val c t w flags)
      | .stv buf off l => drop (s.modSlice n.val fun x => x.tbWrite buf off l)

/-! ## The extension unit (R148, R149, R151) -/

/-- The lanes that a response must carry (R149). -/
def ExtReq.required (q : ExtReq) : W64 := if q.shapeR = 0 then 0 else if q.shapeR = 1 then 1 else q.lanes

/-- The first check of R149 that a response fails, as (cause, detail). -/
def extCheck (q : Option ExtReq) (r : ExtRsp) : Option (Nat × Nat) :=
  let tag := r.tag.toNat
  if r.cpar ≠ parity (tag + 16 * r.lanes.toNat) 68 then some (fcExtParity, tag ||| (b2n r.err <<< 4))
  else match q with
    | none => some (fcExtProtocol, tag)
    | some q =>
      if r.err then some (fcExtParity, tag ||| 16)
      else if r.lanes ≠ q.required then some (fcExtProtocol, tag)
      else if (List.range 64).any fun l => r.lanes.getLsbD l && decide (r.par.getD l 0 ≠ bytePar (r.data.getD l 0)) then some (fcExtParity, tag)
      else none

/-- EXT_RESPONSE: a response is checked in order, and its valid lanes are written, or the program faults (R149). One that comes after its
deadline meets the watchdog (R148). DESIGN CHOICE: nothing marks a response as the answer of a request that timed out or was killed earlier; while a
program runs it is checked like every other, so its tag is not outstanding, or answers the request that has the tag now; while none runs it is
discarded (log 49). -/
def execExtResponse (n : Fin 16) (r : ExtRsp) (s : State) : Result :=
  act (s.clocked && (s.slice n.val).run) s fun s =>
    let x := s.slice n.val
    let q := x.ext.find? fun q => q.tag = r.tag.toNat
    if q.any fun q => decide (q.deadline < x.cyc) then s
    else
      match extCheck q r, q with
      | some (cause, detail), q =>
        (s.bump (extP n.val) SlcExt.FAULT_CNT).programFault n.val
          { cause := cause, slot := 1, bundle := (q.map (·.bundle)).getD x.pc, detail := detail, async_ := true }
      | none, some q =>
        let vals := (bitsOf r.lanes.toNat 64).map fun l => (l, r.data.getD l 0, false)
        let s := s.modSlice n.val fun x => { x.writeLanes q.order q.vd vals with ext := x.ext.filter fun e => e.tag ≠ q.tag }
        match q.tile with
        | none => s
        | some t =>
          let y := s.slice n.val
          s.candidate n.val { t with result := (if q.shapeR = 0 then zeros 256 else (List.range 64).flatMap fun l => leBytes 4 (y.lane q.vd l)) ++ zeros 256 }
      | none, none => s

/-- EXT_WATCHDOG: no response has come by the deadline, so the program is cut and `EXT_TIMEOUT` recorded (R148). -/
def execExtWatchdog (n : Fin 16) (tag : BitVec 4) (s : State) : Result :=
  let x := s.slice n.val
  actSome (x.ext.find? fun q => q.tag = tag.toNat) s fun q s =>
    if !s.clocked || !x.run || x.cyc ≤ q.deadline then s
    else
      let s := (s.bump (extP n.val) SlcExt.TIMEOUT_CNT).record
        { cls := 0x13, utype := 1, uidx := n.val, ctx := x.ctx, slot := 1, bundle := q.bundle, syn := 0xE0 + q.op, detail := q.tag }
      if s.isStream x.ctx then s.cutStream x.ctx else s.cutHost x.ctx

end Sys2Proof.Machine
end

