-- ==== Sys2Proof/Machine/Sched.lean ====
section
/-! DEFINITION. The window schedule: minimum gaps, refresh points, the checks of a commit, the derived values, and how much time a slot
has left (R55 to R62, R66). -/

namespace Sys2Proof.Machine

def tEntry : Nat := 60
def tRef : Nat := 220
def pointSpan : Nat := 13780
def pointLen : Nat := 1820

/-- The required average refresh interval of a band (R55). -/
def bandInterval (band : Nat) : Nat := if band = 0 then 3900 else 1950

def longMode (p : Nat) : Bool := decide (15600 < p)

/-- The minimum gap length (R56). -/
def gMin (p band : Nat) : Nat := if longMode p then pointLen else tEntry + cdiv p (bandInterval band) * tRef

/-- The starts of the host-window refresh points (R57). -/
def Sched.points (c : Sched) : List Nat :=
  if !longMode c.period then []
  else
    let final := c.period - c.tol - pointLen
    (((List.range 80).map fun k => c.cend + (k + 1) * pointSpan).filter fun t => decide (t + pointLen ≤ final)) ++ [final]

/-- The refresh-free host intervals of a tick, as (start, end) offsets; none begins before `GAP_END`, and one that a point leaves no room for is
empty (R62). -/
def Sched.hostSpans (c : Sched) : List (Nat × Nat) :=
  if !longMode c.period then [(c.gend, c.period - c.tol)]
  else
    let p := c.points
    let starts := c.gend :: p.map fun t => max c.gend (t + pointLen)
    let ends := p ++ [c.period - c.tol]
    List.zip starts ends

/-- `HOST_CERT_NS` (R62). -/
def Sched.hostCert (c : Sched) : Nat := (c.hostSpans.map fun (a, b) => b - a).foldl max 0

def Sched.computeCert (c : Sched) : Nat := c.cend - c.cstart

/-- The first check of R60 that a schedule fails; 0 where it passes. `cs` and `ch` are the certified lengths of the live programs. -/
def Sched.check (c : Sched) (cs ch : Nat) : Nat :=
  if c.period < 1000 ∨ 1000000 < c.period ∨ 500 < c.tol then 1
  else if c.cstart < 60 ∨ c.cend ≤ c.cstart then 2
  else if (c.gend : Int) - c.cend < gMin c.period 0 then 3
  else if !longMode c.period ∧ (c.period : Int) - c.tol - c.cend < gMin c.period 1 then 4
  else if (c.period : Int) - c.tol < c.gend then 5
  else if longMode c.period ∧ pointSpan < c.cend + 2 * c.tol then 6
  else if c.dec < 40 ∨ 120 < c.dec then 7
  else if c.computeCert < cs ∨ c.hostCert < ch then 8
  else 0

/-- The tolerance in force: 0 with the internal source (R53, R60). -/
def State.tolOf (s : State) (tol : Nat) : Nat := if s.tkg.internal then 0 else tol

/-- The active schedule. -/
def State.sched (s : State) : Sched :=
  { period := s.f winP TkgWin.ACT_PERIOD, cstart := s.f winP TkgWin.ACT_CSTART, cend := s.f winP TkgWin.ACT_CEND,
    gend := s.f winP TkgWin.ACT_GEND, dec := s.f winP TkgWin.ACT_DECISION_OFFSET, tol := s.tolOf (s.f winP TkgWin.ACT_TOL) }

/-- The pending registers as a schedule. -/
def State.pendingSched (s : State) : Sched :=
  { period := s.f winP TkgWin.PERIOD, cstart := s.f winP TkgWin.COMPUTE_START, cend := s.f winP TkgWin.COMPUTE_END,
    gend := s.f winP TkgWin.GAP_END, dec := s.f winP TkgWin.DECISION_OFFSET, tol := s.f winP TkgWin.TOL }

/-- The time in ns since the tick edge. -/
def State.inTick (s : State) : Nat := s.time - s.tkg.edgeAt

/-- Whether the compute window or a refresh-free host interval is open, and the offset at which that slot ends (R66). -/
def State.slotEnd (s : State) : Option Nat :=
  let c := s.sched
  let t := s.inTick
  match s.tkg.phase with
  | .compute => if t < c.cend then some c.cend else none
  | .host =>
    if s.time < s.tkg.refreshEndsAt then none
    else
      let next := (c.points.drop s.tkg.pointsDone).headD (c.period - c.tol)
      if t < next then some next else none
  | _ => none

/-- The start of the slot that is open now. -/
def State.slotStart (s : State) : Nat :=
  if s.tkg.phase = .compute then s.tkg.edgeAt + s.sched.cstart else max (s.tkg.edgeAt + s.tkg.gapEndAt) s.tkg.refreshEndsAt

/-- The engine cycles since the slot or window start (R226, R291). -/
def State.slotCycles (s : State) : Nat := (s.time - s.slotStart) * s.f govP MgtGov.CLK_MHZ / 1000

/-- Slices that a live stream context holds: those pinned by its admitted program (R66, R286). -/
def State.pinned (s : State) (n : Nat) : Bool :=
  (List.range 4).any fun c =>
    match (s.cx c).program with
    | some p => p.gang.contains n
    | none => false

end Sys2Proof.Machine
end

