-- ==== Sys2Proof/Machine/Program.lean ====
section
/-! DEFINITION. Programs as wholes: starting a slice, program and segment ends, the dispatcher, and the halt channels' arming and dumps
(R66 to R69, R241, R289 to R291, R346, R352). -/

namespace Sys2Proof.Machine

/-! ## Starting work on a slice -/

/-- The registers, accumulators, stationary operands and skid queue of a slice set to zero (R175, R228; the tick-start row of file 03). -/
def Slice.clear (x : Slice) : Slice :=
  { x with a := [], c := [], k := [], v := [], vPoison := [], z := [], zPoison := [], flags := 0, skid := [], pipe := [], shadow := {}, active := {},
           front := none, fillLeft := 0, ripple := false, waited := 0, operands := [], plane := [], resident := none, lastFmt := none, calls := [] }

/-- A slice begins to run a context at an address (R65 to R68, R274). -/
def Slice.start (x : Slice) (c member pc seg : Nat) : Slice :=
  { x with run := true, ctx := c, member := member, pc := pc, rep := 0, seg := seg, cyc := 0, begun := false, halted := false, wait := none,
           resume := none, brCount := [], vlast := [], ports := [], arrAt := 0, divFree := 0, idivFree := 0, vdivFree := 0, vlongFree := 0, sfuFree := 0,
           stalled := false, lastCtx := some c }

/-- The MCR precharges the banks that a slice has opened (R352). -/
def State.precharge (s : State) (n : Nat) : State :=
  let ks := (s.slice n).opened.map (·.1)
  (ks.foldl (fun s k => s.modBu k fun b => { b with row := none }) s).modSlice n fun x => { x with opened := [] }

/-- Work of a context is about to start on slices: where another context ran last, its run-ahead is cancelled, the banks are precharged and the
valid bits cleared (R69, R347, R352). -/
def State.switchTo (s : State) (c : Nat) (slices : List Nat) : State :=
  let was := fun (n : Nat) => (s.slice n).lastCtx
  let others := ((slices.filterMap was).filter (· ≠ c)).eraseDups
  let s := others.foldl (fun s d => s.cancelRa d (slices.filter fun n => was n = some d)) s
  (slices.filter fun n => was n ≠ some c).foldl (fun s n => (s.precharge n).modSlice n Slice.tbInvalidate) s

/-- The epoch as work starts: a step where the context ran last on every slice of its gang, else a cancellation (R346, R347). -/
def State.startEpoch (s : State) (c : Nat) (slices : List Nat) (warm : Bool) : State :=
  if warm then s.stepEpoch c slices else s.cancelRa c slices

/-! ## Ends (R68, R241) -/

/-- The gang waits at ends of the given kinds, and nothing is outstanding. -/
def State.gangAt (s : State) (c : Nat) (ok : Wait → Bool) : Bool :=
  let g := s.running c
  g ≠ [] && g.all fun n =>
    let x := s.slice n
    !x.halted && s.quiet n && match x.wait with | some w => ok w | none => false

/-- The slices of a gang come to rest after an end: the weight FIFO empties, and nothing is left to abandon (R264, R151). -/
def State.restGang (s : State) (c : Nat) : State :=
  (s.running c).foldl (fun s n => s.modSlice n Slice.abandon) (s.setF (ctxP c) Ctx.RUNNING 0)

/-- PROGRAM_END: a stream program is done for the tick, and a tick without a fault ends a run of fault ticks; a host program completes `DONE`
(R241, R304, R395). -/
def execProgramEnd (c : Fin 64) (s : State) : Result :=
  act (s.clocked && s.gangAt c.val fun w => w = .finish) s fun s =>
    let s := s.restGang c.val
    if s.isStream c.val then
      let s := if (s.cx c.val).tick.fault then s else s.setF (ctxP c.val) Ctx.CONSEC 0
      s.modCx c.val fun y => { y with tick := { y.tick with ended := true } }
    else match (s.cx c.val).host with
      | some h => ((s.finishCmd h.cmd stDone).modCx c.val fun y => { y with host := none }).offer
      | none => s

/-- SEGMENT_END: each member writes its save record, and the context's next segment may be dispatched, after TBAR not before the next tick edge
(R67, R68, R241). DEDUCED: the record names the next bundle, and so the segment index with it is that of the segment to come (log 33). -/
def execSegmentEnd (c : Fin 64) (s : State) : Result :=
  act (s.clocked && s.gangAt c.val fun w => w = .segend || w = .tbar) s fun s =>
    let g := s.running c.val
    let tbar := g.any fun n => (s.slice n).wait = some .tbar
    let s := g.foldl (fun s n =>
      let x := s.slice n
      s.writeMarked false (saveAddr c.val + x.member * 0x1100) (x.saveRecord n ((x.pc + 1) % 2 ^ 14) (x.seg + 1))) s
    let s := (s.restGang c.val).offer
    s.modCx c.val fun y => { y with host := y.host.map fun h => { h with seg := h.seg + 1, fresh := false, active := false, waitTick := tbar } }

/-! ## The dispatcher (R66 to R69) -/

/-- Whether a slice can take a host segment now: nothing runs on it, its dump is written, no frame of its gang is being pushed (R386), it is not
quarantined (R287), and in the compute window no stream context holds it. -/
def State.freeSlice (s : State) (n : Nat) : Bool :=
  let x := s.slice n
  !x.run && !s.ctxs.any (fun e => s.pushing e.1 && (s.gang e.1).contains n) && x.dumps = [] && s.f (slhP n) SlcHealth.HSTATE ≠ hlQuar && !(s.tkg.phase = .compute && s.pinned n)

/-- Whether no running host segment names a bank unit or a chain that a context's program names (R132). -/
def State.busFree (s : State) (c : Nat) : Bool :=
  match (s.cx c).program with
  | none => true
  | some p => (List.range 64).all fun d => d = c || s.isStream d || s.running d = [] ||
      match (s.cx d).program with
      | some q => !q.bus.any fun k => p.bus.contains k
      | none => true

/-- Whether the dispatcher offers free gangs now: at a slot start or a segment end, which for a fault is the end of its push (R67, R386). -/
def State.offering (s : State) : Bool :=
  s.tkg.offerAt = some s.time || s.ctxs.any (fun e => decide (e.2.pushEnd ≠ 0) && decide (e.2.pushEnd = s.time)) || (s.tkg.refreshEndsAt ≠ 0 && s.tkg.refreshEndsAt = s.time)

/-- Whether a context is ready, and its next segment fits on its free gang (R66, R67, R354). -/
def State.canDispatch (s : State) (c : Nat) : Bool :=
  match (s.cx c).program, (s.cx c).host, s.slotEnd with
  | some p, some h, some e =>
    s.busFree c && !h.active && !h.waitTick && s.ctxRuns c && !p.stream && p.gang.all s.freeSlice && decide (s.inTick + p.segmentNs h.seg ≤ e) &&
    decide (s.tickNum % 8 < s.f govP MgtGov.HOST_DUTY)
  | _, _, _ => false

/-- Whether a context ran the last segment on every slice of its gang. -/
def State.ranLast (s : State) (c : Nat) : Bool := (s.gang c).all fun n => (s.slice n).lastCtx = some c

/-- Whether a context ran the last host segment on every slice of its gang (R67). -/
def State.ranSeg (s : State) (c : Nat) : Bool := (s.gang c).all fun n => (s.slice n).lastSeg = some c

/-- Whether the dispatcher offers the gang to this context first (R67). -/
def State.offered (s : State) (c : Nat) : Bool :=
  s.ranSeg c ||
  (List.range 64).all fun d =>
    d = c || !s.canDispatch d || !(s.gang d).any (fun n => (s.gang c).contains n) ||
    (!s.ranSeg d && decide ((c + 64 - (s.ctxLast + 1) % 64) % 64 < (d + 64 - (s.ctxLast + 1) % 64) % 64))

/-- Restore or initialise the registers of a member, and start it (R68, R304). Answers whether the record read back uncorrectable. -/
def State.startMember (s : State) (c n member : Nat) (p : Program) (h : HostRun) : State × Bool :=
  let x := (s.slice n).clear
  let x := { x with lastSeg := some c, slotAt := s.time, slotCyc := s.slotCycles }
  if h.fresh then
    let x := (x.start c member (p.base + p.entry) 0)
    (s.setSlice n ((List.range 4).foldl (fun x r => x.setA r (h.a0.getD r 0)) x), false)
  else
    let rd : Reader := { src := 4, unit := n, ctx := c }
    let (s, l, bad) := s.readMem rd false (saveAddr c + member * 0x1100) 0x1100
    let x := x.loadRecord l bad
    (s.setSlice n (x.start c member x.pc x.seg), (bad.take 0x100).any id)

/-- HOST_SEGMENT_DISPATCH: at a slot start or segment end a ready host context starts its next segment on its free gang, restored from its record or fresh (R66 to R69). -/
def execHostSegmentDispatch (c : Fin 64) (s : State) : Result :=
  match (s.cx c.val).program, (s.cx c.val).host with
  | some p, some h =>
    act (s.clocked && s.offering && s.canDispatch c.val && s.offered c.val) s fun s =>
      let warm := s.ranLast c.val
      let s := (s.switchTo c.val p.gang).startEpoch c.val p.gang warm
      let s := s.modCx c.val fun y => { y with tokens := [], gbar := [], halting := [], host := some { h with active := true } }
      let s := { s.setF (ctxP c.val) Ctx.RUNNING 1 with ctxLast := c.val }
      let (s, bad) := (List.range p.gang.length).foldl (fun (s, bad) g =>
        let n := p.gang.getD g 0
        let (s, b) := s.startMember c.val n g p h
        (s, if b then bad ++ [n] else bad)) (s, [])
      match bad with
      | n :: _ => s.programFault n { cause := fcPoison, slot := 7, bundle := (s.slice n).pc, addr := saveAddr c.val, akind := 2 }
      | [] => s
  | _, _ => .next s

/-! ## Halt channels (R289, R291) -/

/-- Arm channel `h`, as its control register now stands, or refuse it (R289). -/
def State.armHalt (s : State) (h : Nat) : State :=
  let g := fun (f : Fld) => s.f plvP (f.at h)
  let c := g Plv.HALT_CTX
  let pc := g Plv.HALT_ADDR
  let ok := match (s.cx c).program with
    | none => false
    | some p =>
      ((decide (p.base ≤ pc) && decide (pc < p.base + p.count)) ||
        s.plv.routines.any fun r => p.calls.testBit r.idx && decide (r.base ≤ pc) && decide (pc < r.base + r.count)) &&
      (s.unmapped c (g Plv.HALT_DUMP * 256) (p.gang.length * 0x2200)).isNone
  if ok then (s.setF plvP (Plv.HALT_REMAIN.at h) (g Plv.HALT_COUNT)).setB plvP (Plv.HALT_DUMPED.at h) false
  else (s.setB plvP (Plv.HALT_ARM.at h) false).setB plvP (Plv.HALT_ARM_BAD.at h) true

/-- HALT_DUMP: the captured members of a channel write their dumps, those of a stream program from `GAP_END` on; a dump whose frames are
no longer mapped is lost (R291). -/
def execHaltDump (h : Fin 4) (s : State) : Result :=
  let mine := fun (d : Dump) => d.chan = h.val && (!d.late || s.tkg.phase = .host || s.tkg.phase = .stopped)
  let ns := (List.range 16).filter fun n => (s.slice n).dumps.any mine
  act (s.live && ns ≠ []) s fun s =>
    let (s, lost) := ns.foldl (fun (s, lost) n =>
      ((s.slice n).dumps.filter mine).foldl (fun (s, lost) d =>
        if (s.unmapped d.ctx d.va d.bytes.length).isSome then (s, true) else (s.writeVaMarked d.ctx d.va d.bytes, lost))
        (s.modSlice n fun x => { x with dumps := x.dumps.filter fun d => !mine d }, lost)) (s, false)
    s.setB plvP ((if lost then Plv.HALT_DUMP_LOST else Plv.HALT_DUMPED).at h.val) true

end Sys2Proof.Machine
end

