-- ==== Sys2Proof/Machine/Governor.lean ====
section
/-! DEFINITION. The sensors and the tick governor: telemetry, throttle and release, protection, shedding and restoring, the thermal trip, and
conflicts between policy and hardware (R354 to R359, R427, R430, R431; the band of R55). -/

namespace Sys2Proof.Machine

/-! ## Policy in force -/

/-- The software floor: a value below 450 acts as 450 (R355). -/
def State.floorMhz (s : State) : Nat := max 450 (s.f govP MgtGov.FLOOR_MHZ)

/-- The highest clock of the loaded engine; 0 means that none is loaded and nothing bounds the clock (R85). -/
def State.engineMax (s : State) : Nat := s.f devP DevCap.ENGINE_MAX_MHZ

/-- Whether the target lies above `ENGINE_MAX_MHZ` or below the floor (R359, cause 7). -/
def State.targetOut (s : State) : Bool :=
  (s.engineMax ≠ 0 && decide (s.engineMax < s.f govP MgtGov.TARGET_MHZ)) || decide (s.f govP MgtGov.TARGET_MHZ < s.floorMhz)

/-- The target that acts: no higher than the engine's clock, nor than the 700 MHz of a region's clock path (R77, R359). -/
def State.targetMhz (s : State) : Nat :=
  let t := min 700 (max (s.f govP MgtGov.TARGET_MHZ) s.floorMhz)
  if s.engineMax = 0 then t else min t s.engineMax

/-- The duty floor in force: 80 to 100, in multiples of 5. -/
def State.dutyMin (s : State) : Nat := min 100 (max 80 (cdiv (s.f govP MgtGov.BU_DUTY_MIN) 5 * 5))

/-- `I_LIMIT` and `I_THROTTLE` in force for VCC_CORE and VCC_BU (`MGT_LIMIT`). -/
def State.coreLimit (s : State) : Nat := min 3200 (s.f limP MgtLimit.CORE_I_LIMIT)
def State.buLimit (s : State) : Nat := min 1000 (s.f limP MgtLimit.BU_I_LIMIT)
def State.coreThrottle (s : State) : Nat := min (min 2800 (s.f limP MgtLimit.CORE_I_THROTTLE)) s.coreLimit
def State.buThrottle (s : State) : Nat := min (min 900 (s.f limP MgtLimit.BU_I_THROTTLE)) s.buLimit

/-- The hottest sensor as last sampled, in 1/8 °C. -/
def State.hottest (s : State) : Int := sgn 16 (s.f senseP MgtSense.TEMP_MAX)

def State.iCore (s : State) : Nat := s.f senseP MgtSense.I_CORE
def State.iBu (s : State) : Nat := s.f senseP MgtSense.I_BU

/-! ## Conflicts (R359) -/

def gcSoftFloor : Nat := 1
def gcHostWithheld : Nat := 2
def gcShedListed : Nat := 3
def gcShedUnlisted : Nat := 4
def gcHotExhausted : Nat := 5
def gcTrip : Nat := 6
def gcTargetClamped : Nat := 7
def gcPinRefused : Nat := 8

/-- A conflict between policy and hardware is raised. -/
def State.conflict (s : State) (cause : Nat) : State :=
  (((s.setB govP MgtGov.GOV_CONFLICT true).setF govP MgtGov.CAUSE cause).bump govP MgtGov.CONFLICT_CNT).irq govP 2

/-- An engine whose closure clock lies below the current clock never runs at it: the clock stands at that bound when the load completes (R143, R354;
log 25). -/
def State.boundClock (s : State) : State :=
  if s.engineMax ≠ 0 ∧ s.engineMax < s.f govP MgtGov.CLK_MHZ then s.setF govP MgtGov.CLK_MHZ s.engineMax else s

/-- A target outside its bounds is a conflict, and a clock above the target that acts is to fall to it (R354, R359). -/
def State.checkTarget (s : State) : State :=
  let s := if s.targetOut then s.conflict gcTargetClamped else s
  if s.targetMhz < s.gov.clkGoal.getD (s.f govP MgtGov.CLK_MHZ) then { s with gov := { s.gov with clkGoal := some s.targetMhz } } else s

/-! ## Duties (R354) -/

/-- The host duty takes a value; reaching 0 is a conflict (R359). -/
def State.setHostDuty (s : State) (d : Nat) : State :=
  let was := s.f govP MgtGov.HOST_DUTY
  let s := s.setF govP MgtGov.HOST_DUTY d
  if was ≠ 0 ∧ d = 0 then s.conflict gcHostWithheld else s

/-- The pending duties take effect: at a tick edge, or at once while no tick runs (R354). -/
def State.applyDuties (s : State) : State :=
  let g := s.gov
  let s := { s with gov := { g with pendBuDuty := none, pendHostDuty := none } }
  let s := match g.pendBuDuty with | some d => s.setF govP MgtGov.BU_DUTY d | none => s
  match g.pendHostDuty with | some d => s.setHostDuty d | none => s

/-- Whether ticks run. -/
def State.ticking (s : State) : Bool := s.tkg.phase ≠ .stopped && s.tkg.phase ≠ .armed

def State.settleDuties (s : State) : State := if s.ticking then s else s.applyDuties

/-! ## Shedding (R357) -/

def State.attached (s : State) (g : Nat) : Bool := s.on (grpP g) SibGrp.ATTACHED

def State.isShed (s : State) (g : Nat) : Bool := (s.f govP MgtGov.SHED_ACTIVE).testBit g

/-- Groups in the order in which they are shed. -/
def State.shedList (s : State) : List Nat :=
  let named := ((List.range 4).map fun i => fld (s.f govP MgtGov.SHED_ORDER) (2 * i + 1) (2 * i)).eraseDups
  let listed := named.filter fun g => (s.f govP MgtGov.SHED_EN).testBit g
  listed ++ (List.range 4).filter fun g => !listed.contains g

def State.shed (s : State) (g : Nat) : State :=
  let s := s.setF govP MgtGov.SHED_ACTIVE (s.f govP MgtGov.SHED_ACTIVE ||| 2 ^ g)
  let s := { s with gov := { s.gov with shedOrder := s.gov.shedOrder ++ [g] } }
  ((s.bump govP MgtGov.SHED_CNT).irq govP 4).conflict (if (s.f govP MgtGov.SHED_EN).testBit g then gcShedListed else gcShedUnlisted)

/-- Whether a live stream group is not shed. -/
def State.unshedLive (s : State) : Bool := (List.range 4).any fun g => s.attached g && !s.isShed g

/-- While a live group is not shed, the clock stands at 450 MHz or above, and goes nowhere below (R19, R357). -/
def State.raiseClock (s : State) : State :=
  if s.unshedLive then
    { s.setF govP MgtGov.CLK_MHZ (max 450 (s.f govP MgtGov.CLK_MHZ)) with gov := { s.gov with clkGoal := s.gov.clkGoal.filter fun g => decide (450 ≤ g) } }
  else s

/-- What the governor does at a tick edge: duties take effect; under demand of 10 µs one live group is shed, and with none left the clock may
go on to 300 MHz; after the demand the group shed last is restored (R354, R357). -/
def State.governEdge (s : State) : State :=
  let s := s.applyDuties
  if s.on govP MgtGov.PROTECT then
    match s.gov.protectSince with
    | some t =>
      if s.time < t + 10000 then s
      else
        let s := match s.shedList.find? fun g => s.attached g && !s.isShed g with
          | some g => s.shed g
          | none => s
        if s.unshedLive then s else { s with gov := { s.gov with clkGoal := some 300 } }
    | none => s
  else if s.gov.tripStopped then s
  else match s.gov.shedOrder.reverse with
    | g :: rest =>
      let m := s.f govP MgtGov.SHED_ACTIVE
      let s := s.setF govP MgtGov.SHED_ACTIVE (m - if m.testBit g then 2 ^ g else 0)
      { s with gov := { s.gov with shedOrder := rest.reverse } }.raiseClock
    | [] => s

/-! ## Protection and the trip (R356, R358) -/

/-- Protection demand begins (R356). -/
def State.protect (s : State) : State :=
  let soft := decide (450 < s.floorMhz) || decide (80 < s.dutyMin)
  let s := { s with gov := { s.gov with protectSince := some s.time, clkGoal := none, pendBuDuty := none, pendHostDuty := none } }
  let s := ((s.setB govP MgtGov.PROTECT true).setF govP MgtGov.CLK_MHZ 450).setF govP MgtGov.BU_DUTY 80
  let s := if soft then s.conflict gcSoftFloor else s
  s.setHostDuty 0

def State.unprotect (s : State) : State :=
  { s.setB govP MgtGov.PROTECT false with gov := { s.gov with protectSince := none, clkGoal := none } }

/-- The trip of a sensor (R358). A stream program that has still to start in this tick does not start, and its frame carries `SHED` (R357). -/
def State.trip (s : State) (sensor : Nat) : State :=
  let s := (List.range 64).foldl (fun s c =>
    if s.isStream c then (if s.streamBusy c then s.cutStream c true
      else if s.tkg.phase = .beforeCompute then s.modCx c fun y => { y with tick := { y.tick with shed := true } } else s)
    else if s.running c ≠ [] then s.cutHost c else s) s
  let s := s.shedList.foldl (fun s g => if s.isShed g then s else s.shed g) s
  let s := ((s.setB limP MgtLimit.TRIPPED true).setF limP MgtLimit.TRIP_SENSOR sensor).conflict gcTrip
  { s with gov := { s.gov with tripStopped := true } }

/-- Protection demand and the trip, as the latest sample asks (R356, R358). -/
def State.watchHeat (s : State) (sensor : Nat) : State :=
  let hot := s.hottest
  let demand := decide (840 ≤ hot) || decide (s.coreLimit ≤ s.iCore) || decide (s.buLimit ≤ s.iBu)
  let cool := decide (hot < 800) && decide (s.iCore < s.coreThrottle) && decide (s.iBu < s.buThrottle)
  let s := if s.on govP MgtGov.PROTECT then (if cool then s.unprotect else s) else if demand then s.protect else s
  if 880 ≤ hot ∧ ¬ s.gov.tripStopped then s.trip sensor else s

/-- The sideband alert and `THERM_TRIP#` (R428, R429): asserted, as the pins show them. -/
def State.thermTrip (s : State) : Bool := s.power.critical || s.on limP MgtLimit.TRIPPED

/-! ## The sample (R430, R431) -/

/-- The hottest of the sensors `lo` to `hi`, with its index; the lowest index of equals. -/
def hottestOf (t : List Int) (lo hi : Nat) : Int × Nat :=
  (List.range (hi + 1 - lo)).foldl (fun (best : Int × Nat) i =>
    let v := t.getD (lo + i) 0
    if best.1 < v then (v, lo + i) else best) (t.getD lo 0, lo)

def State.putHottest (s : State) (f : Fld) (t : List Int) (lo hi : Nat) : State :=
  let (v, i) := hottestOf t lo hi
  s.setF senseP f (low 16 v ||| (i <<< 16))

/-- The registers of a sample (R430, R431). -/
def State.putSample (s : State) (r : Sample) : State :=
  let s := (List.range 41).foldl (fun s i =>
    (s.setF senseP (MgtSense.TEMP.at i) (low 16 (r.temps.getD i 0))).setB senseP (MgtSense.TEMP_VALID.at i) true) s
  let s := (((s.putHottest MgtSense.TEMP_MAX r.temps 0 40).putHottest MgtSense.TEMP_DRAM r.temps 16 19).putHottest
    MgtSense.TEMP_FABRIC r.temps 24 40).putHottest MgtSense.TEMP_BASE r.temps 0 15
  let put := fun (s : State) (l : List (Fld × Nat)) => l.foldl (fun s (f, v) => s.setF senseP f v) s
  let v := fun i => r.milliVolts.getD i 0
  let a := fun i => r.deciAmps.getD i 0
  let s := put s [(MgtSense.V_CORE, v 0), (MgtSense.V_BU, v 1), (MgtSense.V_VDD_ST, v 2), (MgtSense.V_VPP_ST, v 3),
    (MgtSense.V_XCVR, v 4), (MgtSense.V_XAUX, v 5), (MgtSense.V_AUX, v 6), (MgtSense.I_CORE, a 0), (MgtSense.I_BU, a 1),
    (MgtSense.I_VDD_ST, a 2), (MgtSense.I_VPP_ST, a 3), (MgtSense.I_XCVR, a 4), (MgtSense.I_XAUX, a 5), (MgtSense.P_TOTAL, r.deciWatts)]
  (List.range 4).foldl (fun s w =>
    put s [(MgtSense.V_IO_E.at w, r.vccio.getD (2 * w) 0), (MgtSense.V_IO_O.at w, r.vccio.getD (2 * w + 1) 0)]) s

/-- The band that the DRAM sensors call for (R55). -/
def State.watchBand (s : State) (t : List Int) : State :=
  let dram := (List.range 4).map fun k => t.getD (16 + k) 0
  let now := s.tkg.pendBand.getD (s.f winP TkgWin.BAND)
  let goal := if dram.any fun v => decide (680 < v) then 1 else if dram.all fun v => decide (v ≤ 656) then 0 else now
  { s with tkg := { s.tkg with pendBand := if goal = s.f winP TkgWin.BAND then none else some goal } }

/-- SENSOR_SAMPLE: the MGT takes one sample; out of reset the band, protection and the trip follow from it (R55, R356, R358, R430). -/
def execSensorSample (r : Sample) (s : State) : Result :=
  act (!s.power.critical && !s.power.inPower) s fun s =>
    let s := s.putSample r
    if s.live then (s.watchBand r.temps).watchHeat (hottestOf r.temps 0 40).2 else s

/-! ## The throttle loop (R355) -/

/-- The first throttle step still available. -/
def State.throttleStep (s : State) : State :=
  let clk := s.gov.clkGoal.getD (s.f govP MgtGov.CLK_MHZ)
  let bu := s.gov.pendBuDuty.getD (s.f govP MgtGov.BU_DUTY)
  let host := s.gov.pendHostDuty.getD (s.f govP MgtGov.HOST_DUTY)
  if s.floorMhz < clk then { s with gov := { s.gov with clkGoal := some (max s.floorMhz (clk - 10)) } }.bump govP MgtGov.STEP_CNT
  else if s.dutyMin < bu then ({ s with gov := { s.gov with pendBuDuty := some (max s.dutyMin (bu - 5)) } }.bump govP MgtGov.STEP_CNT).settleDuties
  else if host ≠ 0 then ({ s with gov := { s.gov with pendHostDuty := some (host - 1) } }.bump govP MgtGov.STEP_CNT).settleDuties
  else s

/-- The first release step still available, in the reverse order. -/
def State.releaseStep (s : State) : State :=
  let clk := s.gov.clkGoal.getD (s.f govP MgtGov.CLK_MHZ)
  let bu := s.gov.pendBuDuty.getD (s.f govP MgtGov.BU_DUTY)
  let host := s.gov.pendHostDuty.getD (s.f govP MgtGov.HOST_DUTY)
  if host < 8 then { s with gov := { s.gov with pendHostDuty := some (host + 1) } }.settleDuties
  else if bu < 100 then { s with gov := { s.gov with pendBuDuty := some (min 100 (bu + 5)) } }.settleDuties
  else if clk < s.targetMhz then { s with gov := { s.gov with clkGoal := some (min s.targetMhz (clk + 10)) } }
  else s

/-- Whether the throttle condition holds; the thermal conflict of R59 counts as throttle (R355, R359). -/
def State.throttles (s : State) : Bool :=
  decide (760 ≤ s.hottest) || decide (s.coreThrottle ≤ s.iCore) || decide (s.buThrottle ≤ s.iBu) || s.on winP TkgWin.HOT_EXHAUSTED

def State.releases (s : State) : Bool :=
  decide (s.hottest ≤ 736) && decide (s.iCore * 100 < 95 * s.coreThrottle) && decide (s.iBu * 100 < 95 * s.buThrottle)

/-- GOVERNOR_EVALUATION: every 10 µs the governor takes one step, or holds (R355). -/
def execGovernorEvaluation (s : State) : Result :=
  act (s.live && decide (s.gov.evalAt ≤ s.time)) s fun s =>
    let s := { s with gov := { s.gov with evalAt := s.time + 10000 } }
    let s := s.setB govP MgtGov.THROTTLE s.throttles
    if s.on govP MgtGov.PROTECT then s
    else if s.throttles then s.throttleStep
    else if s.releases then s.releaseStep
    else s

/-- CLOCK_STEP: the engine clock moves by up to 10 MHz to where the governor wants it (R354). -/
def execClockStep (s : State) : Result :=
  actSome s.gov.clkGoal s fun g s =>
    let clk := s.f govP MgtGov.CLK_MHZ
    let g := if s.unshedLive then max 450 g else g
    if !s.live then s
    else
      let new := if g < clk then max g (clk - 10) else min g (clk + 10)
      { s.setF govP MgtGov.CLK_MHZ new with gov := { s.gov with clkGoal := if new = g then none else some g } }

end Sys2Proof.Machine
end

