-- ==== Sys2Proof/Machine/Link.lean ====
section
/-! DEFINITION. The stream link: lanes, alignment and groups, the frames that a group receives, the decision word and its output
(R323 to R342). -/

namespace Sys2Proof.Machine

/-! ## The coding of a lane's bits (R324) -/

/-- The scrambler x^58 + x^39 + 1 over bits in the order they are sent, from the 58 bits it last sent (bit 0 the latest). -/
def scramble (st : Nat) : List Bool → List Bool × Nat
  | [] => ([], st)
  | b :: bs =>
    let o := xor b (xor (st.testBit 38) (st.testBit 57))
    let r := scramble ((st * 2 + b2n o) % 2 ^ 58) bs
    (o :: r.1, r.2)

/-- The descrambler, from the 58 bits last received. -/
def descramble (st : Nat) : List Bool → List Bool
  | [] => []
  | o :: bs => xor o (xor (st.testBit 38) (st.testBit 57)) :: descramble ((st * 2 + b2n o) % 2 ^ 58) bs

/-- Bits [65:2] of a block, least significant first. -/
def payloadBits (b : Bool × W64) : List Bool := (List.range 64).map b.2.getLsbD

/-- The 66 bits of a block in the order they are sent: the sync header, 0b01 for data and 0b10 for control, and the scrambled payload. -/
def blockBits (st : Nat) (b : Bool × W64) : List Bool := [b.1, !b.1] ++ (scramble st (payloadBits b)).1

/-- Pairs of bits as Gray-coded PAM4 symbols 0 to 3, the first bit of a pair the less significant. -/
def pam4 : List Bool → List Nat
  | a :: b :: r => (2 * b2n b + b2n (xor a b)) :: pam4 r
  | _ => []

/-- The symbols of a lane's bits at a rate, inverted or not. -/
def lineSymbols (rate : Nat) (inv : Bool) (bits : List Bool) : List Nat :=
  if rate = 0 then bits.map fun b => b2n (xor b inv)
  else (pam4 bits).map fun v => if inv then 3 - v else v

/-! ## Lanes and groups (R323, R325, R327, R328) -/

def State.lane (s : State) (l : Nat) : Lane := spGet {} s.lanes l
def State.modLane (s : State) (l : Nat) (g : Lane → Lane) : State := { s with lanes := spPut {} s.lanes l (g (s.lane l)) }

def State.grp (s : State) (g : Nat) : Grp := spGet {} s.grps g
def State.modGrp (s : State) (g : Nat) (h : Grp → Grp) : State := { s with grps := spPut {} s.grps g (h (s.grp g)) }

def State.rxMask (s : State) (g : Nat) : Nat := s.f (grpP g) SibGrp.RX_MASK

/-- The receive lanes of a group: those of its mask that no lower-numbered group names (R328). -/
def State.rxLanes (s : State) (g : Nat) : List Nat :=
  (bitsOf (s.rxMask g) 32).filter fun l => !(List.range g).any fun h => (s.rxMask h).testBit l

/-- The group that a receive lane belongs to. -/
def State.laneGroup (s : State) (l : Nat) : Option Nat := (List.range 4).find? fun g => (s.rxLanes g).contains l

/-- Whether a stream reference clock is lost (R417, R418). -/
def State.strefGone (s : State) (k : Nat) : Bool := s.pins.clkGone.testBit (2 + k)

/-- Whether a receive lane runs: enabled, at a rate that is not reserved, with its reference clock (R323, R418). -/
def State.rxRuns (s : State) (l : Nat) : Bool :=
  s.on rxP (SibRx.RX_EN.at l) && s.f rxP (SibRx.RX_RATE.at l) ≠ 3 && !s.strefGone (l / 16)

def State.rxAligned (s : State) (l : Nat) : Bool := s.on rxP (SibRx.ALIGNED.at l)

/-- Whether the lanes of a group are set to different rates (R328). -/
def State.rateMix (s : State) (g : Nat) : Bool := decide (1 < ((s.rxLanes g).map fun l => s.f rxP (SibRx.RX_RATE.at l)).eraseDups.length)

/-- The conditions of R327 and R328 on a group's lanes, marker counts and skew aside. -/
def State.lanesFit (s : State) (g : Nat) : Bool :=
  let ls := s.rxLanes g
  ls ≠ [] && !s.rateMix g &&
  ls.all (fun l => s.rxRuns l && s.rxAligned l && s.f rxP (SibRx.LGROUP.at l) = g && (s.lane l).lanes + 1 = ls.length) &&
  (List.range ls.length).all fun i => ls.any fun l => s.f rxP (SibRx.LOGICAL.at l) = i

/-- Whether the lanes of a group are skewed by at most 96 ns (R327). -/
def State.skewFits (s : State) (g : Nat) : Bool :=
  let at_ := (s.rxLanes g).map fun l => (s.lane l).at_
  decide (at_.foldl max 0 ≤ at_.foldl min (at_.headD 0) + 96)

/-- Evaluate a group's alignment and its lane conditions (R327, R328). While the ALIGN blocks of one position are still coming in, so that some
lanes are one marker behind, an aligned group whose lanes fit stays aligned. -/
def State.evalGroup (s : State) (g : Nat) : State :=
  let taken := (List.range g).any fun h => s.rxMask h &&& s.rxMask g ≠ 0
  let s := (s.setB (grpP g) SibGrp.LANE_CONFLICT taken).setB (grpP g) SibGrp.RATE_MIX (s.rateMix g)
  let ms := (s.rxLanes g).map fun l => (s.lane l).marker
  let same := ms.all fun m => m = ms.headD none
  let near := ms.all fun m => ms.all fun k => match m, k with
    | some a, some b => a = b || (a + 1) % 2 ^ 16 = b || (b + 1) % 2 ^ 16 = a
    | _, _ => false
  s.setB (grpP g) SibGrp.GROUP_ALIGNED
    (s.lanesFit g && if same then s.skewFits g else near && s.on (grpP g) SibGrp.GROUP_ALIGNED)

def State.evalGroups (s : State) : State := (List.range 4).foldl State.evalGroup s

/-- A lane loses its alignment, and its group with it (R327). -/
def State.loseAlign (s : State) (l : Nat) : State :=
  ((s.setB rxP (SibRx.ALIGNED.at l) false).modLane l fun x => { x with marker := none, since := 0, missed := 0 }).evalGroups

/-- A lane loses block lock (R325). -/
def State.loseLock (s : State) (l : Nat) : State :=
  ((s.setB rxP (SibRx.BLOCK_LOCK.at l) false).modLane l fun x => { x with window := [] }).loseAlign l

/-- A sync header comes in: the last 64 are kept (R325). -/
def State.header (s : State) (l : Nat) (ok : Bool) : State :=
  s.modLane l fun x => { x with window := (ok :: x.window).take 64 }

/-- The blocks of a lane from one ALIGN block to the next (R327). -/
def alignSpacing : Nat := 16384

/-- Whether the next block of a lane stands where an ALIGN block is expected. -/
def Lane.due (x : Lane) : Bool := x.marker.isSome && x.since + 1 = alignSpacing

/-- A block that is no ALIGN block in its place: where one was expected, it is missed, and the lane counts on from there (R327). -/
def Lane.pass (x : Lane) (now : Nat) : Lane :=
  if x.due then { x with marker := x.marker.map fun m => (m + 1) % 2 ^ 16, at_ := now, since := 0, missed := x.missed + 1 }
  else if x.marker.isSome then { x with since := x.since + 1 }
  else x

/-- A lane counts such a block. -/
def State.pass (s : State) (l : Nat) : State :=
  let t := s.modLane l fun x => x.pass s.time
  if (s.lane l).due then t.evalGroups else t

/-- What a block with a valid sync header does on a lane: `g` treats one that a locked lane receives; an unlocked lane discards it (R325). -/
def State.onLane (s : State) (l : Nat) (g : State → State) : Result :=
  act (s.live && s.rxRuns l) s fun s =>
    let s := s.header l true
    if s.on rxP (SibRx.BLOCK_LOCK.at l) then g s else s

/-- BLOCK_LOCK: a lane has received 64 consecutive blocks with a valid sync header (R325). -/
def execBlockLock (l : Fin 32) (s : State) : Result :=
  act (s.live && s.rxRuns l.val && !s.on rxP (SibRx.BLOCK_LOCK.at l.val) && (s.lane l.val).window = List.replicate 64 true) s fun s =>
    s.setB rxP (SibRx.BLOCK_LOCK.at l.val) true

/-- INVALID_SYNC_HEADER: the block is discarded and counted, and the 16th of 64 ends block lock (R325). -/
def execInvalidSyncHeader (l : Fin 32) (s : State) : Result :=
  act (s.live && s.rxRuns l.val) s fun s =>
    let s := (s.bump rxP (SibRx.SYNC_ERR_CNT.at l.val)).header l.val false
    if !s.on rxP (SibRx.BLOCK_LOCK.at l.val) then s
    else if 16 ≤ ((s.lane l.val).window.filter (!·)).length then s.loseLock l.val
    else s.pass l.val

/-- One more block of a group is discarded because the group does not receive it (R327, R337). -/
def State.orphan (s : State) (g : Nat) (misaligned : Bool) : State :=
  let s := s.bump (grpP g) SibGrp.ORPHAN
  if misaligned then s.irq (grpP g) 4 else s

/-- A logical block of a lane's group: `h` treats it where the group is aligned and attached. -/
def State.logical (s : State) (l : Nat) (h : Nat → State → State) : Result :=
  s.onLane l fun s =>
    let s := s.pass l
    match s.laneGroup l with
    | none => s
    | some g =>
      if !s.on (grpP g) SibGrp.GROUP_ALIGNED then s.orphan g true
      else if !s.attached g || !(s.grp g).frame.open_ then s.orphan g false
      else h g s

/-! ## Control blocks (R326) -/

/-- Whether the check byte of a FRAME or SEG payload is right (R326). -/
def checkOk (p : Nat) : Bool := crc32c (leBytes 6 p) % 256 = fld p 55 48

/-- RX_ALIGN_BLOCK: a lane's alignment and its group's follow the block; the second of two in their places with consecutive marker counts aligns
the lane (R327). A block without the fixed bits of an ALIGN block counts as a reserved one. DEDUCED: on an aligned lane an ALIGN block out of its
place changes nothing (log 45). -/
def execRxAlignBlock (l : Fin 32) (payload : BitVec 56) (s : State) : Result :=
  s.onLane l.val fun s =>
    let p := payload.toNat
    let x := s.lane l.val
    if fld p 55 32 ≠ 0x3C96A5 ∨ fld p 15 12 ≠ 0 then
      let s := s.pass l.val
      match s.laneGroup l.val with
      | some g => s.bump (grpP g) SibGrp.CTRL_ERR
      | none => s
    else if s.rxAligned l.val && !x.due then s.pass l.val
    else
      let m := fld p 31 16
      let next := x.due && x.missed = 0 && x.marker.any fun k => decide ((k + 1) % 2 ^ 16 = m)
      let s := (s.setF rxP (SibRx.LOGICAL.at l.val) (fld p 4 0)).setF rxP (SibRx.LGROUP.at l.val) (fld p 11 10)
      let s := s.modLane l.val fun x => { x with marker := some m, lanes := fld p 9 5, at_ := s.time, since := 0, missed := 0 }
      let s := if next then s.setB rxP (SibRx.ALIGNED.at l.val) true else s
      s.evalGroups

/-- ALIGN_MISSED: a second expected ALIGN block in a row has not come (R327). -/
def execAlignMissed (l : Fin 32) (s : State) : Result :=
  act (s.live && s.rxAligned l.val && decide (2 ≤ (s.lane l.val).missed)) s fun s => s.loseAlign l.val

/-- RX_IDLE_BLOCK: an IDLE block is ignored (R326). -/
def execRxIdleBlock (l : Fin 32) (s : State) : Result := s.logical l.val fun _ s => s

/-! ## Frames and segments (R331, R332) -/

def State.modFrame (s : State) (g : Nat) (h : Frame → Frame) : State := s.modGrp g fun x => { x with frame := h x.frame }

/-- The open segment becomes bad (R331). -/
def State.segBad (s : State) (g : Nat) : State :=
  (s.bump (grpP g) SibGrp.SEG_CRC).modFrame g fun f => { f with bad := f.bad + 1, mode := .idle }

/-- A control block that is no SEG_END ends an open segment, which is bad, and the discarding of one (R331). -/
def State.breakSeg (s : State) (g : Nat) : State :=
  match (s.grp g).frame.mode with
  | .seg _ => s.segBad g
  | .skip => s.modFrame g fun f => { f with mode := .idle }
  | .idle => s

/-- The bytes of one frame slot (R332). -/
def State.slotBytes (s : State) (g : Nat) : Nat := s.f (grpP g) SibGrp.SLOT_UNITS * 65536
def State.bufVa (s : State) (g : Nat) : Nat := s.f (grpP g) SibGrp.BUF_VA * 65536
def State.bufSlots (s : State) (g : Nat) : Nat := s.f (grpP g) SibGrp.SLOTS

/-- The slot of frame `t` (R332). -/
def State.slotVa (s : State) (g t : Nat) : Nat := s.bufVa g + t % s.bufSlots g * s.slotBytes g

/-- The status record of frame `t` (R333). -/
def State.statusVa (s : State) (g t : Nat) : Nat := s.bufVa g + s.bufSlots g * s.slotBytes g + t % s.bufSlots g * 64

/-- The SIB writes into the address space of a group's context, where it is mapped. -/
def State.sibWrite (s : State) (g va : Nat) (l : List Byte) : State :=
  if (s.unmapped g va l.length).isSome then s else s.writeVa g va l

/-- RX_RESERVED_BLOCK: a block of a reserved type is counted and discarded, and an open segment becomes bad (R326, R331). -/
def execRxReservedBlock (l : Fin 32) (type : Byte) (s : State) : Result :=
  if [0x1E, 0x4B, 0x55, 0x66, 0x99].contains type.toNat then .next s
  else s.logical l.val fun g s =>
    let s := match (s.grp g).frame.mode with
      | .seg _ => s.segBad g
      | _ => s
    s.bump (grpP g) SibGrp.CTRL_ERR

/-- RX_FRAME_BLOCK: the header of the frame, where its check byte holds, its tick is current and it is the first (R331). -/
def execRxFrameBlock (l : Fin 32) (payload : BitVec 56) (s : State) : Result :=
  s.logical l.val fun g s =>
    let s := s.breakSeg g
    let p := payload.toNat
    let f := (s.grp g).frame
    if !checkOk p then s.bump (grpP g) SibGrp.HDR_ERR
    else if fld p 39 0 ≠ f.tick % 2 ^ 40 then
      (s.bump (grpP g) SibGrp.TICK_MISMATCH).modFrame g fun f => { f with rejected := true }
    else if f.header.isSome then (s.bump (grpP g) SibGrp.HDR_ERR).modFrame g fun f => { f with rejected := false }
    else s.modFrame g fun f => { f with header := some (fld p 47 40, s.time), rejected := false }

/-- RX_SEG_BLOCK: a segment is accepted, or discarded up to its SEG_END (R331). -/
def execRxSegBlock (l : Fin 32) (payload : BitVec 56) (s : State) : Result :=
  s.logical l.val fun g s =>
    let s := s.breakSeg g
    let p := payload.toNat
    let f := (s.grp g).frame
    let len := fld p 15 0
    let idx := fld p 23 16
    let off := fld p 47 24
    let skip := fun (s : State) => s.modFrame g fun f => { f with mode := .skip }
    match f.header with
    | none => skip (s.bump (grpP g) SibGrp.ORPHAN)
    | some (count, _) =>
      if f.rejected then skip s
      else if !checkOk p || len = 0 || 4096 < len || count ≤ idx || s.slotBytes g < off * 8 + len * 8 then
        skip (s.bump (grpP g) SibGrp.SEG_BOUNDS)
      else if spGet false f.good idx then skip (s.bump (grpP g) SibGrp.SEG_DUP)
      else s.modFrame g fun f => { f with mode := .seg { idx := idx, len := len, off := off, got := 0, data := [] } }

/-- RX_DATA_BLOCK: data block i of the open segment is written at slot offset × 8 + 8i (R331, R332). A data block where SEG_END is due makes
the segment bad. -/
def execRxDataBlock (l : Fin 32) (data : W64) (s : State) : Result :=
  s.logical l.val fun g s =>
    match (s.grp g).frame.mode with
    | .seg q =>
      if q.got = q.len then s.segBad g
      else
        let b := leBytes 8 data.toNat
        let s := s.sibWrite g (s.slotVa g (s.grp g).frame.tick + q.off * 8 + q.got * 8) b
        s.modFrame g fun f => { f with mode := .seg { q with got := q.got + 1, data := q.data ++ b } }
    | _ => s

/-- RX_SEG_END_BLOCK: the open segment is good where its length and CRC-32C hold, else bad (R331). -/
def execRxSegEndBlock (l : Fin 32) (payload : BitVec 56) (s : State) : Result :=
  s.logical l.val fun g s =>
    let p := payload.toNat
    match (s.grp g).frame.mode with
    | .seg q =>
      if q.got = q.len ∧ fld p 47 32 = q.len ∧ crc32c q.data = fld p 31 0 then
        (s.bump (grpP g) SibGrp.SEG_GOOD).modFrame g fun f =>
          { f with good := spPut false f.good q.idx true, bytes := f.bytes + 8 * q.len, mode := .idle }
      else s.segBad g
    | .skip => s.modFrame g fun f => { f with mode := .idle }
    | .idle => s

/-! ## Opening and closing frames (R333, R335) -/

def Frame.count (f : Frame) : Nat := (f.header.map (·.1)).getD 0
def Frame.complete (f : Frame) : Bool := f.header.isSome && (List.range f.count).all fun i => spGet false f.good i

/-- The 64 bytes of a status record (R333). -/
def Frame.record (f : Frame) : List Byte :=
  leBytes 8 f.tick ++ leBytes 2 f.count ++ leBytes 2 f.good.length ++ leBytes 2 f.bad ++
  leBytes 2 (b2n f.header.isSome ||| (b2n f.complete <<< 1)) ++ leBytes 8 f.bytes ++ leBytes 8 ((f.header.map (·.2)).getD 0) ++
  leBytes 32 (maskOf ((f.good.filter fun e => decide (e.1 < 255)).map (·.1)))

/-- Close the open frame of a group at a tick edge: a segment still open is late, the status record is written, and the frame is the one that the
tick beginning computes (R331, R333, R335). -/
def State.closeFrame (s : State) (g : Nat) : State :=
  let f := (s.grp g).frame
  if !f.open_ then s.modGrp g fun x => { x with computing := none }
  else
    let late := match f.mode with | .seg _ => true | _ => false
    let s := if late then (s.bump (grpP g) SibGrp.SEG_LATE).modFrame g fun f => { f with bad := f.bad + 1, mode := .skip } else s
    let f := (s.grp g).frame
    let s := s.sibWrite g (s.statusVa g f.tick) f.record
    let missing := f.header.isNone
    let part := f.header.isSome && !f.complete
    let s := s.bump (grpP g) SibGrp.FRAMES
    let s := if part then s.bump (grpP g) SibGrp.FRAMES_PARTIAL else s
    let s := if missing then (s.bump (grpP g) SibGrp.FRAMES_MISSING).irq (grpP g) 2 else s
    s.modGrp g fun x => { x with frame := { x.frame with open_ := false },
                                 computing := some { tick := f.tick, missing := missing, partial_ := part } }

/-- Open frame `t` of a group; the blocks of a late segment go on being discarded (R331). -/
def State.openFrame (s : State) (g t : Nat) : State :=
  s.modFrame g fun f => { open_ := true, tick := t, mode := match f.mode with | .skip => .skip | _ => .idle }

/-! ## Decisions (R338, R339) -/

/-- The decision word of the frame that the ended tick computed. -/
def State.decisionWord (s : State) (g : Nat) (k : Closed) : W64 :=
  let x := s.grp g
  let t := (s.cx g).tick
  let noDec := t.ended && t.payload.isNone
  let dflt := t.ovr || t.shed || t.fault || t.held || noDec || (k.missing && x.missAct)
  let pay := if dflt then x.defaultAct else t.payload.getD x.defaultAct
  let bit := fun (b : Bool) (i : Nat) => b2n b <<< i
  BitVec.ofNat 64 (pay.toNat ||| bit t.ovr 32 ||| bit t.shed 33 ||| bit t.fault 34 ||| bit t.held 35 ||| bit (s.on cloveP Clove.UNVERIFIED) 36 |||
    bit x.recheck 37 ||| bit k.missing 38 ||| bit k.partial_ 39 ||| bit noDec 40 ||| bit (!s.on srcP TkgSrc.LOCKED) 41 ||| (g <<< 48) |||
    (k.tick % 2 ^ 14 <<< 50))

/-- At a tick edge the decision word of a group is formed, for output at `DECISION_OFFSET` (R338, R339). -/
def State.formDecision (s : State) (g : Nat) : State :=
  match s.attached g, (s.grp g).computing with
  | true, some k =>
    let w := s.decisionWord g k
    (s.setF (grpP g) SibGrp.LAST_DECISION w.toNat).modGrp g fun x => { x with deciding := some (k.tick, w), recheck := false }
  | _, _ => s.modGrp g fun x => { x with deciding := none, recheck := false }

/-- `DEFAULT_DECISION`, `MISSING_ACTION` and the `SIB_TRIG` settings take effect (R336, R341). -/
def State.latchLink (s : State) : State :=
  let s := (List.range 4).foldl (fun s g =>
    s.modGrp g fun x => { x with defaultAct := BitVec.ofNat 32 (s.f (grpP g) SibGrp.DEFAULT_DECISION), missAct := s.on (grpP g) SibGrp.MISSING_ACTION }) s
  { s with pins := { s.pins with trigAct := (List.range 16).map fun j => s.readWord trigP (0x40 + 4 * j), pulseAct := s.f trigP SibTrig.PULSE_NS } }

/-! ## Transmit lanes (R329, R342) -/

/-- The transmit lanes of a group: those of its mask that no lower-numbered group names (R329). -/
def State.txLanes (s : State) (g : Nat) : List Nat :=
  (bitsOf (s.f (grpP g) SibGrp.TX_MASK) 8).filter fun l => !(List.range g).any fun h => (s.f (grpP h) SibGrp.TX_MASK).testBit l

/-- The SIB evaluates the transmit conditions of a group at a tick edge, and which lanes it sends on (R329). -/
def State.evalTx (s : State) (g : Nat) : State :=
  let ls := s.txLanes g
  let rates := ls.map fun l => s.f txP (SibTx.TX_RATE.at l)
  let taken := (List.range g).any fun h => s.f (grpP h) SibGrp.TX_MASK &&& s.f (grpP g) SibGrp.TX_MASK ≠ 0
  let mix := decide (1 < rates.eraseDups.length) || rates.contains 3
  ((s.setB (grpP g) SibGrp.TX_CONFLICT taken).setB (grpP g) SibGrp.TX_RATE_MIX mix).modGrp g fun x =>
    { x with txAct := if mix then [] else ls }

/-- A control block: its type and payload, as bits [65:2] carry them (R326). -/
def ctrlBlock (type payload : Nat) : Bool × W64 := (false, BitVec.ofNat 64 (type ||| (payload <<< 8)))

/-- The payload of a FRAME or SEG block with its check byte (R326). -/
def withCheck (p : Nat) : Nat := p ||| (crc32c (leBytes 6 p) % 256 <<< 48)

/-- The four logical blocks that carry a decision word (R342). -/
def decisionBlocks (t : Nat) (w : W64) : List (Bool × W64) :=
  [ctrlBlock 0x55 (withCheck (t % 2 ^ 40 ||| (1 <<< 40))), ctrlBlock 0x66 (withCheck 1), (true, w),
   ctrlBlock 0x99 (crc32c (leBytes 8 w.toNat) ||| (1 <<< 32))]

/-- The ALIGN block of logical lane `i` of `n` (R326, R342). -/
def alignBlock (g n mark i : Nat) : Bool × W64 :=
  ctrlBlock 0x4B (i ||| ((n - 1) <<< 5) ||| (g <<< 10) ||| (mark % 2 ^ 16 <<< 16) ||| (0x3C96A5 <<< 32))

/-- The symbols on its lane's line of a block `e` (its lane and the block) that follows the blocks `before` (R324). What the lane's scrambler held
before those is free (log 10). -/
def State.lineOf (s : State) (before : List (Nat × Bool × W64)) (e : Nat × Bool × W64) : List Nat :=
  let bits := (before.filter fun d => decide (d.1 = e.1)).flatMap fun d => payloadBits d.2
  let st := (scramble (Config.freeScramble (s.anyBits + e.1)).toNat bits).2
  lineSymbols (s.f txP (SibTx.TX_RATE.at e.1)) (s.on txP (SibTx.TX_INVERT.at e.1)) (blockBits st e.2)

/-- A group's blocks leave on lanes `ls`: each with the lane that sends it and the symbols it takes on that lane's line (R324). A lane that is not
enabled, or whose reference clock is lost, is in electrical idle (R342, R418). What the scrambler of a lane holds before is free (log 10). -/
def State.sendBlocks (s : State) (g : Nat) (ls : List Nat) (blocks : List (Bool × W64)) : State :=
  let sent : List (Nat × Bool × W64) := (blocks.zipIdx.map fun (b, k) => (ls.getD (k % ls.length) 0, b)).filter fun e =>
    s.on txP (SibTx.TX_EN.at e.1) && !s.strefGone (e.1 / 4)
  if sent = [] then s
  else
    let line := (List.range sent.length).map fun i => s.lineOf (sent.take i) (sent.getD i (0, true, 0))
    let t : State := { s with anyBits := s.anyBits + 8 }
    t.emit (.txBlocks g (sent.map (·.1)) (sent.map (·.2)) line)

/-- The decision frame leaves on a group's transmit lanes, striped over them (R329, R342). DEDUCED: its first block goes to logical lane 0, since
the first block leaves all the lanes' balls at the output time (log 45). -/
def State.sendDecision (s : State) (g t : Nat) (w : W64) : State := s.sendBlocks g (s.grp g).txAct (decisionBlocks t w)

/-- The time that 16,384 blocks take on a lane, in ps (R323). -/
def alignPs (rate : Nat) : Nat := alignSpacing * (if rate = 0 then 2560 else if rate = 1 then 1242 else 621)

/-- One nanosecond of a group's transmit lanes: after 16,384 blocks each carries an ALIGN block (R327, R342). -/
def State.txTick (s : State) (g : Nat) : State :=
  let x := s.grp g
  if x.txAct = [] then s
  else
    let whole := alignPs (s.f txP (SibTx.TX_RATE.at (x.txAct.headD 0)))
    if x.txPs + 1000 < whole then s.modGrp g fun x => { x with txPs := x.txPs + 1000 }
    else
      (s.sendBlocks g x.txAct ((List.range x.txAct.length).map (alignBlock g x.txAct.length x.txMark))).modGrp g fun x =>
        { x with txPs := x.txPs + 1000 - whole, txMark := (x.txMark + 1) % 2 ^ 16 }

/-- What a transmit lane carries when no decision leaves: the groups whose lane it is keep it busy with IDLE and ALIGN blocks, else it is in electrical
idle (R329, R342). -/
def State.txIdles (s : State) (l : Nat) : Bool :=
  ((List.range 4).any fun g => (s.grp g).txAct.contains l) && s.on txP (SibTx.TX_EN.at l) && !s.strefGone (l / 4)

/-! ## Output (R340, R341) -/

def level (b : Bool) : Level := if b then .high else .low

/-- The `SIB_TRIG` settings that act on a line: EN, INVERT, GROUP, BIT, PULSE (R341). -/
def State.trigCfg (s : State) (j : Nat) : Bool × Bool × Nat × Nat × Bool :=
  let w := s.pins.trigAct.getD j 0
  (bitOf w 0, bitOf w 1, fld w 3 2, fld w 9 4, bitOf w 10)

/-- `PULSE_NS` as it acts (R341). -/
def State.pulseNs (s : State) : Nat := min (min (max 8 s.pins.pulseAct) 1000) (s.f winP TkgWin.ACT_PERIOD / 2)

def State.setTrig (s : State) (j : Nat) (x : TrigLine) : State := { s with pins := { s.pins with trig := mapAt s.pins.trig j fun _ => x } }

/-- A line at the output moment: its bit of the group's word (R341). -/
def State.driveTrig (s : State) (j : Nat) : State :=
  let (en, inv, g, b, pulse) := s.trigCfg j
  match en, (s.grp g).deciding with
  | true, some (_, w) =>
    let v := xor (w.getLsbD b) inv
    s.setTrig j { level := level v, pulseEnd := if pulse then some (s.time + s.pulseNs) else none }
  | _, _ => s

/-- A line at a tick edge, by the settings that act from it: one that is off, whose group is not attached and has no decision due, or whose pulse is
over, stands at `INVERT` (R337, R341). -/
def State.restTrig (s : State) (j : Nat) : State :=
  let (en, inv, g, _, pulse) := s.trigCfg j
  let ended := pulse && ((s.pins.trig.getD j {}).pulseEnd).isNone
  if !en || ended || (!s.attached g && (s.grp g).deciding.isNone) then s.setTrig j { level := level inv } else s

/-- Hold every line at `INVERT`, as `MEM_INIT_DONE` finds it (R341, R423). -/
def State.holdTrig (s : State) : State :=
  (List.range 16).foldl (fun s j => s.setTrig j { level := level (s.trigCfg j).2.1 }) s

/-- What the SIB does at the edge that ends the ticks: settings act and the lines rest, the frames that closed are not computed, and the transmit
lanes are evaluated (R54, R329, R341). -/
def State.stopLink (s : State) : State :=
  (List.range 4).foldl (fun s g => (s.modGrp g fun x => { x with frame := {}, computing := none }).evalTx g)
    ((List.range 16).foldl State.restTrig s.latchLink)

/-- DECISION_OUTPUT: at `DECISION_OFFSET` the lines take their values and the decision frames leave (R340 to R342). -/
def execDecisionOutput (s : State) : Result :=
  actSome s.tkg.decDue s fun t s =>
    if !s.live || s.time < t then s
    else
      let s := (List.range 16).foldl State.driveTrig s
      let s := (List.range 4).foldl (fun s g => match (s.grp g).deciding with
        | some (t, w) => (s.sendDecision g t w).modGrp g fun x => { x with deciding := none }
        | none => s) s
      { s with tkg := { s.tkg with decDue := none } }

/-- TRIG_PULSE_END: a pulsed line returns to `INVERT` (R341). -/
def execTrigPulseEnd (j : Fin 16) (s : State) : Result :=
  actSome (s.pins.trig[j.val]?.bind (·.pulseEnd)) s fun t s =>
    if !s.live || s.time < t then s else s.setTrig j.val { level := level (s.trigCfg j.val).2.1 }

/-! ## Attachment (R336) -/

def raAttached : Nat := 0x0E
def raNoProgram : Nat := 0x0F
def raRange : Nat := 0x0D

/-- Whether a span of a context's addresses lies within objects that its program's descriptors span (R336). -/
def State.spanned (s : State) (c va n : Nat) : Bool :=
  match (s.cx c).program with
  | none => false
  | some p => (pageSpans va n).all fun (a, _) => match s.walk c a with
    | some e => p.objs.contains e.obj
    | none => false

/-- The result code of the first check of R336 that an attach of group `g` fails: 0 where it passes. -/
def State.attachCheck (s : State) (g : Nat) : Nat :=
  let slots := s.bufSlots g
  let units := s.f (grpP g) SibGrp.SLOT_UNITS
  if s.attached g then raAttached
  else if s.ctxState g ≠ stLive ∨ !(s.cx g).program.any (·.stream) then raNoProgram
  else if slots < 2 ∨ 15 < slots ∨ units < 1 ∨ 2048 < units ∨ s.rxMask g = 0 ∨
      !s.spanned g (s.bufVa g) (slots * s.slotBytes g + slots * 64) then raRange
  else 0

end Sys2Proof.Machine
end

