-- ==== Sys2Proof/Machine/Objects.lean ====
section
/-! DEFINITION. Memory objects: frames, table pages, mappings, reference counts, reclaim and the reference doorbell (R309 to R320). -/

namespace Sys2Proof.Machine

/-! ## HIB results (R305) -/

def rsObjTableFull : Nat := 0x01
def rsVaAlign : Nat := 0x02
def rsVaBusy : Nat := 0x03
def rsHostRange : Nat := 0x04
def rsFrameCarve : Nat := 0x05
def rsFrameBusy : Nat := 0x06
def rsZoneMode : Nat := 0x07
def rsTablePool : Nat := 0x08
def rsNoObject : Nat := 0x09
def rsKey : Nat := 0x0A
def rsInUse : Nat := 0x0B
def rsHandleRange : Nat := 0x0C
def rsRange : Nat := 0x0D

/-! ## Page tables (R310, R314) -/

/-- The table pages that mapping a range into a context needs: its first-level table, and second-level tables (R310). -/
def State.pagesNeeded (s : State) (c va n : Nat) : Nat :=
  let l2 := ((List.range n).map fun i => fld (va + i * 65536) 39 28).eraseDups
  match (s.cx c).l1 with
  | none => 1 + l2.length
  | some p => (l2.filter fun i => !(s.peekN (tableAddr p i) 8).testBit 0).length

/-- Take the lowest free table page, cleared. -/
def State.takePage (s : State) : State × Nat :=
  let p := ((List.range tablePages).find? fun p => !s.tpages.contains p).getD 0
  ({ s.zeroFill false (tableAddr p 0) 32768 with tpages := p :: s.tpages }, p)

/-- Write the second-level entry of one page, taking table pages where none stand yet (R310). -/
def State.mapPage (s : State) (c va : Nat) (e : Pte) : State :=
  let (s, p1) := match (s.cx c).l1 with
    | some p => (s, p)
    | none => let (s, p) := s.takePage; (s.modCx c fun y => { y with l1 := some p }, p)
  let a1 := tableAddr p1 (fld va 39 28)
  let e1 := s.peekN a1 8
  let (s, p2) := if e1.testBit 0 then (s, fld e1 13 1) else
    let (s, p) := s.takePage
    (s.poke false a1 (leBytes 8 (1 ||| (p <<< 1))), p)
  s.poke false (tableAddr p2 (fld va 27 16)) (leBytes 8 (1 ||| (b2n e.bank <<< 1) ||| (e.pfn <<< 2) ||| (e.obj <<< 21)))

/-- Clear the second-level entry of one page; a second-level table that is left empty is freed. -/
def State.unmapPage (s : State) (c va : Nat) : State :=
  match (s.cx c).l1 with
  | none => s
  | some p1 =>
    let a1 := tableAddr p1 (fld va 39 28)
    let e1 := s.peekN a1 8
    if !e1.testBit 0 then s
    else
      let p2 := fld e1 13 1
      let s := s.poke false (tableAddr p2 (fld va 27 16)) (zeros 8)
      if (s.peek false (tableAddr p2 0) 32768).all (· = 0) then
        { s.poke false a1 (zeros 8) with tpages := s.tpages.filter (· ≠ p2) }
      else s

/-- Map an object's frames into a context, in order (R311, R312). -/
def State.mapObj (s : State) (c o va : Nat) (bank : Bool) (frames : List Nat) : State :=
  frames.zipIdx.foldl (fun s (f, i) => s.mapPage c (va + i * 65536) { bank := bank, pfn := f, obj := o }) s

def State.unmapObj (s : State) (c o : Nat) : State :=
  let x := s.obj o
  let s := (List.range x.count).foldl (fun s i => s.unmapPage c (x.va + i * 65536)) s
  let x := s.obj o
  s.setObj o { x with ctxs := x.ctxs - if x.ctxs.testBit c then 2 ^ c else 0 }

/-- Whether a page of a range is mapped in a context. -/
def State.vaBusy (s : State) (c va n : Nat) : Bool := (List.range n).any fun i => (s.walk c (va + i * 65536)).isSome

def State.zones (s : State) (z : Nat) : Nat := spGet 0 s.zoneCount z
def State.setZones (s : State) (z v : Nat) : State := { s with zoneCount := spPut 0 s.zoneCount z v }

/-! ## Fills (R102, R120, R133, R311, R319) -/

/-- How many FILLs a frame takes: a bank-mode frame lies in one bank unit, a linear-mode frame in the banks of every channel (R102). -/
def fillsOf (bank : Bool) : Nat := if bank then 1 else 64

/-- FILL `k` of a frame: 2,048 beats in its bank, or 8 beats in each of the four banks of channel `k` that hold the frame (R102, R120). -/
def hibFill (ctx obj : Nat) (bank : Bool) (pfn k : Nat) : BuCmd :=
  let fill := fun (stack chan : Nat) (banks : List Nat) (off count : Nat) =>
    ({ id := 0, issuer := .hib obj, op := 2, ctx := ctx, stack := stack, chan := chan, parts := banks.map fun b => { bank := b, slot := 16 },
       dstOff := off, count := count, limit := 3 * count + 64 } : BuCmd)
  if bank then fill (fld pfn 9 8) (fld pfn 7 4) [pfn % 16] (fld pfn 18 10 * 65536) 2048
  else
    let at_ := fun (j : Nat) => linToBank ((frameBase false pfn).2 + j * 16384 + k * 256)
    let banks := (List.range 4).map fun j => fld (at_ j) 28 25
    fill (fld (at_ 0) 34 33) (fld (at_ 0) 32 29) ((List.range 16).filter banks.contains) (at_ 0 % 2 ^ 25) 8

/-- The frames of an object, and the FILLs that they take. -/
def State.jobFrames (s : State) (j : FillJob) : List Nat := (spGet {} s.objInfo j.obj).frames
def State.jobFills (s : State) (j : FillJob) : Nat := (s.jobFrames j).length * fillsOf j.bank

/-- Issue the FILLs of a job in order until the router stalls: the state, how many it has taken, and whether it stalled (R120, R133). -/
def State.issueJob (s : State) (ctx : Nat) (j : FillJob) : State × Nat × Bool :=
  let frames := s.jobFrames j
  ((List.range (s.jobFills j)).drop j.next).foldl (fun (s, n, stalled) i =>
    if stalled then (s, n, true)
    else match s.buIssue (hibFill ctx j.obj j.bank (frames.getD (i / fillsOf j.bank) 0) (i % fillsOf j.bank)) with
      | .stall => (s, n, true)
      | .taken s _ => (s, i + 1, false)) (s, j.next, false)

/-- The context that a job's FILLs name: that of the creating command, or the object's owner. -/
def State.jobCtx (s : State) (j : FillJob) : Nat :=
  match j.why with
  | .create cmd => ((s.cmds.find? fun c => c.id = cmd).map (·.ctx)).getD 0
  | _ => (s.obj j.obj).owner

/-- The HIB issues the fills of its jobs, one after another, until the router stalls (R133). -/
def State.issueFills (s : State) : State :=
  (s.hib.jobs.foldl (fun (s, stalled) j =>
    if stalled then (s, true)
    else
      let (s, n, stalled) := s.issueJob (s.jobCtx j) j
      ({ s with hib := { s.hib with jobs := s.hib.jobs.map fun k => if k.obj = j.obj then { k with next := n } else k } }, stalled))
    (s, false)).1

def State.addJob (s : State) (j : FillJob) : State := State.issueFills { s with hib := { s.hib with jobs := s.hib.jobs ++ [j] } }

/-- Whether every FILL of a job has completed. -/
def State.jobDone (s : State) (j : FillJob) : Bool := decide (s.jobFills j ≤ j.next) && !s.bus.any fun b => b.issuer = .hib j.obj

/-! ## Counts and reclaim (R318, R319) -/

/-- An object whose count has reached 0 is reclaimed: its table entries are cleared, and its frames are filled (R319, steps 1 and 2). -/
def State.reclaim (s : State) (o : Nat) : State :=
  let x := s.obj o
  let s := (bitsOf x.ctxs 64).foldl (fun s c => s.unmapObj c o) (s.noteRead hibReader false (objAddr o) 32)
  s.addJob { obj := o, why := .reclaim, bank := x.bank }

/-- Release an object's frames, the zone counts and its identifier (R319, steps 3 and 4). -/
def State.releaseObj (s : State) (o : Nat) : State :=
  let frames := (spGet {} s.objInfo o).frames
  let s := frames.foldl (fun s f => (s.setFrame f 0 false).setZones (fld f 18 10) (s.zones (fld f 18 10) - 1)) s
  let s := s.poke false (objAddr o) (zeros 32)
  { s with objInfo := spDel s.objInfo o }

/-- A reclaim whose fills are done: frames, zone counts and identifier are released, and the owner context hears of it unless its slot has been
released or granted again (R319, steps 3 to 5). -/
def State.endReclaim (s : State) (o : Nat) : State :=
  let x := s.obj o
  let i := spGet {} s.objInfo o
  let s := s.releaseObj o
  if (s.cx x.owner).gen = i.gen then s.post x.owner { cookie := x.cookie, type := 3, detail := o } else s

/-- Change an object's count; a count of 0 reclaims it. A change that finds no object does nothing (R319). -/
def State.changeRefs (s : State) (o : Nat) (g : Nat → Nat) : State :=
  if s.refs o = 0 then s
  else
    let v := g (s.refs o)
    let s := s.setRefs o v
    if v = 0 then s.reclaim o else s

def State.addDev (s : State) (o : Nat) : State := s.changeRefs o fun v => withRefDev v (refDev v + 1)
def State.subDev (s : State) (o : Nat) : State := s.changeRefs o fun v => withRefDev v (refDev v - 1)

/-- Device references for a list of objects, each once for each time it is listed. -/
def State.takeRefs (s : State) (l : List Nat) : State := l.foldl State.addDev s
def State.dropRefs (s : State) (l : List Nat) : State := l.foldl State.subDev s

/-- Whether the device fields can take the references (R318). -/
def State.refsFit (s : State) (l : List Nat) : Bool :=
  l.all fun o => decide (refDev (s.refs o) + (l.filter (· = o)).length ≤ 0xFFFF)

/-- A context takes a program fault with cause `REF_UNDERFLOW`; it is none of the faults R389 calls asynchronous (R320, R389). -/
def State.refUnderflow (s : State) (c o : Nat) : State :=
  match s.running c with
  | n :: _ =>
    let x := s.slice n
    (s.stopProgram c).reportFault c { cause := fcRefUnderflow, slot := 6, bundle := x.pc, detail := o } n x.member x
  | [] => (s.stopProgram c).reportFault c { cause := fcRefUnderflow, slot := 6, detail := o } 0 0 {}

/-- Subtract 1 from a port's field, or report the underflow to the context (R320). -/
def State.subPort (s : State) (c p o : Nat) : State :=
  if refPort (s.refs o) p = 0 then s.refUnderflow c o else s.changeRefs o fun v => withRefPort v p (refPort v p - 1)

/-- A write of `REF_DB` on queue `q` (R320). -/
def State.refDoorbell (s : State) (q o op : Nat) : State :=
  let pg := qdbP q
  let c := s.f pg Hdr.OWNER_CONTEXT
  let p := s.f pg Hdr.OWNER_PORT
  let say := fun (s : State) (res field : Nat) =>
    (((s.setF pg Qdb.RS_OBJ o).setF pg Qdb.RS_OP op).setF pg Qdb.RS_RES res).setF pg Qdb.RS_FIELD field
  if op = 0 ∨ op = 3 then say s 0 (if s.maps c o then refPort (s.refs o) p else 0)
  else if !s.maps c o then say s 1 0
  else
    let v := refPort (s.refs o) p
    if op = 1 then
      if v = 0xFFF then say s 3 v else say (s.changeRefs o fun w => withRefPort w p (v + 1)) 0 (v + 1)
    else if v = 0 then (say s 2 0).refUnderflow c o
    else say (s.changeRefs o fun w => withRefPort w p (v - 1)) 0 (v - 1)

/-! ## The object commands (R311 to R313) -/

/-- The lowest object identifier that is free. -/
def State.freeObj (s : State) : Option Nat := (List.range (s.objInfo.length + 1)).find? fun o => decide (o < 65536) && (spGet {} s.objInfo o = {} : Bool)

/-- PFNs of a frame list: the low 19 bits of each 4-byte word. -/
def pfnsOf (l : List Byte) (n : Nat) : List Nat := (List.range n).map fun i => leAt l (4 * i) 4 % 2 ^ 19

/-- The first check of R311 that an OBJ_CREATE fails, the host read aside: `lists` is whether the list can be read. -/
def State.createCheck (s : State) (c va n : Nat) (bank : Bool) (lists : Bool) (frames : List Nat) : Nat :=
  if s.freeObj.isNone then rsObjTableFull
  else if va % 65536 ≠ 0 ∨ 2 ^ 40 < va + n * 65536 then rsVaAlign
  else if s.vaBusy c va n then rsVaBusy
  else if !lists then rsHostRange
  else if frames.any fun f => decide (504 ≤ fld f 18 10) then rsFrameCarve
  else if (frames.any fun f => (s.frameEntry f).2) ∨ frames.eraseDups.length ≠ frames.length then rsFrameBusy
  else if frames.any fun f => s.zoneBank (fld f 18 10) ≠ bank then rsZoneMode
  else if tablePages < s.tpages.length + s.pagesNeeded c va n then rsTablePool
  else 0

/-- Begin the creation of an object from frames that pass every check: the lowest free identifier, the frames in use, the zone counts and the
fills (R311). -/
def State.beginCreate (s : State) (cmd c : Nat) (bank : Bool) (frames : List Nat) : State :=
  let o := s.freeObj.getD 0
  let s := frames.foldl (fun s f => (s.setFrame f o true).setZones (fld f 18 10) (s.zones (fld f 18 10) + 1)) s
  let s := { s with objInfo := spPut {} s.objInfo o { gen := (s.cx c).gen, frames := frames } }
  s.addJob { obj := o, why := .create cmd, bank := bank }

/-- The fills of an OBJ_CREATE are done: the object's entry and its mapping are written, its creator's port counts 1, and the command completes
with the identifier (R311). -/
def State.endCreate (s : State) (c : Cmd) (o : Nat) : State :=
  let frames := (spGet {} s.objInfo o).frames
  let f := fun (off n : Nat) => leAt c.body (off - 0x18) n
  let va := f 0x18 8
  let bank := bitOf (f 0x28 1) 0
  let s := s.setObj o { ctxs := 2 ^ c.ctx, va := va, count := frames.length, bank := bank, owner := c.ctx, key := f 0x2C 4, cookie := c.cookie }
  ((s.mapObj c.ctx o va bank frames).setRefs o (withRefPort 0 c.port 1)).finishCmd c.id stDone 0 o

/-- End a job whose fills are done. -/
def State.endJob (s : State) (j : FillJob) : State :=
  let s := { s with hib := { s.hib with jobs := s.hib.jobs.filter (· ≠ j) } }
  match j.why with
  | .reclaim => s.endReclaim j.obj
  | .drop => s.releaseObj j.obj
  | .create cmd => match s.cmds.find? fun c => c.id = cmd with
    | some c => s.endCreate c j.obj
    | none => s.releaseObj j.obj

/-- After a bank unit's slot frees, the HIB issues what it holds, and ends the jobs whose fills are done (R311, R319). -/
def State.pumpFills (s : State) : State :=
  if s.hib.jobs = [] then s
  else
    let s := s.issueFills
    (s.hib.jobs.filter s.jobDone).foldl State.endJob s

/-- Whether an OBJ_CREATE still fills its frames. DESIGN CHOICE: a further OBJ_CREATE or OBJ_IMPORT starts after it, so that no two creations map
one page or take one table page (log 50). -/
def State.creating (s : State) : Bool := s.hib.jobs.any fun j => match j.why with | .create _ => true | _ => false

/-- A teardown gives up the creations of a context: their frames are released once they are filled (log 50). -/
def State.dropCreations (s : State) (c : Nat) : State :=
  let mine := fun (j : FillJob) => match j.why with
    | .create cmd => s.cmds.any fun d => d.id = cmd && d.ctx = c
    | _ => false
  let s := { s with hib := { s.hib with jobs := s.hib.jobs.map fun j => if mine j then { j with why := .drop } else j } }
  { s with cmds := s.cmds.map fun d => if d.ctx = c && d.opcode = 0x01 && d.st = .started then { d with st := .done stAborted 0 0 } else d }

/-- The first check of R312 that an OBJ_IMPORT fails. -/
def State.importCheck (s : State) (c o key : Nat) : Nat :=
  let x := s.obj o
  if !s.objExists o then rsNoObject
  else if x.key ≠ key then rsKey
  else if s.maps c o then rsInUse
  else if s.vaBusy c x.va x.count then rsVaBusy
  else if tablePages < s.tpages.length + s.pagesNeeded c x.va x.count then rsTablePool
  else 0

/-- Map an existing object into a context; its port's field takes 1 more, and stays at 0xFFF where it stands there (R312, R320). -/
def State.importObj (s : State) (c p o : Nat) : State :=
  let x := s.obj o
  let s := s.mapObj c o x.va x.bank (spGet {} s.objInfo o).frames
  let s := s.setObj o { x with ctxs := x.ctxs ||| 2 ^ c }
  s.changeRefs o fun v => withRefPort v p (min 0xFFF (refPort v p + 1))

/-! ## BU_COMMAND_COMPLETE (R121, R127, R385) -/

/-- BU_COMMAND_COMPLETE: a command whose parts have ended frees its slots and returns one completion, to its slice, or to the queue
command that issued it (R121, R123, R130). -/
def execBuCommandComplete (id : Nat) (s : State) : Result :=
  actSome (s.findBu id) s fun c s =>
    if !s.clocked || !c.ready then s
    else
      let (st, p) := if c.st = .done then (c.status, c.parts.find? fun p => 0x10 ≤ p.fault) else c.partStatus
      let fl := c.stickyFlags
      let s := (s.releaseBus c).buCount c st p
      State.pumpFills <| match c.issuer with
      | .hib _ => s
      | .host cmd => s.finishCmd cmd (if st = buDone then stDone else if st = buDoneZero then stDoneZero else if st = buCancelled then stAborted else stRejected) st
      | .engine n =>
        let bank := match p with | some q => q.bank | none => (c.parts.head?.map (·.bank)).getD 0
        let f : FaultInfo := { cause := fcBuStatus, slot := 2, bundle := c.bundle, detail := st ||| (c.tag <<< 8),
                               addr := bankAddr c.stack c.chan bank 0, akind := 1, async_ := true }
        if c.abandoned then (if 0x10 ≤ st then s.lateFault c.ctx n f else s)
        else
          let s := s.modSlice n fun x => x.flag (sliceFlags fl)
          let s := if st = buDoneZero then s.bump (perfP n) SlcPerf.ZERO_WORK else s
          if 0x10 ≤ st then s.programFault n f else s

end Sys2Proof.Machine
end

