-- ==== Sys2Proof/Machine/Queue.lean ====
section
/-! DEFINITION. Host queues: fetching and checking entries, the commands that act at once, completion, events, grants of queues, and the
doorbell (R299 to R308, R313, R316, R317). -/

namespace Sys2Proof.Machine

/-! ## Queues (R299, R300) -/

/-- The depth of a queue; 0 is disabled (R299). -/
def State.depth (s : State) (q : Nat) : Nat :=
  let d := s.f (qdbP q) Qdb.DEPTH_LOG2
  if 4 ≤ d ∧ d ≤ 12 then 2 ^ d else 0

def depthReserved (d : Nat) : Bool := (decide (1 ≤ d) && decide (d ≤ 3)) || decide (13 ≤ d)

def State.queueCtx (s : State) (q : Nat) : Nat := s.f (qdbP q) Hdr.OWNER_CONTEXT
def State.queuePort (s : State) (q : Nat) : Nat := s.f (qdbP q) Hdr.OWNER_PORT
def State.queueOwned (s : State) (q : Nat) : Bool := s.on (qdbP q) Hdr.OWNER_VALID

/-- Whether a queue holds an entry to fetch: enabled, not empty, its port up and in D0, its context not in teardown, memory initialised, and not being
released (R100, R294, R301, R321). -/
def State.hasEntry (s : State) (p q : Nat) : Bool :=
  s.queueOwned q && s.queuePort q = p && s.depth q ≠ 0 && s.f (qdbP q) Qdb.HEAD ≠ s.f (qdbP q) Qdb.TAIL && s.portUp p &&
  !s.pins.d3hot.getD p false && s.ctxState (s.queueCtx q) ≠ stTear && !s.hib.closing.contains q && s.on carveP GlbCarve.MEM_INIT_DONE

/-! ## Order of fetching (R307) -/

/-- The next queue of a port that holds an entry, after the one served last, in ascending number. -/
def State.nextQueue (s : State) (p : Nat) : Option Nat :=
  let last := spGet 255 s.hib.last p
  ((List.range 256).map fun i => (last + 1 + i) % 256).find? fun q => s.hasEntry p q

def State.inflight (s : State) (p : Nat) : Nat := (s.cmds.filter fun c => c.port = p).length
def State.paced (s : State) (p : Nat) : Bool := decide (max 1 (s.f (paceP p) HptPace.INFLIGHT_MAX) ≤ s.inflight p)

/-- Ports in the order in which turns come, the present one first; after `WEIGHT` entries it comes last. -/
def State.turns (s : State) : List Nat :=
  let p := s.hib.turn
  let rest := (List.range 3).map fun i => (p + 1 + i) % 4
  if s.hib.taken < max 1 (s.f (paceP p) HptPace.WEIGHT) then p :: rest else rest ++ [p]

/-- The port and queue that the command processor serves next, and the ports that it skips at `INFLIGHT_MAX`. -/
def State.nextFetch (s : State) : Option (Nat × Nat) × List Nat :=
  let l := s.turns.filter fun p => (s.nextQueue p).isSome
  (((l.find? fun p => !s.paced p).bind fun p => (s.nextQueue p).map fun q => (p, q)), l.takeWhile s.paced)

/-- Serve a queue: its port's turn goes on, or begins. -/
def State.served (s : State) (p q : Nat) : State :=
  let h := s.hib
  let again := h.turn = p ∧ h.taken < max 1 (s.f (paceP p) HptPace.WEIGHT)
  { s with hib := { h with turn := p, taken := if again then h.taken + 1 else 1, last := spPut 255 h.last p q } }

/-! ## Entries (R302, R303) -/

/-- Which bits of bytes 0x18 to 0x3F an opcode defines, as a number of 320 bits; `none` for a reserved opcode (R303). -/
def bodyMask (op kind : Nat) : Option Nat :=
  let m := fun (l : List (Nat × Nat)) => some (l.foldl (fun a (off, w) => a ||| ((2 ^ w - 1) <<< (8 * (off - 0x18)))) 0)
  match op with
  | 0x00 => m []
  | 0x01 => m [(0x18, 64), (0x20, 64), (0x28, 1), (0x2C, 32)]
  | 0x02 => m [(0x18, 16), (0x2C, 32)]
  | 0x03 => m [(0x18, 16)]
  | 0x04 => m [(0x18, 64), (0x20, 10)]
  | 0x05 => m [(0x18, 8), (0x1C, 32), (0x20, 64), (0x28, 64)]
  | 0x08 => m [(0x18, 64), (0x20, 16)]
  | 0x09 => m [(0x18, 64), (0x20, 4), (0x24, 16), (0x26, 16)]
  | 0x0A => m [(0x18, 64), (0x20, 16)]
  | 0x0B => if kind = 1 then m [(0x18, 2), (0x1C, 32), (0x20, 4), (0x24, 16), (0x26, 16)] else m [(0x18, 2), (0x1C, 32), (0x20, 16)]
  | 0x0C => m [(0x18, 64), (0x20, 64), (0x28, 64), (0x30, 64)]
  | 0x10 => m [(0x18, 64)]
  | 0x11 | 0x12 => m [(0x18, 2)]
  | 0x13 => m [(0x18, 64)]
  | 0x14 => m [(0x18, 64)]
  | _ => none

/-- Whether the opcode and the reserved fields of an entry pass (R303, check 1). -/
def entryOk (e : List Byte) : Bool :=
  let op := leAt e 0 1
  let body := leAt e 0x18 40
  let kind := fld body 1 0
  match bodyMask op kind with
  | none => false
  | some m =>
    body &&& (2 ^ 320 - 1 - m) = 0 && fld (leAt e 0 4) 11 10 = 0 && leAt e 2 2 = 0 && !(op = 0x0B && kind = 3)

/-- Whether the queue mode and the port may submit an entry (R303, check 2; R304): a stream context takes stream programs alone, on VALIDATED
queues (R271). -/
def State.entryPermitted (s : State) (p q : Nat) (e : List Byte) : Bool :=
  let op := leAt e 0 1
  let val := s.on (qdbP q) Qdb.VALIDATED
  if op = 0x10 ∨ op = 0x11 ∨ op = 0x12 ∨ op = 0x13 then val && p = s.admin
  else if op = 0x08 then val || !s.isStream (s.queueCtx q)
  else if op = 0x0A ∨ (op = 0x0B ∧ leAt e 0x18 1 % 4 = 2) then val
  else true

/-- The objects that an entry references. -/
def entryObjs (e : List Byte) : List Nat := (bitsOf (fld (leAt e 0 2) 15 12) 4).map fun i => leAt e (0x10 + 2 * i) 2

/-- The command of an entry, and how far the checks of R303 let it go. -/
def State.cmdOf (s : State) (p q : Nat) (e : List Byte) : Cmd :=
  let c := s.queueCtx q
  let objs := entryObjs e
  let st :=
    if !entryOk e then .done stBadEntry 0 0
    else if !s.entryPermitted p q e then .done stNotPermitted 0 0
    else if s.ctxState c = stDead then .done stCtxDead 0 0
    else if !objs.all (fun o => s.maps c o) then .done stRejected rsNoObject 0
    else .fetched
  { id := s.cmdNext, port := p, queue := q, ctx := c, index := s.f (qdbP q) Qdb.HEAD, opcode := leAt e 0 1, ev := bitOf (leAt e 0 2) 8,
    order := bitOf (leAt e 0 2) 9, len := leAt e 4 4, cookie := leAt e 8 8, objs := objs, body := (e.drop 0x18).take 40, st := st }

/-- Whether a command holds its references from its fetch on: it passed the checks and they fit (R318). -/
def State.takesRefs (s : State) (c : Cmd) : Bool := c.st = .fetched && s.refsFit c.objs

/-- ENTRY_FETCH: the entry at a queue's head is fetched in pacing order and checked (R300, R303, R307). -/
def execEntryFetch (p : Fin 4) (q : Fin 256) (entry : Option (List Byte)) (s : State) : Result :=
  if !s.live || !s.hasEntry p.val q.val then .next s
  else
    let (next, skipped) := s.nextFetch
    let paced := fun (s : State) => skipped.foldl (fun s p => s.bump (paceP p) HptPace.PACED_CNT) s
    if next ≠ some (p.val, q.val) then .next (if next = none then paced s else s)
    else
      let pg := qdbP q.val
      let s := (paced s).served p.val q.val
      let a := spGet 0 s.hib.rings q.val + s.f pg Qdb.HEAD % s.depth q.val * 64
      let ok := s.hostOk p.val a 64
      let s := if ok then s else s.deny p.val
      match ok, entry with
      | true, some e =>
        let c := s.cmdOf p.val q.val e
        let held := s.takesRefs c
        let s := (s.setF pg Qdb.HEAD (s.f pg Qdb.HEAD + 1)).bump (paceP p.val) HptPace.FETCH_CNT
        let s := if held then s.takeRefs c.objs else s
        .next { s with cmds := s.cmds ++ [{ c with refs := if held then c.objs else [] }], cmdNext := s.cmdNext + 1 }
      | _, _ => .next (((s.setF pg Qdb.DEPTH_LOG2 0).setB pg Qdb.FETCH_ERR true).irq pg 4)

/-! ## Starting and ending commands (R303, R304, R306) -/

def State.findCmd (s : State) (id : Nat) : Option Cmd := s.cmds.find? fun c => c.id = id

def State.putCmd (s : State) (c : Cmd) : State := { s with cmds := s.cmds.map fun d => if d.id = c.id then c else d }

def Cmd.isDone (c : Cmd) : Bool := match c.st with | .done _ _ _ => true | _ => false

/-- Whether a fetched command may start: the earlier entries of its queue have started, or, with `ORDER`, have completed (R302, R306). -/
def State.mayStart (s : State) (c : Cmd) : Bool :=
  c.st = .fetched && s.on carveP GlbCarve.MEM_INIT_DONE &&
  (s.cmds.takeWhile fun d => d.id ≠ c.id).all fun d => d.queue ≠ c.queue || (if c.order then false else d.st ≠ .fetched)

/-- A field of bytes 0x18 to 0x3F. -/
def Cmd.fld (c : Cmd) (off n : Nat) : Nat := leAt c.body (off - 0x18) n

/-- A fetched command that may start does so: its context has not become DEAD, and its references are held (R298, R318). -/
def State.startWith (s : State) (c : Cmd) (g : Cmd → State → State) : State :=
  if !s.mayStart c then s
  else if s.ctxState c.ctx = stDead then s.finishCmd c.id stCtxDead
  else if c.refs = c.objs then g c s
  else if !s.refsFit c.objs then s
  else
    let s := s.takeRefs c.objs
    let c := { c with refs := c.objs }
    g c (s.putCmd c)

/-- A queue command of an opcode starts; one whose `LEN` is 0 acts on nothing, and COMMAND_COMPLETE ends it (R303). -/
def onCmd (id op : Nat) (s : State) (g : Cmd → State → State) : Result :=
  match s.findCmd id with
  | none => .next s
  | some c => if !s.live || c.opcode ≠ op || c.len = 0 then .next s else .next (s.startWith c g)

def State.reject (s : State) (id result : Nat) (detail : Nat := 0) : State := s.finishCmd id stRejected result detail

/-- A started command that goes on. -/
def State.startCmd (s : State) (c : Cmd) : State := s.putCmd { c with st := .started }

/-- A read of host memory that no window allows, or that fails, ends a command (R295). -/
def State.hostFail (s : State) (c : Cmd) (a n : Nat) : State :=
  (if s.hostOk c.port a n then s else s.deny c.port).reject c.id rsHostRange

/-- QUEUE_NOP: nothing but its completion (R304). -/
def execQueueNop (cmd : Nat) (s : State) : Result := onCmd cmd 0x00 s fun c s => s.finishCmd c.id stDone

/-- OBJ_CREATE: a memory object is made from the frames of a host list; it completes once they are filled (R311). -/
def execObjCreate (cmd : Nat) (frames : Option (List Byte)) (s : State) : Result :=
  onCmd cmd 0x01 s fun c s =>
    if s.creating then s else
    let va := c.fld 0x18 8
    let a := c.fld 0x20 8
    let bank := bitOf (c.fld 0x28 1) 0
    let ok := s.hostOk c.port a (4 * c.len) && frames.any fun l => l.length = 4 * c.len
    let fs := pfnsOf (frames.getD []) c.len
    let code := s.createCheck c.ctx va c.len bank ok (if ok then fs else [])
    if code = rsHostRange then s.hostFail c a (4 * c.len)
    else if code ≠ 0 then s.reject c.id code
    else (s.startCmd c).beginCreate c.id c.ctx bank fs

/-- OBJ_IMPORT: an existing object is mapped into the queue's context (R312). -/
def execObjImport (cmd : Nat) (s : State) : Result :=
  onCmd cmd 0x02 s fun c s =>
    if s.creating then s else
    let o := c.fld 0x18 2
    let s := s.noteRead hibReader false (objAddr o) 32
    let code := s.importCheck c.ctx o (c.fld 0x2C 4)
    if code ≠ 0 then s.reject c.id code else (s.importObj c.ctx c.port o).finishCmd c.id stDone

/-- Whether a context's admitted program spans an object (R318). -/
def State.spannedBy (s : State) (c o : Nat) : Bool := (s.cx c).program.any fun p => p.objs.contains o

/-- OBJ_UNMAP: the object leaves the context, and the port's count falls by 1 (R313, R320). -/
def execObjUnmap (cmd : Nat) (s : State) : Result :=
  onCmd cmd 0x03 s fun c s =>
    let o := c.fld 0x18 2
    let s := s.noteRead hibReader false (objAddr o) 32
    if !s.maps c.ctx o then s.reject c.id rsNoObject
    else if (s.cmds.any fun d => d.id ≠ c.id && d.ctx = c.ctx && d.refs.contains o) || s.spannedBy c.ctx o then s.reject c.id rsInUse
    else ((s.unmapObj c.ctx o).finishCmd c.id stDone).subPort c.ctx c.port o

/-! ## Descriptors (R260) -/

def drReserved : Nat := 1
def drAlign : Nat := 2
def drSpan : Nat := 3
def drBank : Nat := 4
def drRange : Nat := 5
def drBusy : Nat := 6

/-- Kc of a bank part in bytes (R95). -/
def Desc.bankKc (d : Desc) : Nat :=
  let n := popcount d.bkMask 16
  if n = 0 then 0 else 32 * cdiv (dLen d.fmt d.kBank) (32 * n)

/-- Alignment of an offset or a stride to the element (R250). -/
def Desc.elemAligned (d : Desc) (x : Nat) : Bool := d.fmt = 0 || x % (dBits d.fmt / 8) = 0

/-- Whether bytes of a context's addresses are mapped to frames of a view (R260). -/
def State.inView (s : State) (c va n : Nat) (bank : Bool) : Bool :=
  decide (va + n ≤ 2 ^ 40) && (pageSpans va n).all fun (a, _) => match s.walk c a with
    | some e => e.bank = bank && s.zoneBank (fld e.pfn 18 10) = bank
    | none => false

def Desc.bankBad (d : Desc) (s : State) (c : Nat) : Bool :=
  let kc := d.bankKc
  d.bkMask = 0 || 5 ≤ d.fmt || d.kBank = 0 || decide (d.dim0 < d.kBank) || (d.fmt = 0 && d.kBank % 2 = 1) || decide (2048 < kc) ||
  !(bitsOf d.bkMask 16).all fun b =>
    s.inFrames c d.bkStack d.bkChan b d.bkOff (d.dim1 * kc) && s.inFrames c d.bkStack d.bkChan b d.bkActOff (8 * kc)

/-- The order of two range bounds in the element format: whether the lower exceeds the higher, or one is a NaN (R260, R268). -/
def Desc.rangeBad (d : Desc) : Bool :=
  if d.fmt = 3 ∨ d.fmt = 4 ∨ d.fmt = 6 then
    let nan := fun v => decide (0x7F800000 < v % 2 ^ 31)
    let key := fun (v : Nat) => if bitOf v 31 then -((v % 2 ^ 31 : Nat) : Int) else (v : Int)
    nan d.rangeLo || nan d.rangeHi || decide (key d.rangeHi < key d.rangeLo)
  else decide (sgn 32 d.rangeHi < sgn 32 d.rangeLo)

/-- The first check of R260 that a descriptor fails for handle `h` of a context; 0 where it passes. -/
def State.descCheck (s : State) (c h : Nat) (d : Desc) : Nat :=
  let tb := d.view = 2
  if 3 ≤ d.view ∨ d.fmt = 7 ∨ d.resv14 ≠ 0 ∨ (tb ∧ d.base >>> 22 ≠ 0) then drReserved
  else if !d.elemAligned (if tb then d.base % 2 ^ 20 else d.base) ∨ !d.elemAligned d.stride1 ∨ !d.elemAligned d.stride2 ∨ !d.elemAligned d.stride3 ∨
      (d.bkEn ∧ (d.bkOff % 32 ≠ 0 ∨ d.bkActOff % 32 ≠ 0)) then drAlign
  else if !d.isEmpty ∧ (if tb then decide (bufSize (fld d.base 21 20) < d.base % 2 ^ 20 + d.span) else !s.inView c d.base d.span (d.view = 1)) then drSpan
  else if d.bkEn ∧ d.bankBad s c then drBank
  else if d.chk ∧ d.rangeBad then drRange
  else if (s.cx c).program.any (fun p => p.handles.contains h) then drBusy
  else 0

/-- Write descriptors in ascending handle up to the first refusal: its code and handle (R304). -/
def State.writeDescs (s : State) (c first n : Nat) (l : List Byte) : State × Nat × Nat :=
  (List.range n).foldl (fun (s, code, at_) i =>
    if code ≠ 0 then (s, code, at_)
    else
      let b := bytesAt l (64 * i) 64
      let e := s.descCheck c (first + i) (Desc.ofBytes b)
      if e = 0 then (s.poke false (descAddr c (first + i)) b, 0, 0) else (s, e, first + i)) (s, 0, 0)

/-- DESC_WRITE (R304). -/
def execDescWrite (cmd : Nat) (source : Option (List Byte)) (s : State) : Result :=
  onCmd cmd 0x04 s fun c s =>
    let a := c.fld 0x18 8
    let first := c.fld 0x20 2 % 1024
    if 1024 < first + c.len then s.reject c.id rsHandleRange
    else
      match s.hostOk c.port a (64 * c.len), source with
      | true, some l =>
        let (s, code, h) := s.writeDescs c.ctx first c.len l
        if code = 0 then s.finishCmd c.id stDone else s.reject c.id code h
      | _, _ => s.hostFail c a (64 * c.len)

/-! ## BU_CMD (R304, R133) -/

/-- The bank-local address of a range of bank-mode pages of one bank, at offsets that follow on. -/
def State.bankSpan (s : State) (c va n : Nat) : Option Nat :=
  match s.xlate c va with
  | some (true, b) =>
    if (pageSpans va n).all (fun (a, _) => s.xlate c a = some (true, b + (a - va))) && b >>> 25 = (b + n - 1) >>> 25 then some b else none
  | _ => none

/-- BU_CMD: the HIB issues a FILL, COPY or DIGEST to one bank unit (R133, R304); it waits for a free slot. The router answers every other `OP`, and
its `STATUS` is the result (R120, R304). -/
def execBuCmd (cmd : Nat) (s : State) : Result :=
  onCmd cmd 0x05 s fun c s =>
    let op := c.fld 0x18 1
    let n := 32 * c.len
    let src := s.bankSpan c.ctx (c.fld (if op = 3 || op = 4 then 0x20 else 0x28) 8) n
    let dst := s.bankSpan c.ctx (c.fld 0x28 8) (if op = 4 then 8 else n)
    if 2048 < c.len then s.reject c.id rsRange
    else match src, dst with
      | some a, some b =>
        if a >>> 25 ≠ b >>> 25 then s.reject c.id rsRange
        else
          let x : BuCmd := { id := 0, issuer := .host c.id, op := op, ctx := c.ctx, stack := b >>> 33, chan := fld b 32 29,
                             parts := [{ bank := fld b 28 25, slot := 16 }], srcOff := if op = 3 || op = 4 then a % 2 ^ 25 else 0, dstOff := b % 2 ^ 25,
                             word3 := c.fld 0x1C 4, count := c.len, limit := 3 * c.len + 64 }
          match s.buIssue x with
          | .stall => s
          | .taken s _ => s.startCmd c
      | _, _ => s.reject c.id rsRange

/-! ## Running and releasing programs (R304) -/

/-- PROG_RUN: the admitted host program is to run from its entry, with A0 to A3 as given; a run in progress is waited for. -/
def execProgRun (cmd : Nat) (s : State) : Result :=
  onCmd cmd 0x0C s fun c s =>
    if c.len ≠ 1 then s.reject c.id rsRange
    else match (s.cx c.ctx).program with
      | none => s.reject c.id raNoProgram
      | some p =>
        if p.stream then s.reject c.id raNoProgram
        else if (s.cx c.ctx).host.isSome then s
        else
          (s.modCx c.ctx fun y => { y with host := some { cmd := c.id, a0 := (List.range 4).map fun i => c.fld (0x18 + 8 * i) 8 % 2 ^ 40 } }).startCmd c

/-- The certified lengths that the PLV publishes (R283). -/
def State.recert (s : State) : State :=
  let best := fun (st : Bool) => ((List.range 64).filterMap fun c => match (s.cx c).program with
    | some p => if p.stream = st then some p.certNs else none
    | none => none).foldl max 0
  (s.setF plvP Plv.CERT_STREAM_NS (best true)).setF plvP Plv.CERT_SEG_NS (best false)

/-- A context's program is released: it stops, its run-ahead is cancelled, a hold ends, and its device references drop (R318, R321, R347, R396). -/
def State.freeProgram (s : State) (c : Nat) : State :=
  match (s.cx c).program with
  | none => s
  | some p =>
    let s := s.stopProgram c
    let s := (s.setB (ctxP c) Ctx.STREAM_HELD false).setB (ctxP c) Ctx.HELD_BY false
    let s := (s.modCx c fun y => { y with program := none, host := none, started := false, heldNext := false, resumeReq := false }).recert
    s.dropRefs p.objs

/-- Whether a bank unit command still runs a micro-program. -/
def State.uprogBusy (s : State) (u : Uprog) : Bool := s.bus.any fun b => b.op = 5 && b.ctx = u.ctx && b.entry = u.base && b.st ≠ .done

/-- Whether an admitted program calls a routine (R304). -/
def State.calls (s : State) (r : Nat) : Bool := (List.range 64).any fun c => (s.cx c).program.any fun p => p.calls.testBit r

/-- RELEASE of a program, a micro-program or a routine: it completes once the code no longer runs (R304). -/
def execRelease (cmd : Nat) (s : State) : Result :=
  let go := fun (c : Cmd) (s : State) =>
    let idx := c.fld 0x1C 4
    match c.fld 0x18 1 % 4 with
    | 0 =>
      match (s.cx c.ctx).program with
      | none => s.reject c.id raNoProgram
      | some p =>
        if p.stream && (s.attached c.ctx || (s.grp c.ctx).attachCmd ≠ []) then s.reject c.id raAttached
        else if (s.cx c.ctx).host.isSome then s.startCmd c
        else (s.freeProgram c.ctx).finishCmd c.id stDone
    | 1 =>
      let is := fun (u : Uprog) => u.ctx = c.ctx && u.base = idx && u.stackMask = c.fld 0x20 1 % 16 && u.chans = c.fld 0x24 2 && u.banks = c.fld 0x26 2
      match s.plv.uprogs.find? is with
      | none => s.reject c.id raNoProgram
      | some u =>
        if s.uprogBusy u then s.startCmd c
        else { s with plv := { s.plv with uprogs := s.plv.uprogs.filter (· ≠ u) } }.finishCmd c.id stDone
    | _ =>
      match s.plv.routines.find? fun r => r.idx = idx && r.slices = c.fld 0x20 2 with
      | none => s.reject c.id raNoProgram
      | some r =>
        if s.calls idx then s.reject c.id rsInUse
        else { s with plv := { s.plv with routines := s.plv.routines.filter (· ≠ r) } }.finishCmd c.id stDone
  match s.findCmd cmd with
  | some c => if c.opcode = 0x0B ∧ c.st = .started ∧ s.live then .next (go c s) else onCmd cmd 0x0B s go
  | none => .next s

/-! ## QUERY (R304) -/

/-- The 128-byte snapshot. -/
def State.snapshot (s : State) : List Byte :=
  let page := fun (pg : Page) (n : Nat) => (List.range n).flatMap fun i => leBytes 4 (s.readWord pg (0x40 + 4 * i))
  leBytes 8 s.time ++ leBytes 8 s.tickNum ++ page senseP 16 ++ page govP 8 ++ page limP 4

/-- QUERY: the first bytes of a snapshot go to host memory (R304). -/
def execQuery (cmd : Nat) (s : State) : Result :=
  onCmd cmd 0x14 s fun c s =>
    let a := c.fld 0x18 8
    if 128 < c.len then s.reject c.id rsRange
    else if s.hostOk c.port a c.len then (s.emit (.hostWrite c.port a (s.snapshot.take c.len))).finishCmd c.id stDone
    else s.hostFail c a c.len

/-! ## Stream commands (R336, R337) -/

/-- STREAM_ATTACH: an attach that passes its checks waits for the next tick edge (R336). -/
def execStreamAttach (cmd : Nat) (s : State) : Result :=
  onCmd cmd 0x11 s fun c s =>
    let g := c.fld 0x18 1 % 4
    let code := s.attachCheck g
    if code ≠ 0 then s.reject c.id code else (s.modGrp g fun x => { x with attachCmd := x.attachCmd ++ [c.id] }).startCmd c

/-- STREAM_DETACH: a detach waits for the next tick edge; one of a group that is not attached is done (R337). -/
def execStreamDetach (cmd : Nat) (s : State) : Result :=
  onCmd cmd 0x12 s fun c s =>
    let g := c.fld 0x18 1 % 4
    if !s.attached g then s.finishCmd c.id stDone
    else if (s.grp g).detachCmd.isSome then s
    else (s.modGrp g fun x => { x with detachCmd := some c.id }).startCmd c

/-! ## Completion and events (R306, R316, R317) -/

/-- Take a command off the processor: its event, where it asks for one, then its references (R306, R318). -/
def State.retire (s : State) (c : Cmd) (st result detail : Nat) : State :=
  let s := { s with cmds := s.cmds.filter fun d => d.id ≠ c.id }
  let s := if c.ev then
    s.post c.ctx { cookie := c.cookie, type := 1, status := st, result := result, detail := detail % 65536, queue := c.queue } else s
  s.dropRefs c.refs

/-- COMMAND_COMPLETE: an ended command completes; one whose `LEN` is 0, and that may start, completes `DONE_ZERO`, with its references taken and
released (R303, R305, R306, R318). -/
def execCommandComplete (cmd : Nat) (s : State) : Result :=
  match s.findCmd cmd with
  | some c => match c.st with
    | .done st r d => .next (if s.live then s.retire c st r d else s)
    | .fetched => .next (if s.live && c.len = 0 then s.startWith c fun c s => s.retire c stDoneZero 0 0 else s)
    | .started => .next s
  | none => .next s

/-- Whether delivery to a context's host ring is enabled, and the ring's size (R298). -/
def State.evRing (s : State) (c : Nat) : Option Nat :=
  let l := s.f (ctxP c) Ctx.EVQ_LOG2
  if 4 ≤ l ∧ l ≤ 16 then some l else none

/-- Write a record to host ring entry t mod size, with its phase bit, and signal it (R317). -/
def State.deliver (s : State) (c p l t : Nat) (rec_ : List Byte) : State :=
  let a := s.f (ctxP c) Ctx.EVQ_BASE * 4096 + t % 2 ^ l * 16
  let s := s.emit (.hostWrite p a (rec_.take 15 ++ [if bitOf t l then 0 else 1]))
  let s := s.setF (ctxP c) Ctx.EVQ_TAIL (t + 1)
  if s.on (ctxP c) Ctx.EVQ_IRQ_EN then s.sendMsix p c else s

/-- EVENT_DELIVERY: the oldest backing record of a context is written to its host ring when there is room; one that no window allows is lost, and
a LOST record precedes the next that can be written (R295, R317). Nothing is written while the context is torn down (R321). -/
def execEventDelivery (c : Fin 64) (s : State) : Result :=
  let pg := ctxP c.val
  let n := s.f pg Ctx.EV_BACKLOG
  let t := s.f pg Ctx.EVQ_TAIL
  let p := s.ctxPort c.val
  match s.evRing c.val with
  | none => .next s
  | some l =>
    if !s.live || n = 0 || s.ctxState c.val = stTear || !s.portUp p || s.pins.d3hot.getD p false || 2 ^ l ≤ (t + 2 ^ 17 - s.f pg Ctx.EVQ_HEAD) % 2 ^ 17 then .next s
    else if !s.hostOk p (s.f pg Ctx.EVQ_BASE * 4096 + t % 2 ^ l * 16) 16 then
      .next ((((((s.deny p).bump pg Ctx.EV_LOST).modCx c.val fun y => { y with lostHost := y.lostHost + 1 }).setF pg Ctx.EVQ_TAIL (t + 1)).setF
        pg Ctx.EV_BACKLOG (n - 1)))
    else
      let s := s.noteRead hibReader false (backAddr c.val t) 16
      let lost := (s.cx c.val).lostHost
      if lost ≠ 0 then
        let rest := (List.range n).map fun i => s.peek false (backAddr c.val (t + i)) 16
        let s := rest.zipIdx.foldl (fun s (r, i) => s.poke false (backAddr c.val (t + 1 + i)) r) s
        .next ((s.modCx c.val fun y => { y with lostHost := 0 }).deliver c.val p l t (({ type := 5, detail := satN 16 lost } : Event).bytes c.val))
      else .next ((s.setF pg Ctx.EV_BACKLOG (n - 1)).deliver c.val p l t (s.peek false (backAddr c.val t) 16))

/-! ## Doorbells (R300) -/

/-- A write of `QDB_TAIL` (R300). -/
def State.setTail (s : State) (q v : Nat) : State :=
  let pg := qdbP q
  if s.depth q < (v + 2 ^ 16 - s.f pg Qdb.HEAD) % 2 ^ 16 then (s.setB pg Qdb.OVERFLOW true).irq pg 2 else s.setF pg Qdb.TAIL v

/-- A write of `QDB_CFG.DEPTH_LOG2` (R299, R300). -/
def State.setDepth (s : State) (q d : Nat) : State :=
  let pg := qdbP q
  if d = 0 then s.setF pg Qdb.DEPTH_LOG2 0
  else if depthReserved d || s.f pg Qdb.DEPTH_LOG2 ≠ 0 then s
  else ((s.setF pg Qdb.DEPTH_LOG2 d).setF pg Qdb.HEAD 0).setF pg Qdb.TAIL 0

end Sys2Proof.Machine
end

