-- ==== Sys2Proof/Machine/Verify.lean ====
section
/-! DEFINITION. The verifier's checks of an image as it stands: reading it, its header and bound table, encodings, conflicts, branch targets,
calls and the use of descriptors (R224, R261 to R265, R270 to R276). -/

namespace Sys2Proof.Machine

/-! ## Codes (R276) -/

def vcImageFetch : Nat := 0x01
def vcHdrField : Nat := 0x02
def vcKindSlot : Nat := 0x03
def vcSfuVersion : Nat := 0x04
def vcEncoding : Nat := 0x05
def vcSlotConflict : Nat := 0x06
def vcRepeatRule : Nat := 0x07
def vcKindRule : Nat := 0x08
def vcBranchRange : Nat := 0x09
def vcBoundTable : Nat := 0x0A
def vcCallGraph : Nat := 0x0B
def vcExtOpcode : Nat := 0x0C
def vcHandleUse : Nat := 0x10
def vcFifoBalance : Nat := 0x12
def vcReadBeforeWrite : Nat := 0x13
def vcSyncUnbounded : Nat := 0x14
def vcBuExclusive : Nat := 0x15
def vcPlacement : Nat := 0x18
def vcNoGang : Nat := 0x19
def vcStoreFull : Nat := 0x1A
def vcContextState : Nat := 0x1B
def vcFabricState : Nat := 0x1C
def vcBudgetCompute : Nat := 0x20
def vcBudgetSegment : Nat := 0x21
def vcBudgetLimit : Nat := 0x22
def vcUprogEncoding : Nat := 0x28
def vcUprogBranch : Nat := 0x29
def vcUprogBound : Nat := 0x2A
def vcRoutineBusy : Nat := 0x38

/-- A check: the offsets at which it fails; it fails at the lowest (R270). -/
abbrev Check := Nat × List Nat

/-- The first check that fails, with the lowest offset: (0, 0) where all pass. -/
def firstFail (l : List Check) : Nat × Nat :=
  match l.find? fun c => c.2 ≠ [] with
  | some (code, o :: t) => (code, t.foldl min o)
  | _ => (0, 0)

def failAt (bad : Bool) (off : Nat := 0) : List Nat := if bad then [off] else []

/-! ## Images (R224, R273, R275) -/

/-- A bundle program or routine as its image declares it. -/
structure Image where
  magic : Nat
  kind : Nat
  sfu : Nat
  count : Nat
  entry : Nat
  gang : Nat
  idx : Nat
  segs : Nat
  calls : Nat
  zeroOk : Bool
  words : List (BitVec 256)
  bounds : List Bound
  deriving DecidableEq, Repr

def Image.ofBytes (l : List Byte) : Image :=
  let count := leAt l 6 2
  let n := leAt l (32 + 32 * count) 4
  { magic := leAt l 0 4, kind := leAt l 4 1, sfu := fld (leAt l 5 1) 3 0, count := count, entry := leAt l 8 2, gang := leAt l 0xA 1,
    idx := leAt l 0xB 1, segs := leAt l 0xC 4, calls := leAt l 0x10 8, zeroOk := fld (leAt l 5 1) 7 4 = 0 && leAt l 0x18 8 = 0,
    words := (List.range count).map fun i => BitVec.ofNat 256 (leAt l (32 + 32 * i) 32),
    bounds := (List.range n).map fun i =>
      let v := leAt l (36 + 32 * count + 4 * i) 4
      { off := fld v 13 0, kind := fld v 15 14, bound := fld v 31 16 } }

def Image.bundle (m : Image) (i : Nat) : Bundle := Bundle.ofWord (m.words.getD i 0)

/-- The bytes that an image declares: bundles and bound table (R273). -/
def imageLen (l : List Byte) : Nat :=
  let count := leAt l 6 2
  36 + 32 * count + 4 * leAt l (32 + 32 * count) 4

/-- A micro-program as its image declares it (R275). -/
structure UImage where
  magic : Nat
  count : Nat
  zeroOk : Bool
  words : List W64
  bounds : List Bound
  deriving DecidableEq, Repr

def UImage.ofBytes (l : List Byte) : UImage :=
  let count := leAt l 4 2
  { magic := leAt l 0 4, count := count, zeroOk := leAt l 8 8 = 0,
    words := (List.range count).map fun i => BitVec.ofNat 64 (leAt l (16 + 8 * i) 8),
    bounds := (List.range (leAt l 6 2)).map fun i =>
      let v := leAt l (16 + 8 * count + 4 * i) 4
      { off := fld v 9 0, kind := fld v 15 10, bound := fld v 31 16 } }

def uimageLen (l : List Byte) : Nat := 16 + 8 * leAt l 4 2 + 4 * leAt l 6 2

/-- The bytes of the image object from an address on, and how many of `n` the object holds. -/
def State.imageRoom (s : State) (c va n : Nat) : Nat :=
  match s.walk c va with
  | none => 0
  | some e =>
    let x := s.obj e.obj
    min n (x.va + x.count * 65536 - va)

/-- Read an image of `n` bytes as its first bytes declare it: `none` where the object does not hold it, it is longer than `n`, or a byte of it
is uncorrectable (R276, code 0x01). -/
def State.fetchImage (s : State) (c va n : Nat) (head : Nat) (declared : List Byte → Nat) : State × Option (List Byte) :=
  let have_ := s.imageRoom c va n
  if have_ < head then (s, none)
  else
    let raw := fun (k : Nat) => (pageSpans va k).flatMap fun (a, m) => match s.xlate c a with
      | some (v, x) => s.peek v x m
      | none => zeros m
    let d := declared (raw have_)
    if have_ < d then (s, none)
    else match s.readVa { plvReader with ctx := c } c va d with
      | (s, .ok (l, bad)) => (s, if bad.any id then none else some l)
      | (s, .error _) => (s, none)

/-! ## Steps 1 to 3 (R271 to R273) -/

/-- Step 1 for a bundle program or routine: header fields, kind and slot, special-function version, fabric (codes 0x02 to 0x04 and 0x1C).
`routine` says which admission command brought the image. -/
def State.headerChecks (s : State) (m : Image) (c : Nat) (routine validated : Bool) : List Check :=
  let top := if m.kind = 2 then 2048 else 8192
  let field := m.magic ≠ 0x4B524C4E || decide (2 < m.kind) || !m.zeroOk || m.count = 0 || decide (top < m.count) || decide (m.count ≤ m.entry) ||
    m.gang = 0 || decide (16 < m.gang) || decide (63 < m.idx) || (m.kind ≠ 2 && m.idx ≠ 0) || (m.kind = 1 && m.segs = 0) ||
    (m.kind ≠ 1 && m.segs ≠ 0)
  let slot := (m.kind = 2) ≠ (routine = true) || (m.kind = 0 && (!s.isStream c || !validated)) || (m.kind = 1 && s.isStream c) ||
    (m.kind = 2 && !validated)
  let frozen := m.sfu ≠ 0 && !(s.f devP DevCap.SFU_FROZEN_MASK).testBit m.sfu
  [(vcHdrField, failAt field), (vcKindSlot, failAt slot), (vcSfuVersion, failAt frozen),
   (vcFabricState, failAt (s.on glbP GlbCtrl.LOADING || !s.on glbP GlbCtrl.LOADED))]

/-- Whether a bundle's scalar slot is a branch with a target, a call, or a return. -/
def Bundle.isBranch (b : Bundle) : Bool := b.scOp = 0x20 || b.scOp = 0x21 || b.scOp = 0x22
def Bundle.isCall (b : Bundle) : Bool := b.scOp = 0x23
def Bundle.isRet (b : Bundle) : Bool := b.scOp = 0x24
def Bundle.target (b : Bundle) : Nat := b.imm % 2 ^ 14

/-- Whether execution can go on to the next bundle. -/
def Bundle.falls (b : Bundle) : Bool := (b.pen && b.rept ≠ 0) || !(b.scOp = 0x20 || b.isRet || b.syOp = 1)

/-- Step 2 (codes 0x05 to 0x08). -/
def Image.encodingChecks (m : Image) : List Check :=
  let at_ := fun (p : Bundle → Bool) => (List.range m.count).filter fun i => p (m.bundle i)
  let kindBad := fun (b : Bundle) =>
    (m.kind ≠ 1 && (b.syOp = 2 || b.syOp = 3)) || (m.kind = 2 && b.syOp = 1) || (m.kind ≠ 0 && b.stOp = 4)
  [(vcEncoding, at_ fun b => b.bad.isSome), (vcSlotConflict, at_ fun b => b.writes.eraseDups.length ≠ b.writes.length),
   (vcRepeatRule, at_ fun b => b.repeatOne && b.rept ≠ 1), (vcKindRule, at_ kindBad)]

/-- The entries of type `k` that the bundles need: backward branches, and BUCMDs (R273). -/
def Image.needsBound (m : Image) (k i : Nat) : Bool :=
  let b := m.bundle i
  if k = 0 then b.isBranch && decide (b.target ≤ i) else k = 1 && b.mxOp = 3

/-- The offsets at which R273 is broken. -/
def Image.boundFails (m : Image) : List Nat :=
  let missing := (List.range m.count).filter fun i => (List.range 2).any fun k =>
    m.needsBound k i && (m.bounds.filter fun e => e.off = i && e.kind = k).length ≠ 1
  let wrong := (m.bounds.filter fun e => decide (1 < e.kind) || decide (m.count ≤ e.off) || !m.needsBound e.kind e.off ||
    (e.kind = 1 && e.bound = 0)).map (·.off)
  missing ++ wrong

/-! ## Calls (R244) -/

/-- A resident routine of an index on a slice. -/
def State.routineOn (s : State) (idx n : Nat) : Option Routine := s.plv.routines.find? fun r => r.idx = idx && r.slices.testBit n

/-- The bundles of a resident routine, as a slice stores them. -/
def State.routineBundles (s : State) (r : Routine) : List Bundle :=
  let n := ((bitsOf r.slices 16).head?).getD 0
  (List.range r.count).map fun i => Bundle.ofWord (spGet 0 (s.slice n).store (r.base + i))

/-- How deep the calls of a list of bundles go on slice `n`, and the routine indices that they reach: `none` for a depth above the fuel, or a routine
that is not resident there. `self` stands for the routine being admitted. -/
def State.callDepth (s : State) (self : Option (Nat × List Bundle)) (n : Nat) : Nat → List Bundle → Option (Nat × List Nat)
  | 0, l => if l.any Bundle.isCall then none else some (0, [])
  | fuel + 1, l =>
    ((l.filter Bundle.isCall).map fun b => b.imm % 64).foldl (fun acc r =>
      match acc with
      | none => none
      | some (d, reach) =>
        let body := match self with
          | some (i, own) => if i = r then some own else (s.routineOn r n).map s.routineBundles
          | none => (s.routineOn r n).map s.routineBundles
        match body.bind fun x => s.callDepth self n fuel x with
        | none => none
        | some (k, more) => some (max d (k + 1), reach ++ r :: more)) (some (0, []))

def Image.bundles (m : Image) : List Bundle := (List.range m.count).map m.bundle

/-- The offsets at which R244 is broken for a gang: a call of a routine without its header bit, one that is not resident on every slice, or one whose
calls go round or deeper than 8. -/
def State.callFails (s : State) (m : Image) (gang : List Nat) : List Nat :=
  let self := if m.kind = 2 then some (m.idx, m.bundles) else none
  (List.range m.count).filter fun i =>
    let b := m.bundle i
    b.isCall && (!m.calls.testBit (b.imm % 64) || gang.any fun n => match s.callDepth self n 8 [b] with
      | none => true
      | some (_, reach) => reach.any fun r => !m.calls.testBit r)

/-- The offsets from which execution would run past the last bundle. -/
def Image.runsOff (m : Image) : List Nat := (List.range m.count).filter fun i => i + 1 = m.count && (m.bundle i).falls

/-- Step 3 (codes 0x09 to 0x0B and 0x38). `gang`: slices on which every called routine must be resident; that of a host program is not chosen yet. -/
def State.flowChecks (s : State) (m : Image) (gang : List Nat) : List Check :=
  [(vcBranchRange, ((List.range m.count).filter fun i => (m.bundle i).isBranch && decide (m.count ≤ (m.bundle i).target)) ++ m.runsOff),
   (vcBoundTable, m.boundFails), (vcCallGraph, s.callFails m gang),
   (vcRoutineBusy, failAt (m.kind = 2 && (s.plv.routines.any fun r => r.idx = m.idx) && s.calls m.idx))]

/-! ## Step 4: descriptors (R261, R263, R265) -/

/-- A tile operation on a descriptor and a buffer; `load` is whether it goes into the buffer (R261). -/
def State.tileBad (s : State) (c h buf kphys : Nat) (load : Bool) : Bool :=
  let d := s.desc c h
  decide (1 < d.view) || (load && decide (buf ≤ 1) && d.bufFmt ≠ d.fmt) || (buf = 0 && decide (8 < d.tile1)) ||
  (buf = 1 && (decide (rowBytes kphys d.fmt < dLen d.fmt d.tile0) || decide (512 < d.tile1))) ||
  (buf ≠ 1 && decide (bufSize buf < d.copyBytes buf))

/-- Whether a descriptor cannot be used by any instruction: an index tensor that is not one of buffer 3, or a span that is no longer wholly mapped
(R261, R314). -/
def State.descBad (s : State) (c h : Nat) : Bool :=
  let d := s.desc c h
  let i := s.desc c d.idxHandle
  (d.idxEn && !(i.view = 2 && fld i.base 21 20 = 3 && (i.fmt = 2 || i.fmt = 5))) ||
  (decide (d.view ≤ 1) && !d.isEmpty && !s.inView c d.base d.span (d.view = 1))

/-- Whether a bank part is absent, or no longer lies in frames of the context (R94, R261). -/
def State.partBad (s : State) (c : Nat) (w : Desc) : Bool := !w.bkEn || w.bankBad s c

/-- The stationary descriptor S of a bank part W (R261, R265). -/
def batchBad (w st : Desc) : Bool := st.view ≠ 2 || decide (8 < st.dim1) || decide (4096 < st.dim1 * w.bankKc)

/-- MMUL of W and S (R263, R265). -/
def mmulBad (w st : Desc) : Bool :=
  decide (1 < w.view) || decide (4 < w.fmt) || st.view ≠ 2 || fld st.base 21 20 ≠ 0 || st.fmt ≠ w.fmt || st.dim0 ≠ w.d0 ||
  decide (512 < w.dim1) || decide (8 < st.dim1) || decide (bufSize 0 < st.base % 2 ^ 20 + dLen st.fmt (8 * st.dim0)) ||
  (w.bkEn && (w.d0 = 0 || batchBad w st))

/-- Whether a bundle uses a descriptor against R94, R261, R263, R265 or R314. -/
def State.useBad (s : State) (c kphys : Nat) (b : Bundle) : Bool :=
  let d := s.desc c
  let scalarMem := fun (v : Nat) => decide (1 < (d (fld v 13 4)).view)
  let w := d (fld b.mx 13 4)
  let st := d (fld b.mx 23 14)
  let used := (if b.ldOp = 1 ∨ b.ldOp = 3 ∨ b.ldOp = 4 then [fld b.ld 13 4] else []) ++ (if b.stOp = 1 ∨ b.stOp = 3 then [fld b.st 13 4] else []) ++
    (if b.mxOp = 1 ∨ b.mxOp = 2 then [fld b.mx 13 4, fld b.mx 23 14] else if b.mxOp = 3 then [fld b.mx 13 4] else [])
  used.any (s.descBad c) ||
  (b.ldOp = 1 && s.tileBad c (fld b.ld 13 4) (fld b.ld 19 18) kphys true) || (b.ldOp = 3 && scalarMem b.ld) ||
  (b.ldOp = 4 && (if bitOf b.ld 18 then s.partBad c (d (fld b.ld 13 4)) else s.tileBad c (fld b.ld 13 4) 1 kphys true)) ||
  (b.stOp = 1 && s.tileBad c (fld b.st 13 4) (fld b.st 19 18) kphys false) || (b.stOp = 3 && scalarMem b.st) ||
  (b.mxOp = 1 && (mmulBad w st || (w.bkEn && s.partBad c w))) || (b.mxOp = 2 && (s.partBad c w || batchBad w st)) ||
  (b.mxOp = 3 && s.partBad c w)

/-- The handles that a bundle names, index tensors among them. -/
def State.handlesOf (s : State) (c : Nat) (b : Bundle) : List Nat :=
  let h := (if b.ldOp = 1 ∨ b.ldOp = 3 ∨ b.ldOp = 4 then [fld b.ld 13 4] else []) ++ (if b.stOp = 1 ∨ b.stOp = 3 then [fld b.st 13 4] else []) ++
    (if b.mxOp = 1 ∨ b.mxOp = 2 then [fld b.mx 13 4, fld b.mx 23 14] else if b.mxOp = 3 then [fld b.mx 13 4] else [])
  h ++ (h.filter fun k => (s.desc c k).idxEn).map fun k => (s.desc c k).idxHandle

/-- A chain of a channel in a list of bank units, beside the keys of the bank units. -/
def chainKey (stack chan : Nat) : Nat := 1024 + stack * 16 + chan

/-- The bank units that a bundle names, and the chain that its DOT uses (R132). -/
def State.busOf (s : State) (c : Nat) (b : Bundle) : List Nat :=
  let d := fun (h : Nat) => s.desc c h
  let units := fun (w : Desc) => (bitsOf w.bkMask 16).map fun k => buKey w.bkStack w.bkChan k
  let dot := fun (w : Desc) => if w.bkEn then chainKey w.bkStack w.bkChan :: units w else []
  (if b.mxOp = 1 ∨ b.mxOp = 2 then dot (d (fld b.mx 13 4)) else if b.mxOp = 3 then dot (d (fld b.mx 13 4)) else []) ++
  (if b.ldOp = 4 ∧ bitOf b.ld 18 then dot (d (fld b.ld 13 4)) else [])

end Sys2Proof.Machine
end

