-- ==== Sys2Proof/Machine/Certify.lean ====
section
/-! DEFINITION. The verifier's walk over every path of a program: dataflow of the weight FIFO and the tile buffers, tokens and barriers, and the
schedule that gives the certified cycles (R277 to R281). Every conditional branch and every predicate is followed both ways, and a bounded back edge
is taken from 0 times to its bound. DEDUCED: what a predicated bundle appends to the weight FIFO and matches there counts whether its predicate holds
or not, as Worked case 12.a needs (log 52). -/

namespace Sys2Proof.Machine

/-! ## What a walk runs on -/

/-- A walk: the context, whether the program is a stream program, the shape and the slice, the member of the gang, the image, and the times at which
the barriers met so far let the gang go on, by segment, kind (0 GBAR, 1 + token WAITTOK) and place among those of the kind. -/
structure WalkEnv where
  ctx : Nat
  stream : Bool
  kphys : Nat
  nphys : Nat
  slice : Nat
  member : Nat
  image : Image
  ra : Bool
  gates : List ((Nat × Nat × Nat) × Nat)
  deriving DecidableEq, Repr

/-- A product in the schedule: its bank, its rows, when the first row of its last pass is read, when its array share and its bank share end. -/
structure SimProduct where
  z : Nat
  m : Nat
  first : Nat
  vis : Nat
  bank : Nat
  issue : Nat
  deriving DecidableEq, Repr

/-- The cycle in which a product completes: 1 after the later of its shares (R281). -/
def SimProduct.done (p : SimProduct) : Nat := max p.vis p.bank + 1

/-- A weight tile appended and not yet matched (R277). -/
structure SimTile where
  handle : Nat
  origin : Option Nat
  tile0 : Nat
  tile1 : Nat
  outerN : Nat
  bytes : Nat
  done : Nat
  deriving DecidableEq, Repr

/-- Where a path stands. Times are engine cycles from the start of the program or of the segment. `rdy` and `free` are when a register can be read and
written, `outs` outstanding operations as (class, tag, completion), `tw` tile-buffer writes as (range, completion, load), `sts` stores as (first byte, last
byte, completion), `valid` the granules written as intervals, `stack` the return addresses with the time that the cost of a CALL gives. Of the
segment, `toks` holds the SIGNALs to each token, the latest of them and the counts taken, `net` the balance, and `met` the barriers of each kind; `past`,
`nets` and `ends` are the tokens, balances and completion times of the segments before. -/
structure Sim where
  pc : Nat
  rep : Nat := 0
  t : Nat := 0
  stack : List (Nat × Nat) := []
  site : Nat := 0
  taken : Sp Nat := []
  regs : Sp (Option Nat) := []
  rdy : Sp Nat := []
  free : Sp Nat := []
  units : Sp Nat := []
  outs : List (Nat × Nat × Nat) := []
  tw : List ((Nat × Nat × Nat) × Nat × Bool) := []
  sts : List (Nat × Nat × Nat) := []
  prods : List SimProduct := []
  arrFree : Nat := 0
  arrLast : Option (Nat × Nat) := none
  fifo : List SimTile := []
  valid : List (Nat × Nat) := []
  tags : List Nat := []
  net : List Int := List.replicate 16 0
  toks : List (Nat × Nat × Nat) := List.replicate 16 (0, 0, 0)
  met : List Nat := List.replicate 17 0
  past : List (List (Nat × Nat × Nat)) := []
  nets : List (List Int) := []
  ends : List Nat := []
  gbars : Nat := 0
  fails : List (Nat × Nat) := []
  cold : List (Nat × Nat × Nat) := []
  warm : List (Nat × Nat × Nat) := []
  deriving DecidableEq, Repr

/-- Element by element, with what the longer list has beyond the other. -/
def zipLong {α : Type} (g : α → α → α) : List α → List α → List α
  | a :: l, b :: m => g a b :: zipLong g l m
  | [], m => m
  | l, [] => l

/-- What all paths of a walk give together: failures, the largest C of each segment, the barriers whose time is not known yet with the latest arrival,
the fewest SIGNALs to each token, the latest of them and the most taken, the least balance of each token, the numbers of GBARs, and the buffer reads
that no write covers and that some write covers. -/
structure Sum where
  fails : List (Nat × Nat) := []
  segs : List Nat := []
  waits : List ((Nat × Nat × Nat) × Nat) := []
  toks : List (List (Nat × Nat × Nat)) := []
  nets : List (List Int) := []
  gbars : List Nat := []
  cold : List (Nat × Nat × Nat) := []
  warm : List (Nat × Nat × Nat) := []
  deriving DecidableEq, Repr

def Sum.join (a b : Sum) : Sum :=
  { fails := a.fails ++ b.fails, segs := zipLong max a.segs b.segs,
    waits := b.waits.foldl (fun l (k, t) => if l.any fun e => e.1 = k then l.map fun e => if e.1 = k then (k, max e.2 t) else e else l ++ [(k, t)]) a.waits,
    toks := zipLong (zipLong fun (m, t, k) (n, u, j) => (min m n, max t u, max k j)) a.toks b.toks,
    nets := zipLong (zipLong min) a.nets b.nets,
    gbars := (a.gbars ++ b.gbars).eraseDups, cold := a.cold ++ b.cold, warm := a.warm ++ b.warm }

/-- The offset that a failure names: of the bundle, or of the CALL in the image that leads to it. -/
def Sim.at_ (w : Sim) : Nat := if w.stack = [] then w.pc else w.site

def Sim.fail (w : Sim) (code : Nat) (bad : Bool) : Sim := if bad then { w with fails := w.fails ++ [(code, w.at_)] } else w

/-! ## Known registers -/

def Sim.reg (w : Sim) (code : Nat) : Option Nat := spGet (some 0) w.regs code
def Sim.setReg (w : Sim) (code : Nat) (v : Option Nat) : Sim := { w with regs := spPut (some 0) w.regs code v }

/-- A slice that holds the known values, and 0 elsewhere. -/
def Sim.slice (w : Sim) : Slice :=
  let x := (List.range 16).foldl (fun (x : Slice) r => x.setA r ((w.reg r).getD 0)) {}
  let x := (List.range 8).foldl (fun (x : Slice) r => x.setC r ((w.reg (16 + r)).getD 0)) x
  (List.range 4).foldl (fun (x : Slice) r => x.setK r ((w.reg (24 + r)).getD 0)) x

def RegName.key : RegName → Nat
  | .s c => c
  | .v r => 32 + r

/-- Registers that a comparator reads: one that is not known may read any counter. -/
def Sim.cmpReads (w : Sim) (k : Nat) : List Nat :=
  if (w.reg (24 + k)).isSome then [24 + k, 16 + fld (w.slice.kReg k) 34 32] else (24 + k) :: (List.range 8).map (16 + ·)

/-- Registers that a bundle reads, its predicate among them. -/
def Sim.reads (w : Sim) (d : Nat → Desc) (b : Bundle) : List Nat :=
  (b.reads d w.slice).map RegName.key ++ (if b.scOp = 0x21 ∨ b.scOp = 0x22 then w.cmpReads (b.ra - 24) else []) ++
    (if b.pen then w.cmpReads b.pk else [])

/-- The scalar slot as far as its result is known (R226). -/
def Sim.scalar (w : Sim) (e : WalkEnv) (b : Bundle) : Sim :=
  let x := w.slice
  let known := (b.scalarReads x).all fun r => (w.reg r.key).isSome
  match b.scOp with
  | 0x25 =>
    if known && (w.reg b.rd).isSome then
      w.setReg b.rd (some ((x.swrite32 (.k (b.rd - 24)) (low 32 (x.wide b.ra))).kReg (b.rd - 24)))
    else w.setReg b.rd none
  | 0x26 => w.setReg b.rd (some (low 32 (sgn 18 (fld b.imm 23 6)) ||| (fld b.imm 2 0 <<< 32) ||| (fld b.imm 5 3 <<< 35)))
  | 0x27 => w.setReg b.rd (match b.imm % 16 with | 2 => some e.slice | 3 => some e.member | _ => none)
  | op =>
    if 1 ≤ op ∧ op ≤ 0x18 then
      let v := (x.scalarValue b).1
      w.setReg b.rd (if known then some (low (if isA b.rd then 40 else 32) v) else none)
    else w

/-! ## Tile buffers (R278) -/

/-- The granules of a buffer range as intervals. -/
def granRuns (r : Nat × Nat × Nat) : List (Nat × Nat) :=
  (tbRuns r.1 r.2.1 r.2.2).filterMap fun (o, _, n) =>
    let k := tbKey r.1 o
    if n = 0 then none else some (k / 32, (k + n - 1) / 32)

/-- What is left of an interval without others. -/
def cutRuns (r : Nat × Nat) (l : List (Nat × Nat)) : List (Nat × Nat) :=
  l.foldl (fun out (a, b) => out.flatMap fun (lo, hi) =>
    if hi < a ∨ b < lo then [(lo, hi)]
    else (if lo < a then [(lo, a - 1)] else []) ++ (if b < hi then [(b + 1, hi)] else [])) [r]

/-- A read of a buffer range: which of its granules no write on the path covers, and which one does. -/
def Sim.tbRead (w : Sim) (r : Nat × Nat × Nat) : Sim :=
  (granRuns r).foldl (fun w g =>
    let cold := cutRuns g w.valid
    let warm := cold.foldl (fun l c => l.flatMap fun h => cutRuns h [c]) [g]
    { w with cold := w.cold ++ cold.map fun (a, b) => (w.at_, a, b), warm := w.warm ++ warm.map fun (a, b) => (w.at_, a, b) }) w

def Sim.tbWrite (w : Sim) (r : Nat × Nat × Nat) (done : Nat) (load : Bool) : Sim :=
  { w with valid := w.valid ++ granRuns r, tw := w.tw ++ [(r, done, load)] }

/-- A write somewhere in a buffer: it may cover any of it. -/
def Sim.tbWriteAny (w : Sim) (buf done : Nat) : Sim := w.tbWrite (buf, 0, bufSize buf) done false

/-- The cycle by which the writes to a range have completed; loads count by 4 KiB (R238, R240). -/
def Sim.tbSettled (w : Sim) (r : Nat × Nat × Nat) : Nat :=
  w.tw.foldl (fun t (q, done, load) => if rangesHit (if load then 4096 else 1) r q then max t done else t) 0

/-- A read somewhere in a buffer: no write covers it where the path has written nothing there. -/
def Sim.tbReadAny (w : Sim) (buf : Nat) : Sim :=
  (granRuns (buf, 0, bufSize buf)).foldl (fun w (a, b) =>
    if w.valid.any fun (lo, hi) => decide (lo ≤ b) && decide (a ≤ hi) then { w with warm := w.warm ++ [(w.at_, a, b)] }
    else { w with cold := w.cold ++ [(w.at_, a, b)] }) w

/-- The ranges of a T operation's copies in a buffer (R235, R256). -/
def copyRuns (d : Desc) (t : TForm) (rep : Nat) : List (Nat × Nat × Nat) :=
  (List.range d.outerN).map fun k => (t.buf, d.copyOff (tOff t d rep) k, d.copyBytes t.buf)

/-- How many elements, rows and copies of a tile at a known origin lie inside the tensor at its static lengths (R253, R256, R258). -/
def tileInside (d idx : Desc) (origin : Nat) : Nat × Nat × Nat :=
  let o := d.split origin
  let left := fun (i n dim : Nat) => min n (dim - o.getD i 0)
  if d.dim2 ≤ o.getD 2 0 then (0, 0, 0)
  else (left 0 d.tile0 d.d0, left 1 d.tile1 (if d.idxEn then idx.dim0 else d.dim1), left 3 d.outerN d.dim3)

/-- The buffer ranges that an STT reads: the rows inside the tensor, or its whole static tile where the origin is not known (R255, R278). -/
def storeReads (d idx : Desc) (t : TForm) (rep : Nat) (origin : Option Nat) : List (Nat × Nat × Nat) :=
  match origin with
  | none => copyRuns d t rep
  | some o =>
    let (n0, n1, n3) := tileInside d idx o
    if n0 = 0 ∨ n1 = 0 then []
    else (List.range n3).flatMap fun k =>
      let off := d.copyOff (tOff t d rep) k
      if t.buf = 0 then [(0, off, dLen d.bufFmt (8 * n0))] else (List.range n1).map fun r => (t.buf, off + r * d.trow, dLen d.bufFmt n0)

/-- The index elements that a tile operation reads in buffer 3 (R258). -/
def indexReads (d idx : Desc) (origin : Option Nat) : List (Nat × Nat × Nat) :=
  let w := dBits idx.fmt / 8
  let base := idx.base % 2 ^ 20
  if !d.idxEn then []
  else match origin with
    | none => [(3, base, w * idx.dim0)]
    | some o =>
      let (n0, n1, n3) := tileInside d idx o
      if n0 = 0 ∨ n1 = 0 ∨ n3 = 0 then [] else [(3, base + w * (d.split o).getD 1 0, w * n1)]

/-! ## Transfers (R280, R281) -/

/-- The bytes that a tile operation costs: each static row of each copy in whole beats; an unknown origin costs a whole tile. -/
def tileCost (d idx : Desc) (origin : Option Nat) : Nat :=
  if d.tile0 = 0 ∨ d.tile1 = 0 ∨ d.outerN = 0 ∨ d.isEmpty then 0
  else
    let (n0, n1, n3) := tileInside d idx (origin.getD 0)
    cdiv (dLen d.fmt n0) 32 * 32 * n1 * n3

/-- A transfer in one direction (unit 8 reads, unit 9 writes): the cycle in which it completes. -/
def Sim.transfer (w : Sim) (e : WalkEnv) (unit_ at_ bytes : Nat) : Sim × Nat :=
  let end_ := max at_ (spGet 0 w.units unit_) + cdiv bytes (if e.stream then 512 else 160)
  ({ w with units := spPut 0 w.units unit_ end_ }, end_ + 48)

def Sim.out (w : Sim) (cls tag done : Nat) : Sim := { w with outs := w.outs ++ [(cls, tag, done)] }

/-- The bytes of memory that a descriptor covers, or four of them at a known offset. -/
def memSpan (d : Desc) (at_ : Option Nat) : Nat × Nat :=
  match at_ with
  | some a => (d.base + a, d.base + a + 3)
  | none => (d.base, d.base + d.span - 1)

/-- The cycle by which earlier stores to any of the bytes have completed (R240). -/
def Sim.stored (w : Sim) (r : Nat × Nat) : Nat :=
  w.sts.foldl (fun t (lo, hi, done) => if lo ≤ r.2 ∧ r.1 ≤ hi then max t done else t) 0

/-- A result of a register: readable, and for `late` writable, from a cycle on. -/
def Sim.result (w : Sim) (key at_ : Nat) (late : Bool := true) : Sim :=
  { w with rdy := spPut 0 w.rdy key at_, free := if late then spPut 0 w.free key at_ else w.free }

def Sim.ainc (w : Sim) (an by_ : Nat) (on : Bool) : Sim := if on then w.setReg an ((w.reg an).map fun v => (v + by_) % 2 ^ 40) else w

/-! ## The array (R160 to R165, R281) -/

/-- One pass: when its first row is read, and the array after it. -/
def Sim.pass (w : Sim) (fmt f m stages from_ rows : Nat) : Sim × Nat :=
  let fe := max w.arrFree from_ + f - 1
  let (first, swapped) := match w.arrLast with
    | none => (fe + 2, fe + 1)
    | some (g, last) =>
      if g = fmt ∧ fe ≤ last + 1 + stages then
        let c0 := max (last + 2) fe
        (c0 - 1, c0 + stages - 1)
      else
        let sw := max (fe + 1) (last + 2 + stages)
        (sw + 1, sw)
  let first := max first rows
  ({ w with arrFree := swapped + 1, arrLast := some (fmt, first + m - 1) }, first)

/-- The R137 cost of a DOT or of a BUCMD in engine cycles. -/
def buEngine (cycles : Nat) : Nat := cdiv (cycles * 9) 8

/-- The BU cycles of the DOT of a bank part, at the static sizes (R137). -/
def dotCycles (x : Slice) (w : Desc) (m b : Nat) (destBank : Bool) : Nat := (dotCmd 0 x w 0 m b b 0 destBank false 0).limit - 1

/-- The BU cycles of a BUCMD at its bound (R137, R273). -/
def bucmdCycles (bound : Nat) : Nat := 12 + (bound + 1) + cdiv (bound + 1) 7

/-- MMUL: its match in the FIFO, its fills and passes, and its bank share (R277, R281). -/
def Sim.mmul (w : Sim) (e : WalkEnv) (d : Nat → Desc) (b : Bundle) (t : Nat) : Sim :=
  let hw := fld b.mx 13 4
  let wd := d hw
  let st := d (fld b.mx 23 14)
  let m := wd.dim1
  let n := st.dim1
  if m = 0 ∨ n = 0 ∨ wd.d0 = 0 then { w with tags := fld b.mx 39 28 :: w.tags }
  else
    let kp := kpass e.kphys wd.fmt
    let p := cdiv wd.d0 kp
    let g := cdiv n e.nphys
    let tiles := w.fifo.take (g * p)
    let good := tiles.length = g * p && tiles.zipIdx.all fun (q, i) =>
      q.handle = hw && q.tile0 = kp && q.tile1 = m && q.outerN = 1 && q.origin = some (i % p * kp)
    let w := { (w.fail vcFifoBalance (!good)) with fifo := w.fifo.drop (g * p) }
    let span := (0, st.base % 2 ^ 20, dLen wd.fmt (8 * wd.d0))
    let w := w.tbRead span
    let from_ := max t (w.tbSettled span)
    let stages := e.kphys / 32
    let (w, first) := (List.range (g * p)).foldl (fun (w, _) i =>
      let kin := min kp (wd.d0 - i % p * kp)
      let cols := min e.nphys (n - i / p * e.nphys)
      w.pass wd.fmt (cdiv (dLen wd.fmt kin * cols) 512) m stages from_ ((tiles.map (·.done)).getD i 0)) (w, 0)
    let share := if wd.bkEn then t + buEngine (dotCycles w.slice wd m n false) else 0
    let w := if wd.bkEn then { w.out 3 (fld b.mx 39 28) share with tags := fld b.mx 39 28 :: w.tags } else { w with tags := fld b.mx 39 28 :: w.tags }
    { w with prods := w.prods ++ [{ z := fld b.mx 25 24, m := m, first := first, vis := first + m - 1 + stages + 4, bank := share, issue := t }] }

/-- ZRD: the cycle in which its register is readable; the ZRDs of one bank read one row in each cycle, in order, and a product that runs on the bank
is delayed by 8 (R184, R281). Units 32 to 35 are the row ports. -/
def Sim.zrd (w : Sim) (e : WalkEnv) (i : VSlot) (t : Nat) : Sim :=
  let z := fld i.aux 10 9
  let r0 := fld i.aux 8 0
  let live := w.prods.filter fun p => p.z = z && decide (t < p.done)
  let last := (List.range 8).foldl (fun c k =>
    let vis := live.foldl (fun v p => max v (if r0 + k < p.m then p.first + (r0 + k) + e.kphys / 32 + 4 else 0)) 0
    max (max (c + 1) (t + k)) vis) (spGet 0 w.units (32 + z))
  let w := { w with units := spPut 0 w.units (32 + z) last }
  let w := { w with prods := w.prods.map fun (p : SimProduct) => if p.z = z ∧ t < p.done then { p with vis := p.vis + 8 } else p }
  (w.out 5 0 (last + 10)).result (32 + i.vd) (last + 10) false

/-! ## When a bundle can issue (R236 to R238) -/

/-- The cycle from which fewer than `k` of the completions lie ahead. -/
def roomAt (k : Nat) : Nat → Nat → List Nat → Nat
  | 0, t, _ => t
  | fuel + 1, t, l =>
    let ahead := l.filter fun d => decide (t < d)
    if ahead.length < k then t else roomAt k fuel (ahead.foldl min (ahead.headD 0)) l

def Sim.doneOf (w : Sim) (cls : Nat) : List Nat :=
  (w.outs.filter fun o => o.1 = cls).map (·.2.2) ++ (if cls = 2 then w.prods.map SimProduct.done else [])

/-- The latest completion of everything outstanding. -/
def Sim.quiet (w : Sim) : Nat := (w.outs.map (·.2.2) ++ w.prods.map SimProduct.done).foldl max 0

/-- The buffer ranges that a bundle reads in its repetition, where their places are known, and the buffer that its LDV reads where they are not. -/
def Sim.bufReads (w : Sim) (d : Nat → Desc) (b : Bundle) : List (Nat × Nat × Nat) × Option Nat :=
  let l := vForm b.ld
  let t := tForm b.st
  let x := d t.handle
  let idx := fun (v : Nat) => let i := d (fld v 13 4); indexReads i (d i.idxHandle) (w.reg (fld v 17 14))
  let at_ := if b.ldOp = 2 then w.reg l.an else none
  ((at_.map fun a => (l.buf, l.off + a, vBytes l.fmt)).toList ++
   (if b.ldOp = 1 ∨ (b.ldOp = 4 ∧ !bitOf b.ld 18) then idx b.ld else []) ++
   (if b.stOp = 1 then storeReads x (d x.idxHandle) t w.rep (w.reg t.an) ++ idx b.st else []),
   if b.ldOp = 2 && at_.isNone then some l.buf else none)

/-- The manifest latency and initiation interval of an extension opcode (R156). -/
def extTimes (desc : Nat) : Nat × Nat := (fld desc 11 0, fld desc 29 24)

/-- The earliest cycle in which a bundle can issue. Units: 0 scalar divider, 1 special function, 2 divider, 3 integer divider, 4 reduction, 16 on
extension opcodes. -/
def Sim.issueAt (w : Sim) (d : Nat → Desc) (b : Bundle) : Nat :=
  let v := vSlot b.ve
  let u := fun (on : Bool) (k : Nat) => if on then spGet 0 w.units k else 0
  let regs := max (((w.reads d b).map fun k => spGet 0 w.rdy k).foldl max 0) ((b.writes.map fun r => spGet 0 w.free r.key).foldl max 0)
  let units := [u (b.scOp = 0x0C || b.scOp = 0x0D) 0, u (v.sfuCycles ≠ 0) 1, u (v.fdivCycles ≠ 0) 2, u (v.idivCycles ≠ 0) 3,
    u (v.redCycles ≠ 0) 4, u (decide (0xE0 ≤ v.op)) (16 + (v.op - 0xE0))].foldl max 0
  let (known, whole) := w.bufReads d b
  let bufs := (known.map w.tbSettled).foldl max 0
  let any := match whole with
    | some k => w.tbSettled (k, 0, bufSize k)
    | none => 0
  let tmpl := if b.mxOp = 3 then w.tbSettled (3, 0, bufSize 3) else 0
  let t := [w.t, regs, units, bufs, any, tmpl].foldl max 0
  let room := fun (on : Bool) (k cls t : Nat) => if on then let l := w.doneOf cls; roomAt k (l.length + 1) t l else t
  room (decide (0xE0 ≤ v.op)) 16 4 (room (b.mxOp = 1) 2 2
    (room (b.stOp = 1 || b.stOp = 2 || b.stOp = 3) 8 1 (room (b.ldOp ≠ 0) 8 0 t)))

/-! ## Slots -/

def Sim.vector (w : Sim) (e : WalkEnv) (s : State) (b : Bundle) (t : Nat) : Sim :=
  let i := vSlot b.ve
  if i.op = 0 then w
  else if i.op = 0x50 then w.zrd e i t
  else if 0xE0 ≤ i.op then
    let (lat, ii) := extTimes (s.extDesc e.slice (i.op - 0xE0))
    let w := { w with units := spPut 0 w.units (16 + (i.op - 0xE0)) (t + ii) }
    (w.out 4 0 (t + lat)).result (32 + i.vd) (t + lat) false
  else
    let use := fun (w : Sim) (k n : Nat) => if n = 0 then w else { w with units := spPut 0 w.units k (t + n) }
    let w := use (use (use (use w 1 i.sfuCycles) 2 i.fdivCycles) 3 i.idivCycles) 4 i.redCycles
    i.dests.foldl (fun w r => w.result (32 + r) (t + i.latency)) (w.out 5 0 (t + i.latency))

def Sim.matrix (w : Sim) (e : WalkEnv) (s : State) (d : Nat → Desc) (b : Bundle) (t : Nat) : Sim :=
  let tag := fld b.mx 39 28
  let bank := fun (cycles : Nat) => ({ w.out 3 tag (t + buEngine cycles) with tags := tag :: w.tags } : Sim)
  match b.mxOp with
  | 1 => w.mmul e d b t
  | 2 => bank (dotCycles w.slice (d (fld b.mx 13 4)) (d (fld b.mx 13 4)).dim1 (d (fld b.mx 23 14)).dim1 (bitOf b.mx 26))
  | 3 =>
    let own := (e.image.bounds.find? fun k => k.off = w.pc && k.kind = 1).map (·.bound)
    bank (bucmdCycles ((if w.pc < 8192 then own else s.boundAt e.slice e.ctx 1 w.pc).getD 65535))
  | _ => w

def Sim.load (w : Sim) (e : WalkEnv) (d : Nat → Desc) (b : Bundle) (t : Nat) : Sim :=
  let h := fld b.ld 13 4
  let x := d h
  match b.ldOp with
  | 1 =>
    let f := tForm b.ld
    let origin := w.reg f.an
    let bytes := tileCost x (d x.idxHandle) origin
    let w := w.ainc f.an x.istep f.ainc
    let empty := decide (x.tile0 = 0 ∨ x.tile1 = 0 ∨ x.outerN = 0) || x.isEmpty
    if empty then w
    else
      let (w, done) := w.transfer e 8 t bytes
      let w := w.out 0 0 done
      if f.buf = 1 then
        let size := x.outerN * x.copyBytes 1
        let tile : SimTile :=
          { handle := h, origin := origin, tile0 := x.tile0, tile1 := x.tile1, outerN := x.outerN, bytes := size, done := done }
        let w := { w with fifo := w.fifo ++ [tile] }
        w.fail vcFifoBalance (decide ((if e.ra then 0x30000 else 0x40000) < (w.fifo.map (·.bytes)).foldl (· + ·) 0))
      else (copyRuns x f w.rep).foldl (fun w r => w.tbWrite r done true) w
  | 2 =>
    let f := vForm b.ld
    (((w.out 0 0 (t + 4)).result (32 + f.vd) (t + 4)).ainc f.an (vBytes f.fmt) f.ainc)
  | 3 =>
    let done := max t (w.stored (memSpan x (w.reg (fld b.ld 17 14)))) + 48
    ((w.out 0 0 done).result (fld b.ld 22 18) done).setReg (fld b.ld 22 18) none
  | 4 =>
    let tag := fld b.ld 39 28
    if bitOf b.ld 18 then { w with tags := tag :: w.tags }
    else
      let (w, done) := w.transfer e 8 t (tileCost x (d x.idxHandle) (w.reg (fld b.ld 17 14)))
      { w.out 0 0 done with tags := tag :: w.tags }
  | _ => w

def Sim.store (w : Sim) (e : WalkEnv) (d : Nat → Desc) (b : Bundle) (t : Nat) : Sim :=
  let x := d (fld b.st 13 4)
  match b.stOp with
  | 1 =>
    let f := tForm b.st
    let bytes := tileCost x (d x.idxHandle) (w.reg f.an)
    let w := (w.ainc f.an x.istep f.ainc)
    let (w, done) := w.transfer e 9 t bytes
    let r := memSpan x none
    if bytes = 0 then w else { w.out 1 0 done with sts := w.sts ++ [(r.1, r.2, done)] }
  | 2 =>
    let f := vForm b.st
    let w := (match w.reg f.an with
      | some a => w.tbWrite (f.buf, f.off + a, vBytes f.fmt) (t + 4) false
      | none => w.tbWriteAny f.buf (t + 4))
    (w.out 1 0 (t + 4)).ainc f.an (vBytes f.fmt) f.ainc
  | 3 =>
    let r := memSpan x (w.reg (fld b.st 17 14))
    let done := max t (w.stored r) + 48
    { w.out 1 0 done with sts := w.sts ++ [(r.1, r.2, done)] }
  | 4 => w.out 7 0 (t + 8)
  | _ => w

/-! ## Sync, branches and ends -/

/-- What follows a repetition: the paths that go on, and what the paths that stop give. -/
structure Next where
  go : List Sim := []
  stop : Sum := {}

def Sim.finish (w : Sim) : Sum :=
  { fails := w.fails, segs := w.ends, toks := w.past ++ [w.toks], nets := w.nets ++ [w.net], gbars := [w.gbars], cold := w.cold, warm := w.warm }

/-- An end of a program, segment or routine at a time: everything outstanding completes. -/
def Sim.settle (w : Sim) (t more : Nat) : Sim := { w with ends := w.ends ++ [max t w.quiet + more] }

/-- An end of a program or segment: 2 cycles more, and the FIFO must be empty (R277, R281). -/
def Sim.ended (w : Sim) (t : Nat) : Sim := { ((w.fail vcFifoBalance (decide (w.fifo ≠ []))).settle t 2) with fifo := [] }

/-- The state at the start of the next segment: times begin again, and the tokens are 0 (R242). -/
def Sim.newSegment (w : Sim) : Sim :=
  { w with pc := w.pc + 1, rep := 0, t := 0, taken := [], rdy := [], free := [], units := [], outs := [], tw := [], sts := [], prods := [], arrFree := 0,
           arrLast := none, past := w.past ++ [w.toks], nets := w.nets ++ [w.net], toks := List.replicate 16 (0, 0, 0), net := List.replicate 16 0,
           met := List.replicate 17 0 }

/-- A barrier of a kind: the path goes on when the gang does, or waits for a time that is not known yet (R281). -/
def Sim.gate (w : Sim) (e : WalkEnv) (kind t : Nat) (n : Sim) : Next :=
  let key := (w.past.length, kind, w.met.getD kind 0)
  match e.gates.find? fun g => g.1 = key with
  | some g => { go := [{ n with t := max t g.2, met := mapAt w.met kind (· + 1) }] }
  | none => { stop := { w.finish with waits := [(key, t)] } }

/-- The bundle at an address: of the image, or of a resident routine. -/
def WalkEnv.fetch (e : WalkEnv) (s : State) (pc : Nat) : Option Bundle :=
  if pc < 8192 then (if pc < e.image.count then some (e.image.bundle pc) else none)
  else if s.plv.routines.any fun r => decide (r.base ≤ pc) && decide (pc < r.base + r.count) && r.slices.testBit e.slice then
    some (Bundle.ofWord (spGet 0 (s.slice e.slice).store pc))
  else none

/-- The bound of a branch at an address. -/
def WalkEnv.bound (e : WalkEnv) (s : State) (pc : Nat) : Nat :=
  (if pc < 8192 then (e.image.bounds.find? fun k => k.off = pc && k.kind = 0).map (·.bound) else s.boundAt e.slice e.ctx 0 pc).getD 0

/-- A branch taken: a backward one only while its bound allows. -/
def Sim.take (w : Sim) (e : WalkEnv) (s : State) (t target : Nat) : List Sim :=
  let n := { w with pc := target, rep := 0, t := t + 2 }
  if w.pc < target then [n]
  else
    let k := spGet 0 w.taken w.pc
    if k < e.bound s w.pc then [{ n with taken := spPut 0 n.taken w.pc (k + 1) }] else []

/-- One bundle repetition that issues, on every path from it. Inside a CALL nothing costs time: the certified path of the routine stands for it (R281). -/
def Sim.issue (w : Sim) (e : WalkEnv) (s : State) (b : Bundle) : Next :=
  let d := fun (h : Nat) => s.desc e.ctx h
  let t := match w.stack with
    | [] => w.issueAt d b
    | l => ((l.getLast?).map (·.2)).getD w.t
  let inCall := decide (w.stack ≠ [])
  let (known, whole) := w.bufReads d b
  let old := w
  let w := known.foldl Sim.tbRead { w with t := t }
  let w := match whole with
    | some k => w.tbReadAny k
    | none => w
  let w := (((w.vector e s b t).matrix e s d b t).load e d b t).store e d b t
  -- values and latencies of the scalar slot, from the registers as they stood
  let w := if b.scalarWrites = [] then w else
    let v := (old.scalar e b).reg b.rd
    let w := w.setReg b.rd v
    if b.scOp = 0x0C ∨ b.scOp = 0x0D then { w.result b.rd (t + 8) with units := spPut 0 w.units 0 (t + 8) } else w.result b.rd (t + 1)
  let w := if inCall then { w with rdy := [], free := [], units := spPut 0 (spPut 0 [] 8 (spGet 0 old.units 8)) 9 (spGet 0 old.units 9),
                                   outs := old.outs, prods := old.prods, tw := old.tw, sts := old.sts, arrFree := old.arrFree, arrLast := old.arrLast,
                                   fifo := w.fifo.map fun q => { q with done := min q.done t } } else w
  let step := if inCall then 0 else 1
  let next := { w with rep := if w.rep + 1 < b.rept then w.rep + 1 else 0, pc := if w.rep + 1 < b.rept then w.pc else w.pc + 1, t := t + step }
  let imm := b.syImm
  let waits := fun (l : List Nat) => { next with t := max next.t (l.foldl max 0) }
  let signal := imm % 16
  let count := fld imm 11 4
  match b.syOp with
  | 1 => { stop := (w.ended t).finish }
  | 2 | 3 => { go := [(w.ended t).newSegment] }
  | 4 => { go := [waits (w.doneOf 1 ++ w.doneOf 3 ++ w.doneOf 7)] }
  | 5 => { go := [waits ((bitsOf imm 6).flatMap w.doneOf)] }
  | 6 => { go := [{ waits ((w.outs.filter fun o => o.1 = 3 && o.2.1 = imm % 4096).map (·.2.2)) with
                    fails := (w.fail vcSyncUnbounded (!w.tags.contains (imm % 4096))).fails }] }
  | 7 => { go := [{ next.out 6 0 (t + 2) with net := mapAt w.net signal (· + 1),
                                              toks := mapAt w.toks signal fun (m, u, k) => (m + 1, max u t, k) }] }
  | 8 =>
    if count = 0 then { go := [next] }
    else
      let w := { w with net := mapAt w.net signal (· - (count : Int)), toks := mapAt w.toks signal fun (m, u, k) => (m, u, k + count) }
      w.gate e (1 + signal) t { next with net := w.net, toks := w.toks }
  | 9 => w.gate e 0 t { next with gbars := w.gbars + 1 }
  | _ =>
    let next := if b.syOp = 0xA then next.out 6 0 (t + 2) else if b.syOp = 0xB then next.out 6 0 (t + 24) else next
    match b.scOp with
    | 0x20 => { go := w.take e s t b.target }
    | 0x21 | 0x22 => { go := next :: w.take e s t b.target }
    | 0x23 =>
      match s.routineOn (b.imm % 64) e.slice with
      | none => { go := [next] }
      | some r =>
        let back := match w.stack with
          | [] => t + 2 + r.cert
          | l => ((l.getLast?).map (·.2)).getD t
        { go := [{ w with pc := r.base + r.entry, rep := 0, t := back, stack := (w.pc + 1, back) :: w.stack, site := if inCall then w.site else w.pc,
                          taken := spDrop w.taken r.base (r.base + r.count) }] }
    | 0x24 =>
      match w.stack with
      | [] => { stop := (w.settle (t + 2) 0).finish }
      | (pc, back) :: rest => { go := [{ w with pc := pc, rep := 0, t := back, stack := rest }] }
    | _ => { go := [next] }

/-- The path on which a predicate fails: the evaluation waits for its comparator and counter, and costs a cycle (R222, R238). The FIFO is as if the
repetitions left had run (log 52). -/
def Sim.skip (w : Sim) (e : WalkEnv) (s : State) (b : Bundle) : Sim :=
  let d := fun (h : Nat) => s.desc e.ctx h
  let run := (List.range (b.rept - w.rep)).foldl (fun (x : Sim) _ => (x.matrix e s d b w.t).load e d b w.t) w
  let t := if w.stack = [] then (((w.cmpReads b.pk).map fun k => spGet 0 w.rdy k).foldl max w.t) + 1 else w.t
  { w with pc := w.pc + 1, rep := 0, t := t, fifo := run.fifo }

/-- One step of every path from a point: a repetition, or what a predicate leaves of it (R222, R281). -/
def Sim.step (w : Sim) (e : WalkEnv) (s : State) : Next :=
  match e.fetch s w.pc with
  | none => { stop := w.finish }
  | some b =>
    if b.rept = 0 then { go := [{ w with pc := w.pc + 1, rep := 0, t := w.t + (if w.stack = [] then 1 else 0) }] }
    else
      let n := w.issue e s b
      if b.pen then { n with go := w.skip e s b :: n.go } else n

/-- Every path from a point, to the ends. -/
def walkPaths (e : WalkEnv) (s : State) : Nat → Sim → Sum
  | 0, w => w.finish
  | fuel + 1, w =>
    let n := w.step e s
    n.go.foldl (fun (a : Sum) w => a.join (walkPaths e s fuel w)) n.stop

/-! ## Certifying a gang (R279, R281) -/

/-- How many steps the longest path of a list of bundles takes: each bounded branch, taken as often as it may be, leads over every bundle again. -/
def State.pathLen (s : State) : Nat → List Bundle → List Bound → Nat
  | 0, _, _ => 0
  | fuel + 1, l, bounds =>
    let turns := 1 + ((bounds.filter fun k => k.kind = 0).map (·.bound)).foldl (· + ·) 0
    turns * (l.map fun b => b.rept + 2 + (if b.isCall then
      ((s.plv.routines.filter fun r => r.idx = b.imm % 64).map fun r => s.pathLen fuel (s.routineBundles r) r.bounds).foldl (· + ·) 0 else 0)).foldl (· + ·) 0

/-- The walks of every member, joined. -/
def State.walkGang (s : State) (e : WalkEnv) (gang : List Nat) : List Sum :=
  gang.zipIdx.map fun (n, g) =>
    let e := { e with slice := n, member := g }
    let w : Sim := { pc := e.image.entry, regs := if e.image.kind = 1 then (List.range 4).foldl (fun r i => spPut (some 0) r i none) [] else
                                                   if e.image.kind = 2 then (List.range 28).foldl (fun r i => spPut (some 0) r i none) [] else [] }
    walkPaths e s (s.pathLen 9 e.image.bundles e.image.bounds + 1) w

/-- The barrier that lets the gang go on next, and when, among those that members wait at: a WAITTOK whose token the SIGNALs so far cover, else a GBAR
that every member has reached, else the first. It goes on 4 cycles after the latest arrival; what a WAITTOK waits for are its token's SIGNALs (R281). -/
def nextGate (l : List Sum) : Option ((Nat × Nat × Nat) × Nat) :=
  let waits := (l.foldl Sum.join {}).waits
  let tok := fun (x : Sum) (seg k : Nat) => (x.toks.getD seg []).getD (k - 1) (0, 0, 0)
  let sum := fun (g : Sum → Nat) => (l.map g).foldl (· + ·) 0
  let covered := fun ((key, _) : (Nat × Nat × Nat) × Nat) =>
    key.2.1 ≠ 0 && decide (sum (fun x => (tok x key.1 key.2.1).2.2) ≤ sum fun x => (tok x key.1 key.2.1).1)
  let reached := fun ((key, _) : (Nat × Nat × Nat) × Nat) => key.2.1 = 0 && l.all fun x => x.waits.any fun e => e.1 = key
  let pick := match waits.find? covered with
    | some g => some g
    | none => match waits.find? reached with
      | some g => some g
      | none => waits.head?
  pick.map fun (key, t) =>
    let late := if key.2.1 = 0 then 0 else (l.map fun x => (tok x key.1 key.2.1).2.1).foldl max 0
    (key, max t late + 4)

/-- Walk the gang with the barriers met so far, and again with one more, until none is left. -/
def State.walkAll (s : State) (e : WalkEnv) (gang : List Nat) : Nat → List Sum
  | 0 => s.walkGang e gang
  | fuel + 1 =>
    let l := s.walkGang e gang
    match nextGate l with
    | none => l
    | some g => s.walkAll { e with gates := e.gates ++ [g] } gang fuel

/-- What the certification of a gang gives: failures by code, and C in engine cycles of each segment. -/
structure Cert where
  fifo : List Nat
  cold : List Nat
  sync : List Nat
  segs : List Nat
  deriving DecidableEq, Repr

/-- The largest C of a certification. -/
def Cert.c (k : Cert) : Nat := k.segs.foldl max 0

/-- Steps 5 and 7 of an admission: the checks of R277 to R279, and C; a host segment costs 76 cycles more before it and after it (R281). -/
def State.certify (s : State) (e : WalkEnv) (gang : List Nat) : Cert :=
  let l := s.walkAll e gang (s.pathLen 9 e.image.bundles e.image.bounds + 1)
  let all := l.foldl Sum.join {}
  let offs := fun (code : Nat) => (all.fails.filter fun f => f.1 = code).map (·.2)
  let cold := (all.cold.filter fun (o, a, b) => cutRuns (a, b) ((all.warm.filter fun k => k.1 = o).map (·.2)) ≠ []).map (·.1)
  let net : List (List Int) := l.foldl (fun acc x => zipLong (zipLong (· + ·)) acc x.nets) []
  { fifo := offs vcFifoBalance, cold := if e.image.kind = 2 then [] else cold,
    sync := offs vcSyncUnbounded ++ failAt (net.any fun t => t.any fun v => decide (v < 0)) ++
      failAt (decide (1 < gang.length) && decide (1 < all.gbars.length)),
    segs := all.segs.map (· + if e.image.kind = 1 then 152 else 0) }

end Sys2Proof.Machine
end

