-- ==== Sys2Proof/Machine/Micro.lean ====
section
/-! DEFINITION. The words of a micro-program: one meaning for each opcode of a bank unit (R126, R127, R129). A word is executed by
the bank unit whose program counter stands at it; in every other state the event does not arise (log 2). -/

namespace Sys2Proof.Machine

/-- The fields of a micro-program word (R127). -/
structure UWord where
  uop : Nat
  rd : Nat
  ra : Nat
  rb : Nat
  fmt : Nat
  bsel : Bool
  imm : Nat
  deriving DecidableEq, Repr

def uWord (w : W64) : UWord :=
  let v := w.toNat
  { uop := fld v 63 58, rd := fld v 57 54, ra := fld v 53 50, rb := fld v 49 46, fmt := fld v 45 43, bsel := bitOf v 42, imm := fld v 31 0 }

def BuState.reg (b : BuState) (r : Nat) : Nat := (spGet 0 b.scr r).toNat
def BuState.setReg (b : BuState) (r v : Nat) : BuState := { b with scr := spPut 0 b.scr r (BitVec.ofNat 32 v) }
def BuState.beat (b : BuState) (sel : Bool) : List Byte := if sel then bytesAt b.beat1 0 32 else bytesAt b.beat0 0 32
def BuState.setBeat (b : BuState) (sel : Bool) (l : List Byte) : BuState := if sel then { b with beat1 := l } else { b with beat0 := l }

/-- A bank unit's FLAGS from the flags of an integer operation: [0] DIVZ, [1] ACC_SAT, [2] saturation (R127). -/
def buFlagsOf (fl : Nat) : Nat := fl % 2 + (if bitOf fl 2 then 2 else 0) + (if bitOf fl 1 then 4 else 0)

def BuState.setIRes (b : BuState) (r : Nat) (x : IRes) : BuState := { b.setReg r x.v with flags := b.flags ||| buFlagsOf x.fl }

/-- What stands ready to execute in a bank unit: its RUN, its part, and the extent of the micro-program. -/
structure UCtx where
  c : BuCmd
  p : BuPart
  lo : Nat
  hi : Nat
  deriving DecidableEq, Repr

def State.uCtx (s : State) (u : BuId) : Option UCtx :=
  if !s.clocked then none else
  match (s.bu (buIdKey u)).cmd.bind s.findBu with
  | none => none
  | some c =>
    if c.op ≠ 5 ∨ c.st ≠ .running then none
    else
      match c.parts.find? fun p => p.bank = u.bank.val && !p.fin && !(c.limit ≠ 0 && decide (c.limit ≤ p.cyc)), s.uprogAt c u.bank.val with
      | some p, some g => some { c := c, p := p, lo := g.base, hi := g.base + g.count }
      | _, _ => none

/-- Replace one part of a command. -/
def State.putPart (s : State) (c : BuCmd) (p : BuPart) : State :=
  s.putBu { c with parts := c.parts.map fun q => if q.bank = p.bank then p else q }

/-- End a part with a fault status, or cleanly with 0. -/
def State.uEndPart (s : State) (x : UCtx) (cyc fault : Nat) : State :=
  s.putPart x.c { x.p with fin := true, cyc := x.p.cyc + cyc, fault := if x.p.fault = 0 then fault else x.p.fault }

/-- The opcodes that R127 defines. -/
def uopDefined (op : Nat) : Bool :=
  decide (op ≤ 0x1C) || (decide (0x20 ≤ op) && decide (op ≤ 0x25)) || (decide (0x28 ≤ op) && decide (op ≤ 0x2D)) ||
  (decide (0x30 ≤ op) && decide (op ≤ 0x32)) || op = 0x38

/-- The registers that a word's result depends on: scratch registers by number, the beat registers as 16 and 17 (R127). -/
def UWord.readsRegs (w : UWord) : List Nat :=
  let sel := 16 + b2n w.bsel
  if w.uop = 0x03 ∨ w.uop = 0x0C ∨ w.uop = 0x0D ∨ w.uop = 0x17 then [w.ra]
  else if 0x04 ≤ w.uop ∧ w.uop ≤ 0x16 then [w.ra, w.rb]
  else match w.uop with
    | 0x1C => [w.rd]
    | 0x20 | 0x22 | 0x31 | 0x32 => [w.ra]
    | 0x21 | 0x24 => [sel]
    | 0x23 => [w.rd]
    | 0x25 => [sel, w.ra]
    | 0x28 => [w.rd, 16, 17]
    | 0x29 => [w.rd, sel, w.ra]
    | 0x2A | 0x2B | 0x2C | 0x2D => [16, 17]
    | _ => []

/-- The register that a word writes. -/
def UWord.writesReg (w : UWord) : Option Nat :=
  if (0x02 ≤ w.uop ∧ w.uop ≤ 0x17) ∨ w.uop = 0x1C ∨ w.uop = 0x22 ∨ w.uop = 0x24 ∨ w.uop = 0x28 ∨ w.uop = 0x29 ∨ w.uop = 0x30 ∨ w.uop = 0x38 then
    some w.rd
  else if w.uop = 0x20 ∨ w.uop = 0x25 then some (16 + b2n w.bsel)
  else if 0x2A ≤ w.uop ∧ w.uop ≤ 0x2D then some 16
  else none

/-- Whether what a word makes of the registers derives from a poisoned partial (R130). -/
def BuState.tainted (b : BuState) (w : UWord) : Bool := w.readsRegs.any b.bad.contains

/-- The registers that hold derived values after a word (R130); `fresh`: the word took a poisoned partial. -/
def BuState.taint (b : BuState) (w : UWord) (fresh : Bool := false) : List Nat :=
  match w.writesReg with
  | none => b.bad
  | some r => if fresh || b.tainted w then r :: b.bad.filter (· ≠ r) else b.bad.filter (· ≠ r)

/-- What a word does: the state, the bank unit's registers, the cycles it takes, the next program counter, and a fault status or 0. -/
structure UOut where
  s : State
  b : BuState
  cyc : Nat := 1
  pc : Nat
  fault : Nat := 0

/-- Execute the word at the program counter of a bank unit when its opcode is `op`. A word outside the extent, or with a reserved opcode, ends
the part with `BAD_OP` whatever event comes (R121, R127). -/
def uStep (u : BuId) (op : Nat) (s : State) (g : State → UCtx → UWord → BuState → UOut) : Result :=
  actSome (s.uCtx u) s fun x s =>
    let k := buIdKey u
    let b := s.bu k
    let w := uWord (spGet 0 s.ustore (k * 1024 + b.pc))
    if b.pc < x.lo ∨ x.hi ≤ b.pc ∨ !uopDefined w.uop then s.uEndPart x 1 buBadOp
    else if w.uop ≠ op then s
    else
      let o := g s x w b
      let s := o.s.setBu k { o.b with pc := o.pc, bad := b.taint w }
      let x := { x with p := { x.p with flags := x.p.flags ||| o.b.flags } }
      if o.fault ≠ 0 then s.uEndPart x o.cyc o.fault
      else s.putPart x.c { x.p with cyc := x.p.cyc + o.cyc }

/-- A word that only computes on the registers. -/
def uReg (u : BuId) (op cyc : Nat) (s : State) (g : UWord → BuState → BuState) : Result :=
  uStep u op s fun s _ w b => { s := s, b := g w b, cyc := cyc, pc := b.pc + 1 }

/-- A word that is an integer operation of two scratch registers (R127, R211). -/
def uInt (u : BuId) (op cyc : Nat) (s : State) (o : IOp) : Result :=
  uReg u op cyc s fun w b => b.setIRes w.rd (iOp 32 o (b.reg w.ra) (b.reg w.rb))

/-- A branch: taken or not, its target within the extent (R121, R127). -/
def uBranch (u : BuId) (op : Nat) (s : State) (g : UWord → BuState → Bool × BuState) : Result :=
  uStep u op s fun s x w b =>
    let (taken, b') := g w b
    let t := w.imm % 1024
    if !taken then { s := s, b := b', cyc := 1, pc := b.pc + 1 }
    else if t < x.lo ∨ x.hi ≤ t then { s := s, b := b, cyc := 2, pc := b.pc, fault := buBadOp }
    else { s := s, b := b', cyc := 2, pc := t }

/-- The address of a memory word (R126). -/
def uAddr (w : UWord) (b : BuState) : Nat := (b.reg w.ra + w.imm) % 2 ^ 25

/-- The check of a micro-program access (R118, R126): 0, `ALIGN` or `BOUNDS`. -/
def State.uCheck (s : State) (x : UCtx) (off n : Nat) : Nat :=
  if off % n ≠ 0 then buAlign
  else if s.inFrames x.c.ctx x.c.stack x.c.chan x.p.bank off n then 0 else buBounds

/-- A word that reads `n` bytes of the bank; an uncorrectable read ends the part (R118, R121). -/
def uLoad (u : BuId) (op n base : Nat) (s : State) (g : UWord → BuState → List Byte → BuState × Nat × Nat) : Result :=
  uStep u op s fun s x w b =>
    let off := uAddr w b
    let f := s.uCheck x off n
    if f ≠ 0 then { s := s, b := b, cyc := base, pc := b.pc, fault := f }
    else
      let (t, l, bad, cy) := s.buRead x.c x.p.bank off
      let b1 := { b with row := (t.bu (buIdKey u)).row }
      if bad then { s := t, b := b1, cyc := base + cy, pc := b.pc, fault := buEccUe }
      else
        let (b2, more, f) := g w b1 (bytesAt l (off % 32) n)
        { s := t, b := b2, cyc := base + more + cy, pc := if f = 0 then b.pc + 1 else b.pc, fault := f }

/-- A word that writes bytes of the bank, poisoned where they derive from a poisoned partial (R130). DEDUCED: where a partial write's own read is
uncorrectable, the merging rule of R107 says all that happens, and the part goes on (R117; log 46). -/
def uStore (u : BuId) (op n base : Nat) (part : Bool) (s : State) (g : UWord → BuState → List Byte) : Result :=
  uStep u op s fun s x w b =>
    let off := uAddr w b
    let f := s.uCheck x off n
    if f ≠ 0 then { s := s, b := b, cyc := base, pc := b.pc, fault := f }
    else
      let (t, cy) := s.openRow (buIdKey u) off
      let t := t.buWrite x.c x.p.bank off (g w b) (b.tainted w)
      { s := t, b := { b with row := some (off / 1024) }, cyc := base + (if part then cy else 0), pc := b.pc + 1 }

/-- Formats that a dot product takes, and that an elementwise operation takes (R127). -/
def dotFmtOk (f : Nat) : Bool := decide (f ≤ 4)
def elFmtOk (f : Nat) : Bool := decide (f ≤ 5)

/-- rd + dot of two beats (R127): FLAGS bit 1 where INT32 saturates. -/
def uDot (w : UWord) (b : BuState) (p q : List Byte) : BuState :=
  let (v, fl) := dotBeat w.fmt (b.reg w.rd) p q
  { b.setReg w.rd v with flags := b.flags ||| (if fl = 0 then 0 else 2) }

/-- An elementwise operation of two raw elements of a format: integers saturate at the element width; floats go through FP32 and are
narrowed (R127, R210). -/
def elemOp (fmt : Nat) (op : IOp) (f : Fv → Fv → Fv) (p q : Nat) : IRes :=
  if fmtIsFloat fmt then narrow fmt (e32 (f (fmtDec fmt p) (fmtDec fmt q)))
  else iOp (fmtBits fmt) op p q

/-- beat 0 ← beat 0 op beat 1 (R127). -/
def uElem (u : BuId) (op : Nat) (s : State) (o : IOp) (f : Fv → Fv → Fv) : Result :=
  uStep u op s fun s _ w b =>
    if !elFmtOk w.fmt then { s := s, b := b, pc := b.pc, fault := buBadOp }
    else
      let rs := (List.zip (unpack w.fmt (b.beat false)) (unpack w.fmt (b.beat true))).map fun (p, q) => elemOp w.fmt o f p q
      let fl := rs.foldl (fun a r => a ||| r.fl) 0
      { s := s, b := { b.setBeat false (pack w.fmt (rs.map (·.v))) with flags := b.flags ||| buFlagsOf fl }, pc := b.pc + 1 }

/-- Send one partial downstream; two partials make a flit (R127, R129). -/
def BuState.send (b : BuState) (id : Nat) (p : Partial) : BuState :=
  match b.half with
  | none => { b with half := some p }
  | some h => { b with half := none, link := b.link ++ [{ cmd := id, vals := [h.val, p.val], poison := h.poison || p.poison }] }

/-- The odd partial left at the end travels alone (R129). -/
def BuState.flush (b : BuState) (id : Nat) : BuState :=
  match b.half with
  | none => b
  | some h => { b with half := none, link := b.link ++ [{ cmd := id, vals := [h.val], poison := h.poison }] }

/-! ## The words -/

/-- U_NOP. -/
def execUNop (u : BuId) (s : State) : Result := uReg u 0x00 1 s fun _ b => b

/-- U_END: the part ends; an odd partial still waiting travels alone. -/
def execUEnd (u : BuId) (s : State) : Result :=
  actSome (s.uCtx u) s fun x s =>
    let k := buIdKey u
    let b := s.bu k
    let w := uWord (spGet 0 s.ustore (k * 1024 + b.pc))
    if b.pc < x.lo ∨ x.hi ≤ b.pc ∨ !uopDefined w.uop then s.uEndPart x 1 buBadOp
    else if w.uop ≠ 0x01 then s
    else (s.setBu k (b.flush x.c.id)).uEndPart x 1 0

def execULdi (u : BuId) (s : State) : Result := uReg u 0x02 1 s fun w b => b.setReg w.rd w.imm
def execUMov (u : BuId) (s : State) : Result := uReg u 0x03 1 s fun w b => b.setReg w.rd (b.reg w.ra)
def execUAdd (u : BuId) (s : State) : Result := uInt u 0x04 1 s .add
def execUAdds (u : BuId) (s : State) : Result := uInt u 0x05 1 s .adds
def execUSub (u : BuId) (s : State) : Result := uInt u 0x06 1 s .sub
def execUSubs (u : BuId) (s : State) : Result := uInt u 0x07 1 s .subs
def execUMul (u : BuId) (s : State) : Result := uInt u 0x08 1 s .mul
def execUMuls (u : BuId) (s : State) : Result := uInt u 0x09 1 s .muls
def execUDiv (u : BuId) (s : State) : Result := uInt u 0x0A 8 s .div
def execURem (u : BuId) (s : State) : Result := uInt u 0x0B 8 s .rem
def execUNeg (u : BuId) (s : State) : Result := uInt u 0x0C 1 s .neg
def execUAbs (u : BuId) (s : State) : Result := uInt u 0x0D 1 s .abs
def execUAnd (u : BuId) (s : State) : Result := uInt u 0x0E 1 s .and
def execUOr (u : BuId) (s : State) : Result := uInt u 0x0F 1 s .or
def execUXor (u : BuId) (s : State) : Result := uInt u 0x10 1 s .xor
def execUShl (u : BuId) (s : State) : Result := uInt u 0x11 1 s .shl
def execUShls (u : BuId) (s : State) : Result := uInt u 0x12 1 s .shls
def execUShr (u : BuId) (s : State) : Result := uInt u 0x13 1 s .shr
def execUSar (u : BuId) (s : State) : Result := uInt u 0x14 1 s .sar
def execUMin (u : BuId) (s : State) : Result := uInt u 0x15 1 s .min
def execUMax (u : BuId) (s : State) : Result := uInt u 0x16 1 s .max
/-- U_ADDI: wraps. -/
def execUAddi (u : BuId) (s : State) : Result := uReg u 0x17 1 s fun w b => b.setReg w.rd ((b.reg w.ra + w.imm) % 2 ^ 32)
def execUBr (u : BuId) (s : State) : Result := uBranch u 0x18 s fun _ b => (true, b)
def execUBz (u : BuId) (s : State) : Result := uBranch u 0x19 s fun w b => (b.reg w.ra = 0, b)
def execUBnz (u : BuId) (s : State) : Result := uBranch u 0x1A s fun w b => (b.reg w.ra ≠ 0, b)
def execUBlt (u : BuId) (s : State) : Result := uBranch u 0x1B s fun w b => (sgn 32 (b.reg w.ra) < sgn 32 (b.reg w.rb), b)
/-- U_LOOP: if rd ≠ 0, rd falls by 1 and the branch is taken. -/
def execULoop (u : BuId) (s : State) : Result :=
  uBranch u 0x1C s fun w b => if b.reg w.rd = 0 then (false, b) else (true, b.setReg w.rd (b.reg w.rd - 1))

def execULdb (u : BuId) (s : State) : Result := uLoad u 0x20 32 1 s fun w b l => (b.setBeat w.bsel l, 0, 0)
def execUStb (u : BuId) (s : State) : Result := uStore u 0x21 32 1 false s fun w b => b.beat w.bsel
def execULdw (u : BuId) (s : State) : Result := uLoad u 0x22 4 1 s fun w b l => (b.setReg w.rd (leNat l), 0, 0)
def execUStw (u : BuId) (s : State) : Result := uStore u 0x23 4 2 true s fun w b => leBytes 4 (b.reg w.rd)
def execUXw (u : BuId) (s : State) : Result := uReg u 0x24 1 s fun w b => b.setReg w.rd (leAt (b.beat w.bsel) (4 * (w.imm % 8)) 4)
def execUIw (u : BuId) (s : State) : Result :=
  uReg u 0x25 1 s fun w b => b.setBeat w.bsel (bytesPut (b.beat w.bsel) (4 * (w.imm % 8)) (leBytes 4 (b.reg w.ra)))

/-- U_DOTB: rd ← rd + dot(beat 0, beat 1); INT16 takes 2 cycles. -/
def execUDotb (u : BuId) (s : State) : Result :=
  uStep u 0x28 s fun s _ w b =>
    if !dotFmtOk w.fmt then { s := s, b := b, pc := b.pc, fault := buBadOp }
    else { s := s, b := uDot w b (b.beat false) (b.beat true), cyc := if w.fmt = 2 then 2 else 1, pc := b.pc + 1 }

/-- U_DOTM: rd ← rd + dot(beat[BSEL], the beat read). -/
def execUDotm (u : BuId) (s : State) : Result :=
  uLoad u 0x29 32 1 s fun w b l =>
    if dotFmtOk w.fmt then (uDot w b (b.beat w.bsel) l, if w.fmt = 2 then 1 else 0, 0) else (b, 0, buBadOp)

def execUBadd (u : BuId) (s : State) : Result := uElem u 0x2A s .adds Fv.add
def execUBmul (u : BuId) (s : State) : Result := uElem u 0x2B s .muls Fv.mul
def execUBmax (u : BuId) (s : State) : Result := uElem u 0x2C s .max Fv.max
def execUBmin (u : BuId) (s : State) : Result := uElem u 0x2D s .min Fv.min

/-- The next upstream partial and what remains. -/
def BuState.next (b : BuState) : Option (Partial × BuState) :=
  match b.input with
  | [] => none
  | p :: t => some (p, { b with input := t })

/-- A word that takes the next upstream partial, and waits a cycle where there is none (R127). A poisoned partial marks what derives from it (R130). -/
def uRecv (u : BuId) (op : Nat) (s : State) (g : UCtx → UWord → BuState → Partial → BuState) : Result :=
  actSome (s.uCtx u) s fun x s =>
    let k := buIdKey u
    let b := s.bu k
    let w := uWord (spGet 0 s.ustore (k * 1024 + b.pc))
    if b.pc < x.lo ∨ x.hi ≤ b.pc ∨ !uopDefined w.uop then s.uEndPart x 1 buBadOp
    else if w.uop ≠ op then s
    else match b.next with
      | none => s.putPart x.c { x.p with cyc := x.p.cyc + 1 }
      | some (p, b') =>
        let b' := g x w b' p
        (s.setBu k { b' with pc := b.pc + 1, bad := b.taint w p.poison }).putPart x.c { x.p with cyc := x.p.cyc + 1, flags := x.p.flags ||| b'.flags }

/-- U_CRECV. -/
def execUCrecv (u : BuId) (s : State) : Result := uRecv u 0x30 s fun _ w b p => b.setReg w.rd p.val.toNat

/-- U_CSEND. -/
def execUCsend (u : BuId) (s : State) : Result :=
  uStep u 0x31 s fun s x w b =>
    { s := s, b := b.send x.c.id { val := BitVec.ofNat 32 (b.reg w.ra), poison := b.tainted w }, pc := b.pc + 1 }

/-- U_CADD: ra + the next upstream partial goes downstream, added as R129 states. DEDUCED: in the format of the command, which R129 adds in, and
not in the word's `UFMT` (log 46). -/
def execUCadd (u : BuId) (s : State) : Result :=
  uRecv u 0x32 s fun x w b p =>
    let (v, fl) := chainAdd x.c.fmt (b.reg w.ra) p.val.toNat
    { b.send x.c.id { val := BitVec.ofNat 32 v, poison := p.poison || b.tainted w } with flags := b.flags ||| (if fl = 0 then 0 else 2) }

/-- U_FLAGS: rd ← the sticky flags of this command. -/
def execUFlags (u : BuId) (s : State) : Result := uReg u 0x38 1 s fun w b => b.setReg w.rd (b.flags % 8)

end Sys2Proof.Machine
end

