-- ==== Sys2Proof/Machine/Plv.lean ====
section
/-! DEFINITION. Admissions: candidates for a gang, the whole sequence of checks, the write of the stores, and re-verification after a quarantine
(R270 to R272, R276, R282 to R288). -/

namespace Sys2Proof.Machine

/-! ## Placement (R286) -/

def State.quarantined (s : State) (n : Nat) : Bool := s.f (slhP n) SlcHealth.HSTATE = hlQuar

/-- Whether a slice can take a program: it holds an engine and is not quarantined. -/
def State.placeable (s : State) (n : Nat) : Bool := s.loaded n && !s.quarantined n

/-- The gangs that a host program of a size is tried on, in order of descending shape. -/
def State.hostGangs (s : State) (size : Nat) : List (List Nat) :=
  [(512, 8), (512, 4), (256, 8), (256, 4), (128, 8), (128, 4)].filterMap fun (k, n) =>
    let fit := (List.range 16).filter fun i => s.placeable i && s.kphys i = k && s.nphys i = n
    let l := ((fit.filter fun i => !s.pinned i) ++ fit.filter s.pinned).take size
    if l.length = size then some l else none

/-- Bundles of an image and of every routine that it reaches on a slice of a gang, each with the offset that a failure in it names. -/
def State.allBundles (s : State) (m : Image) (gang : List Nat) : List (Nat × Bundle) :=
  m.bundles.zipIdx.flatMap fun (b, i) =>
    (i, b) :: if b.isCall then
      let reach := gang.flatMap fun n => match s.callDepth none n 8 [b] with
        | some (_, l) => l.filterMap fun r => s.routineOn r n
        | none => []
      reach.eraseDups.flatMap fun q => (s.routineBundles q).map fun x => (i, x)
    else []

def Bundle.rahead0 (b : Bundle) : Bool := b.ldOp = 4 && !bitOf b.ld 18

/-- The bank units and chains that an image names on a gang (R132). -/
def State.imageBus (s : State) (c : Nat) (m : Image) (gang : List Nat) : List Nat := ((s.allBundles m gang).flatMap fun (_, b) => s.busOf c b).eraseDups

/-! ## Steps 4 to 7 -/

/-- C in ns (the cost model of R281). -/
def certNs (c : Nat) : Nat := cdiv (c * 20) 9

/-- Whether a bundle holds a bank-unit command certified beyond the greatest limit (code 0x22). -/
def State.buTooLong (s : State) (c : Nat) (b : Bundle) : Bool :=
  let d := fun (h : Nat) => s.desc c h
  let w := d (fld b.mx 13 4)
  (b.mxOp = 1 || b.mxOp = 2) && w.bkEn && decide (4194302 < dotCycles {} w w.dim1 (d (fld b.mx 23 14)).dim1 (bitOf b.mx 26))

/-- The slices in a mask that no program may be pinned to (code 0x18). -/
def State.placementBad (s : State) (c : Nat) (m : Image) (gang : List Nat) : Bool :=
  match m.kind with
  | 0 => gang.any fun n => !s.placeable n || (List.range 4).any fun d => d ≠ c && (s.cx d).program.any fun p => p.gang.contains n
  | 2 => gang.any fun n => !s.placeable n
  | _ => false

/-- Whether a gang does not fit its header, or is not uniform (code 0x19). -/
def State.gangBad (s : State) (m : Image) (gang : List Nat) : Bool :=
  match m.kind with
  | 0 => gang.length ≠ m.gang || 1 < (gang.map s.shape).eraseDups.length
  | 2 => gang = []
  | _ => false

def State.envOf (s : State) (c : Nat) (m : Image) (n : Nat) : WalkEnv :=
  { ctx := c, stream := m.kind = 0, kphys := s.kphys n, nphys := s.nphys n, slice := n, member := 0, image := m,
    ra := (s.allBundles m [n]).any fun (_, b) => b.rahead0, gates := [] }

/-- The certification of an image on a gang: a routine is certified for each slice of its mask, and takes the largest. -/
def State.certOf (s : State) (c : Nat) (m : Image) (gang : List Nat) : Cert :=
  if m.kind = 2 then
    { fifo := [], cold := [], sync := [], segs := gang.map fun n => (s.certify (s.envOf c m n) [n]).c }
  else s.certify (s.envOf c m (gang.headD 0)) gang

/-- The windows that a program must fit: of the active schedule, and of one that is pending, each with the tolerance in force (R60, R284, R285). -/
def State.windowNs (s : State) (stream : Bool) : List Nat :=
  let act := if stream then s.f winP TkgWin.COMPUTE_CERT_NS else s.f winP TkgWin.HOST_CERT_NS
  act :: match s.tkg.pendSched with
    | some p => [if stream then p.computeCert else { p with tol := s.tolOf p.tol }.hostCert]
    | none => []

/-- Steps 4 to 7 for one gang. `fresh`: an admission, whose context must be able to take the program. -/
def State.gangChecks (s : State) (c : Nat) (m : Image) (gang : List Nat) (fresh : Bool) : List Check :=
  let all := s.allBundles m gang
  let at_ := fun (p : Bundle → Bool) => (all.filter fun (_, b) => p b).map (·.1)
  let kph := s.kphys (gang.headD 0)
  let bad := gang.eraseDups.flatMap fun n => at_ fun b => s.useBad c (s.kphys n) b
  let others := (List.range 4).flatMap fun d => if d = c then [] else ((s.cx d).program.map (·.bus)).getD []
  let busBad := if m.kind = 0 then at_ fun b => (s.busOf c b).any fun k => others.contains k else []
  let static := [(vcCallGraph, s.callFails m gang), (vcHandleUse, at_ (s.useBad c kph) ++ bad), (vcBuExclusive, busBad)]
  if firstFail static ≠ (0, 0) then static
  else
    let k := s.certOf c m gang
    let ext := at_ fun b => decide (0xE0 ≤ b.veOp) && gang.any fun n => !s.extAdmitted n (b.veOp - 0xE0)
    let full := fresh && m.kind ≠ 2 && (s.cx c).program.isSome
    let late := (s.windowNs (m.kind = 0)).any fun w => decide (w < certNs k.c)
    [(vcFifoBalance, k.fifo), (vcReadBeforeWrite, k.cold), (vcSyncUnbounded, k.sync),
     (vcPlacement, failAt (s.placementBad c m gang)), (vcNoGang, failAt (s.gangBad m gang)), (vcExtOpcode, ext),
     (vcContextState, failAt (fresh && (s.ctxState c ≠ stLive || full))),
     (vcBudgetCompute, failAt (m.kind = 0 && late)), (vcBudgetSegment, failAt (m.kind = 1 && late)),
     (vcBudgetLimit, at_ (s.buTooLong c) ++ failAt (decide (1048575 < certNs k.c)))]

/-! ## Step 8 (R276) -/

/-- What stands in the stores of a slice: (first address, bundles). -/
def State.extents (s : State) (n : Nat) : List (Nat × Nat) :=
  ((List.range 64).filterMap fun c => (s.cx c).program.bind fun p => if p.gang.contains n then some (p.base, p.count) else none) ++
  (s.plv.routines.filter fun r => r.slices.testBit n).map fun r => (r.base, r.count)

/-- Whether an extent is clear of others. -/
def clearOf (base n : Nat) (l : List (Nat × Nat)) : Bool := l.all fun (b, k) => decide (base + n ≤ b) || decide (b + k ≤ base)

/-- The lowest free extent of `n` addresses in `lo` to `hi - 1`. -/
def lowestExtent (lo hi n : Nat) (l : List (Nat × Nat)) : Option Nat :=
  if hi < lo + n then none else ((List.range (hi - lo - n + 1)).map (lo + ·)).find? fun b => clearOf b n l

/-- A bundle with its branch target moved by the base. -/
def relocate (base : Nat) (w : BitVec 256) : BitVec 256 :=
  if (Bundle.ofWord w).isBranch then w + BitVec.ofNat 256 (base * 2 ^ 32) else w

/-- Write relocated bundles into the store of each slice of a gang. -/
def State.writeStores (s : State) (gang : List Nat) (base : Nat) (words : List (BitVec 256)) : State :=
  gang.foldl (fun s n => s.modSlice n fun x => { x with store := spRun 0 x.store base (words.map (relocate base)) }) s

/-- The objects that the descriptors of handles span, their bank parts among them (R318). -/
def State.spanObjs (s : State) (c : Nat) (hs : List Nat) : List Nat :=
  (hs.flatMap fun h =>
    let d := s.desc c h
    let mem := if d.view ≤ 1 then (pageSpans d.base d.span).filterMap fun (a, _) => (s.walk c a).map (·.obj) else []
    let bank := fun (off n : Nat) => (bitsOf d.bkMask 16).flatMap fun b => (pageSpans off n).filterMap fun (o, _) =>
      let (obj, used) := s.frameEntry (frameOf true (bankAddr d.bkStack d.bkChan b o))
      if used then some obj else none
    mem ++ if d.bkEn then bank d.bkOff (d.dim1 * d.bankKc) ++ bank d.bkActOff (8 * d.bankKc) else []).eraseDups

/-- The record of an admitted program. -/
def State.programOf (s : State) (c : Nat) (m : Image) (gang : List Nat) (base : Nat) (cert : Cert) : Program :=
  let all := (s.allBundles m gang).map (·.2)
  let hs := (all.flatMap fun b => s.handlesOf c b).eraseDups
  { stream := m.kind = 0, sfu := m.sfu, base := base, count := m.count, entry := m.entry, gang := gang, segments := m.segs, calls := m.calls,
    bounds := m.bounds, certNs := certNs cert.c, segNs := cert.segs.map certNs, handles := hs, objs := s.spanObjs c hs, bus := s.imageBus c m gang, image := m.words }

/-- The end of an admission: the PLV's registers, its queue, and the command's completion (R270, R304). -/
def State.admitted (s : State) (cmd : Cmd) (code off detail : Nat) : State :=
  let s := { s with plv := { s.plv with queue := s.plv.queue.filter (· ≠ cmd.id) } }
  let s := ((s.setF plvP Plv.LAST_CODE code).setF plvP Plv.OFFSET off).setF plvP Plv.CTX cmd.ctx
  let s := s.bump plvP (if code = 0 then Plv.ADMITTED else Plv.REJECTED)
  let s := if code = vcPlacement then s.conflict gcPinRefused else s
  if code = 0 then s.finishCmd cmd.id stDone 0 detail else s.reject cmd.id code off

/-- The gangs on which an image may be admitted: the pins, the mask of a routine, or the candidates of R286. -/
def State.gangsFor (s : State) (m : Image) (mask : Nat) : List (List Nat) :=
  if m.kind = 1 then s.hostGangs m.gang else [bitsOf mask 16]

/-- The first gang that passes steps 4 to 7, or the failure of the first one. -/
def State.pickGang (s : State) (c : Nat) (m : Image) (mask : Nat) (fresh : Bool) : Except (Nat × Nat) (List Nat) :=
  let gangs := s.gangsFor m mask
  match gangs.find? fun g => firstFail (s.gangChecks c m g fresh) = (0, 0) with
  | some g => .ok g
  | none => match gangs with
    | g :: _ => .error (firstFail (s.gangChecks c m g fresh))
    | [] => .error (vcNoGang, 0)

/-- Step 8 of a bundle program. -/
def State.admitOn (s : State) (cmd : Cmd) (m : Image) (gang : List Nat) : State :=
  let c := cmd.ctx
  match lowestExtent 0 8192 m.count (gang.flatMap s.extents) with
  | none => s.admitted cmd vcStoreFull 0 0
  | some base =>
    let p := s.programOf c m gang base (s.certOf c m gang)
    if !s.refsFit p.objs then s
    else
      let s := ((s.writeStores gang base m.words).takeRefs p.objs).cancelRa c gang
      let s := (s.modCx c fun y => { y with program := some p, host := none, started := false }).recert
      s.admitted cmd 0 0 base

/-- Step 8 of a routine: an earlier routine of its index leaves the slices of its mask. -/
def State.admitRoutineOn (s : State) (cmd : Cmd) (m : Image) (slices : List Nat) : State :=
  let mask := maskOf slices
  let cert := (s.certOf cmd.ctx m slices).c
  let old := s.plv.routines.filterMap fun r =>
    if r.idx = m.idx then (if r.slices &&& mask = r.slices then none else some { r with slices := r.slices - (r.slices &&& mask) }) else some r
  let t := { s with plv := { s.plv with routines := old } }
  match lowestExtent 8192 10240 m.count (slices.flatMap t.extents) with
  | none => s.admitted cmd vcStoreFull 0 0
  | some base =>
    let r : Routine := { idx := m.idx, base := base, count := m.count, entry := m.entry, slices := mask, bounds := m.bounds, cert := cert }
    let t := t.writeStores slices base m.words
    { t with plv := { t.plv with routines := t.plv.routines ++ [r] } }.admitted cmd 0 0 base

/-- The verifier reads the descriptors that an image names (R105, R261). -/
def State.noteImage (s : State) (c : Nat) (m : Image) : State :=
  (((s.allBundles m (List.range 16)).flatMap fun (_, b) => s.handlesOf c b).eraseDups).foldl (fun s h => s.noteDesc { plvReader with ctx := c } c h) s

/-- A bundle program or routine goes through the sequence (R276). -/
def State.admitImage (s : State) (cmd : Cmd) (routine : Bool) : State :=
  let (s, got) := s.fetchImage cmd.ctx (cmd.fld 0x18 8) cmd.len 36 imageLen
  match got with
  | none => s.admitted cmd vcImageFetch 0 0
  | some l =>
    let m := Image.ofBytes l
    let mask := cmd.fld 0x20 2
    let checks := s.headerChecks m cmd.ctx routine (s.on (qdbP cmd.queue) Qdb.VALIDATED) ++ m.encodingChecks ++
      s.flowChecks m (if m.kind = 1 then [] else bitsOf mask 16)
    match firstFail checks with
    | (0, _) =>
      let s := s.noteImage cmd.ctx m
      match s.pickGang cmd.ctx m mask true with
      | .error (code, off) => s.admitted cmd code off 0
      | .ok gang => if routine then s.admitRoutineOn cmd m gang else s.admitOn cmd m gang
    | (code, off) => s.admitted cmd code off 0

/-! ## Micro-programs (R275, R276) -/

def UImage.word (m : UImage) (i : Nat) : UWord := uWord (m.words.getD i 0)
def UWord.branches (w : UWord) : Bool := decide (0x18 ≤ w.uop) && decide (w.uop ≤ 0x1C)
def UWord.target (w : UWord) : Nat := w.imm % 1024

/-- Whether a word needs a bound: a LOOP, or a backward branch. -/
def UImage.needsBound (m : UImage) (i : Nat) : Bool :=
  let w := m.word i
  w.uop = 0x1C || (w.branches && decide (w.target ≤ i))

/-- The words that a word can lead to. -/
def UImage.succ (m : UImage) (i : Nat) : List Nat :=
  let w := m.word i
  if w.uop = 0x01 then [] else if w.uop = 0x18 then [w.target] else if w.branches then [i + 1, w.target] else [i + 1]

/-- Words that can be reached. -/
def UImage.reach (m : UImage) : Nat → List Nat → List Nat
  | 0, l => l
  | fuel + 1, l => m.reach fuel ((l ++ l.flatMap m.succ).eraseDups.filter fun i => decide (i < m.count))

/-- A reserved opcode or format, or a non-zero reserved field (R127). -/
def UImage.badWord (m : UImage) (i : Nat) : Bool :=
  let w := m.word i
  let v := (m.words.getD i 0).toNat
  !uopDefined w.uop || fld v 41 32 ≠ 0 || decide (5 < w.fmt) || (w.fmt = 5 && (w.uop = 0x28 || w.uop = 0x29))

/-- The cycles of a word, a taken branch apart (R127): a read opens a row each time. -/
def UWord.cost (w : UWord) : Nat :=
  match w.uop with
  | 0x0A | 0x0B => 8
  | 0x18 => 2
  | 0x20 | 0x22 => 5
  | 0x23 => 6
  | 0x28 => if w.fmt = 2 then 2 else 1
  | 0x29 => (if w.fmt = 2 then 2 else 1) + 4
  | _ => 1

/-- The cycles of the longest path from a word, loops at their bounds (R137). -/
def UImage.longest (m : UImage) : Nat → Nat → Sp Nat → Nat
  | 0, _, _ => 0
  | fuel + 1, i, taken =>
    if m.count ≤ i then 0
    else
      let w := m.word i
      let jump := fun (_ : Unit) =>
        if m.needsBound i then
          let k := spGet 0 taken i
          let bound := ((m.bounds.find? fun e => e.off = i).map (·.bound)).getD 0
          if k < bound then 2 + m.longest fuel w.target (spPut 0 taken i (k + 1)) else 0
        else 2 + m.longest fuel w.target taken
      if w.uop = 0x01 then 1
      else if w.uop = 0x18 then jump ()
      else if w.branches then max (1 + m.longest fuel (i + 1) taken) (jump ())
      else w.cost + m.longest fuel (i + 1) taken

/-- The cost that step 7 records: issue, yield, the longest path and arbitration (R137). -/
def UImage.cost (m : UImage) : Nat :=
  let run := m.longest ((1 + (m.bounds.map (·.bound)).foldl (· + ·) 0) * m.count + 1) 0 []
  12 + (1 + run) + cdiv (1 + run) 7

/-- The checks of a micro-program after its fetch. -/
def State.uprogChecks (s : State) (m : UImage) : List Check :=
  let at_ := fun (p : Nat → Bool) => (List.range m.count).filter p
  let wrong := (m.bounds.filter fun e => e.kind ≠ 0 || decide (m.count ≤ e.off) || !m.needsBound e.off).map (·.off)
  let noEnd := !(m.reach m.count [0]).any fun i => (m.word i).uop = 1
  [(vcHdrField, failAt (m.magic ≠ 0x4D504B52 || m.count = 0 || decide (1024 < m.count) || !m.zeroOk)),
   (vcFabricState, failAt (s.on glbP GlbCtrl.LOADING || !s.on glbP GlbCtrl.LOADED)),
   (vcUprogEncoding, at_ m.badWord), (vcUprogBranch, at_ fun i => (m.word i).branches && decide (m.count ≤ (m.word i).target)),
   (vcUprogBound, (at_ fun i => m.needsBound i && (m.bounds.filter fun e => e.off = i).length ≠ 1) ++ wrong ++ failAt noEnd)]

/-- A micro-program goes through the sequence, into the lowest extent that is free in every bank unit that it names. -/
def State.admitMicro (s : State) (cmd : Cmd) : State :=
  let (s, got) := s.fetchImage cmd.ctx (cmd.fld 0x18 8) cmd.len 16 uimageLen
  match got with
  | none => s.admitted cmd vcImageFetch 0 0
  | some l =>
    let m := UImage.ofBytes l
    match firstFail (s.uprogChecks m) with
    | (0, _) =>
      let stackMask := cmd.fld 0x20 1 % 16
      let chans := cmd.fld 0x24 2
      let banks := cmd.fld 0x26 2
      let meets := s.plv.uprogs.filter fun u => u.stackMask &&& stackMask ≠ 0 && u.chans &&& chans ≠ 0 && u.banks &&& banks ≠ 0
      let units := (bitsOf stackMask 4).flatMap fun k => (bitsOf chans 16).flatMap fun c => (bitsOf banks 16).map fun b => (k, c, b)
      let full := units.any fun (k, c, b) =>
        decide (32 ≤ (s.plv.uprogs.filter fun u => u.stackMask.testBit k && u.chans.testBit c && u.banks.testBit b).length)
      match full, lowestExtent 0 1024 m.count (meets.map fun u => (u.base, u.count)) with
      | false, some base =>
        let words := (List.range m.count).map fun i =>
          let w := m.words.getD i 0
          if (m.word i).branches then w + BitVec.ofNat 64 base else w
        let u : Uprog := { ctx := cmd.ctx, base := base, count := m.count, stackMask := stackMask, chans := chans, banks := banks, bounds := m.bounds,
                           cost := m.cost, words := m.words }
        let s := { s with plv := { s.plv with uprogs := s.plv.uprogs ++ [u] },
                          ustore := units.foldl (fun t (k, c, b) => spRun 0 t (buKey k c b * 1024 + base) words) s.ustore }
        s.admitted cmd 0 0 base
      | _, _ => s.admitted cmd vcStoreFull 0 0
    | (code, off) => s.admitted cmd code off 0

/-! ## The rows -/

/-- An admission command starts: it waits for the PLV, and holds a reference to the object of its image (R270, R318). -/
def State.startAdmission (s : State) (c : Cmd) : State :=
  let o := ((s.walk c.ctx (c.fld 0x18 8)).map (·.obj)).toList
  if !s.refsFit o then s
  else
    let s := { (s.takeRefs o) with plv := { s.plv with queue := s.plv.queue ++ [c.id] } }
    s.putCmd { c with st := .started, refs := c.refs ++ o }

/-- ADMIT_PROGRAM (R271, R276). -/
def execAdmitProgram (cmd : Nat) (s : State) : Result := onCmd cmd 0x08 s fun c s => s.startAdmission c

/-- ADMIT_UPROG (R271, R275). -/
def execAdmitUprog (cmd : Nat) (s : State) : Result := onCmd cmd 0x09 s fun c s => s.startAdmission c

/-- ADMIT_ROUTINE (R271, R273). -/
def execAdmitRoutine (cmd : Nat) (s : State) : Result := onCmd cmd 0x0A s fun c s => s.startAdmission c

/-- An admission runs through its sequence (R276). -/
def State.admitCmd (s : State) (c : Cmd) : State := if c.opcode = 9 then s.admitMicro c else s.admitImage c (c.opcode = 0x0A)

/-- ADMISSION_COMPLETE: the PLV ends the oldest admission with the code of its first failing check, or writes the stores (R270, R276). A
re-verification goes first. -/
def execAdmissionComplete (s : State) : Result :=
  match s.plv.queue with
  | [] => .next s
  | id :: rest =>
    if !s.live || s.plv.reverify ≠ [] then .next s
    else match s.findCmd id with
      | none => .next { s with plv := { s.plv with queue := rest } }
      | some c =>
        if c.isDone then .next { s with plv := { s.plv with queue := rest } }
        else .next (s.admitCmd c)

/-! ## Re-verification (R287) -/

/-- The image of an admitted program. -/
def Program.asImage (p : Program) : Image :=
  { magic := 0x4B524C4E, kind := if p.stream then 0 else 1, sfu := p.sfu, count := p.count, entry := p.entry, gang := p.gang.length, idx := 0,
    segs := p.segments, calls := p.calls, zeroOk := true, words := p.image, bounds := p.bounds }

/-- A host program is placed again, keeping its base, or its run ends (R287). Answers whether it failed. -/
def State.replace (s : State) (c : Nat) (p : Program) : State × Bool :=
  let m := p.asImage
  let free := fun (g : List Nat) => (g.filter fun n => !p.gang.contains n).all fun n => clearOf p.base p.count (s.extents n)
  match (s.hostGangs p.gang.length).find? fun g => free g && firstFail (s.gangChecks c m g false) = (0, 0) with
  | some g =>
    let s := (s.writeStores g p.base p.image).cancelRa c (p.gang ++ g)
    let k := s.certOf c m g
    ((s.modCx c fun y => { y with program := some { p with gang := g, certNs := certNs k.c, segNs := k.segs.map certNs } }).recert, false)
  | none =>
    match (s.cx c).host with
    | some h => ((s.finishCmd h.cmd stPlacement).modCx c fun y => { y with host := none }, true)
    | none => (s, true)

/-- REVERIFICATION: every program whose gang holds a quarantined slice is verified again, once no segment of it runs: a host program is placed
again or ends, a stream program is held from the next tick edge (R287, R395). -/
def execReverification (s : State) : Result :=
  match s.plv.reverify with
  | [] => .next s
  | n :: rest =>
    let mine := (List.range 64).filter fun c => (s.cx c).program.any fun p => p.gang.contains n
    let busy := mine.any fun c => !s.isStream c && (s.cx c).host.any fun h => h.active
    if !s.live || busy then .next s
    else
      let s := mine.foldl (fun s c =>
        match (s.cx c).program with
        | none => s
        | some p =>
          let (s, failed) := if p.stream then (s.modCx c fun y => { y with heldNext := true }, true) else s.replace c p
          let s := s.bump plvP Plv.REVERIFY_CNT
          if failed then s.irq plvP 4 else s) s
      .next { s with plv := { s.plv with reverify := rest } }

end Sys2Proof.Machine
end

