-- ==== Sys2Proof/Machine/Contexts.lean ====
section
/-! DEFINITION. Context slots and queues: grants, releases, teardown of a port or a context, and the host links (R294, R297, R298, R301, R321,
R413). -/

namespace Sys2Proof.Machine

/-! ## Grants (R297, R299, R301) -/

/-- Grant a context slot to a port: the slot is LIVE, and nothing belongs to it yet (R28, R297). -/
def State.openCtx (s : State) (c p : Nat) : State :=
  let pg := ctxP c
  let s := s.setCx c { port := p, gen := (s.cx c).gen }
  (((((s.setF pg Ctx.STATE stLive).setB pg Ctx.STREAM (decide (c < 4))).setF pg Hdr.OWNER_PORT p).setF pg Hdr.OWNER_CONTEXT c).setB pg
    Hdr.OWNER_VALID true)

/-- A write of `CTX_REQ.GO` on the page of port `p` (R297). -/
def State.requestCtx (s : State) (p : Nat) (stream : Bool) (group : Nat) : State :=
  let say := fun (s : State) (slot res : Nat) => (s.setF (linkP p) HptLink.CGRANT_SLOT slot).setF (linkP p) HptLink.CGRANT_RESULT res
  let free := fun (c : Nat) => s.ctxState c = stFree
  let pick := if stream then (if free group then some group else none) else ((List.range 60).map (4 + ·)).find? fun c => free c
  if stream && p ≠ s.admin then say s 0xFF 2
  else match pick with
    | some c => say (s.openCtx c p) c 0
    | none => say s 0xFF 1

/-- Grant queue `q` (R28, R299, R301). -/
def State.openQueue (s : State) (q p c depth : Nat) (validated : Bool) (ring : Nat) : State :=
  let pg := qdbP q
  let s := (((s.setF pg Hdr.OWNER_PORT p).setF pg Hdr.OWNER_CONTEXT c).setB pg Hdr.OWNER_VALID true)
  let s := (s.setF pg Qdb.DEPTH_LOG2 depth).setB pg Qdb.VALIDATED validated
  { s with hib := { s.hib with rings := spPut 0 s.hib.rings q ring, depths := spPut 0 s.hib.depths q depth } }

/-- A write of `QREQ.GO` on the page of port `p` (R301). -/
def State.requestQueue (s : State) (p : Nat) : State :=
  let pg := linkP p
  let say := fun (s : State) (q res : Nat) => (s.setF pg HptLink.QGRANT_QUEUE q).setF pg HptLink.QGRANT_RESULT res
  let c := s.f pg HptLink.QREQ_CTX
  let d := s.f pg HptLink.QREQ_DEPTH_LOG2
  if s.ctxState c ≠ stLive ∨ s.ctxPort c ≠ p then say s 0x1FF 2
  else if depthReserved d then say s 0x1FF 3
  else match (List.range 256).find? fun q => !s.queueOwned q with
    | some q => say (s.openQueue q p c d (s.on pg HptLink.QREQ_VALIDATED) (s.f pg HptLink.QREQ_RING * 4096)) q 0
    | none => say s 0x1FF 1

/-- A write of `QREQ.RELEASE` (R301). -/
def State.releaseQueue (s : State) (p q : Nat) : State :=
  if decide (q < 256) && s.queueOwned q && s.queuePort q = p && !s.hib.closing.contains q then
    { s with hib := { s.hib with closing := s.hib.closing ++ [q] } }
  else s

/-! ## Resets of the QUEUE, CONTEXT and PORT domains (R39, R434) -/

def State.resetQueue (s : State) (q : Nat) : State :=
  let s := (s.resetPage (qdbP q)).setBusy (qdbP q) (s.time + 8)
  { s with hib := { s.hib with closing := s.hib.closing.filter (· ≠ q), rings := spDel s.hib.rings q, depths := spDel s.hib.depths q } }

/-- A slice no longer counts a context as the last that ran on it: what is granted in its slot next is another context (R69). -/
def Slice.forget (x : Slice) (c : Nat) : Slice :=
  { x with lastCtx := if x.lastCtx = some c then none else x.lastCtx, lastSeg := if x.lastSeg = some c then none else x.lastSeg }

/-- The CONTEXT domain: its page, its events, and the pages of its tables. A release makes what comes after another holder of the slot (R319). -/
def State.resetCtx (s : State) (c : Nat) (release : Bool) : State :=
  let gen := (s.cx c).gen + b2n release
  let s := match (s.cx c).l1 with
    | some p => { s with tpages := s.tpages.filter (· ≠ p) }
    | none => s
  let s := (List.range 16).foldl (fun s n => s.modSlice n fun x => x.forget c) s
  ((s.setCx c { gen := gen }).resetPage (ctxP c)).setBusy (ctxP c) (s.time + 8)

/-- The PORT domain: its pages; what `HPT_LINK` says of a link that stayed up stands (log 18). -/
def State.resetPort (s : State) (p : Nat) : State :=
  let l := linkP p
  let up := (s.f l HptLink.UP, s.f l HptLink.RATE, s.f l HptLink.WIDTH)
  let s := [l, xlP p, ⟨.hptEvent, p, 0⟩, paceP p].foldl (fun s pg => (s.resetPage pg).setBusy pg (s.time + 8)) s
  ((s.setF l HptLink.UP up.1).setF l HptLink.RATE up.2.1).setF l HptLink.WIDTH up.2.2

/-! ## Teardown (R298, R321) -/

/-- Slots that belong to a port and are not free. -/
def State.portCtxs (s : State) (p : Nat) : List Nat :=
  (List.range 64).filter fun c => s.ctxState c ≠ stFree && s.on (ctxP c) Hdr.OWNER_VALID && s.ctxPort c = p

/-- Event P of a teardown: the contexts enter TEARDOWN, commands fetched and not started complete `ABORTED` without events, and their halt channels
are disarmed (R290, R321). -/
def State.beginTear (s : State) (cs : List Nat) (release : Bool) : State :=
  let s := cs.foldl (fun s c => (s.setF (ctxP c) Ctx.STATE stTear).modCx c fun y => { y with tear := some s.time, torn := false, tearRelease := release }) s
  let gone := s.cmds.filter fun d => cs.contains d.ctx && d.st = .fetched
  let s := { s with cmds := s.cmds.filter fun d => !(cs.contains d.ctx && d.st = .fetched) }
  let s := gone.foldl (fun s d => s.dropRefs d.refs) s
  (List.range 4).foldl (fun s h => if cs.contains (s.f plvP (Plv.HALT_CTX.at h)) then s.setB plvP (Plv.HALT_ARM.at h) false else s) s

/-- The group of a stream context is detached at once; attach and detach commands that wait for an edge end (R321, R396). -/
def State.detachNow (s : State) (g : Nat) : State :=
  let x := s.grp g
  let s := x.attachCmd.foldl (fun s id => s.reject id raNoProgram) s
  let s := match x.detachCmd with | some id => s.finishCmd id stDone | none => s
  (s.modGrp g fun x => { x with frame := {}, computing := none, attachCmd := [], detachCmd := none }).setB (grpP g) SibGrp.ATTACHED false

/-- Event E for one context: a segment still running is cut and not resumed, bank-unit commands are cancelled, the stream group is detached,
admissions in progress finish, programs are released (R321). -/
def State.tearWork (s : State) (c : Nat) : State :=
  let s := if !s.isStream c && s.running c ≠ [] then s.cutHost c else s
  let s := match (s.cx c).host with | some h => s.finishCmd h.cmd stAborted | none => s
  let s := (s.cancelRa c (s.gang c)).cancelBus c fun i => !i.isHib
  let s := s.dropCreations c
  let s : State := { s with bus := s.bus.filter fun b => !(b.ctx = c && b.runahead) }
  let s := if c < 4 ∧ s.isStream c then s.detachNow c else s
  let mine := fun (id : Nat) => (s.findCmd id).any fun d => d.ctx = c
  let s := (s.plv.queue.filter mine).foldl (fun s id => match s.findCmd id with
    | some d => if d.isDone then s else s.admitCmd d
    | none => s) s
  let s := { s with plv := { s.plv with queue := s.plv.queue.filter fun id => !mine id, uprogs := s.plv.uprogs.filter fun u => u.ctx ≠ c } }
  let s := s.freeProgram c
  s.modCx c fun y => { y with torn := true }

/-- Objects that exist, in ascending identifier. -/
def State.objList (s : State) : List Nat := s.objInfo.map (·.1)

/-- Object by object: the port's field becomes 0 and the mappings of its contexts go (R321). -/
def State.dropPortObjs (s : State) (p : Nat) (cs : List Nat) : State :=
  s.objList.foldl (fun s o =>
    let s := (cs.filter fun c => s.maps c o).foldl (fun s c => s.unmapObj c o) s
    s.changeRefs o fun v => withRefPort v p 0) s

/-- Object by object: the mapping of one context goes, and its port's field falls by the 1 that the mapping held (R321). -/
def State.dropCtxObjs (s : State) (c p : Nat) : State :=
  s.objList.foldl (fun s o =>
    if s.maps c o then (s.unmapObj c o).changeRefs o fun v => withRefPort v p (refPort v p - 1) else s) s

/-- Whether the edge of a teardown that began at `t` has come: the first tick edge after it, or 1 µs while `RUN` is 0 (R321). -/
def State.tearDue (s : State) (t : Nat) : Bool :=
  (s.ticking && decide (t < s.tkg.edgeAt)) || (!s.on srcP TkgSrc.RUN && decide (t + 1000 ≤ s.time))

def State.port (s : State) (p : Nat) : PortTear := spGet {} s.ports p
def State.setPort (s : State) (p : Nat) (x : PortTear) : State := { s with ports := spPut {} s.ports p x }

/-- The contexts that a port's teardown takes down. -/
def State.tearCtxs (s : State) (p : Nat) : List Nat := (s.portCtxs p).filter fun c => s.ctxState c = stTear

/-- TEARDOWN_EDGE (event E of R321). -/
def execTeardownEdge (t : TearTarget) (s : State) : Result :=
  match t with
  | .port p =>
    match (s.port p.val).since with
    | some at_ =>
      act (s.live && !(s.port p.val).torn && s.tearDue at_) s fun s =>
        let cs := s.tearCtxs p.val
        let s := (cs.foldl State.tearWork s).dropPortObjs p.val cs
        s.setPort p.val { since := some at_, torn := true }
    | none => .next s
  | .slot c =>
    match (s.cx c.val).tear with
    | some at_ =>
      act (s.live && !(s.cx c.val).torn && !s.on (linkP (s.ctxPort c.val)) HptLink.TEARDOWN_BUSY && s.tearDue at_) s fun s =>
        (s.tearWork c.val).dropCtxObjs c.val (s.ctxPort c.val)
    | none => .next s

/-- Whether every command of contexts has completed: their queues are released as R301 states. -/
def State.quietCmds (s : State) (cs : List Nat) : Bool := !s.cmds.any fun d => cs.contains d.ctx

/-- The queues of contexts are reset (R301, R321). -/
def State.closeQueues (s : State) (cs : List Nat) : State :=
  ((List.range 256).filter fun q => s.queueOwned q && cs.contains (s.queueCtx q)).foldl State.resetQueue s

/-- TEARDOWN_DONE (event D of R321): once every command has completed, queues, contexts and the port are reset in that order; a reset context is
LIVE again (R298, R301). DEDUCED: their events are not waited for, since nothing is written to the port from P on (log 50). -/
def execTeardownDone (t : TearTarget) (s : State) : Result :=
  match t with
  | .port p =>
    act (s.live && (s.port p.val).torn && s.quietCmds (s.tearCtxs p.val)) s fun s =>
      let cs := s.tearCtxs p.val
      let s := (cs.foldl (fun s c => s.resetCtx c true) (s.closeQueues cs)).resetPort p.val
      (s.setPort p.val {})
  | .slot c =>
    let y := s.cx c.val
    act (s.live && y.torn && s.quietCmds [c.val] && !s.on (linkP (s.ctxPort c.val)) HptLink.TEARDOWN_BUSY) s fun s =>
      let p := s.ctxPort c.val
      let s := (s.closeQueues [c.val]).resetCtx c.val y.tearRelease
      if y.tearRelease then s else s.openCtx c.val p

/-- A write of `CTX_CTRL` (R298). -/
def State.ctxControl (s : State) (c : Nat) (reset release : Bool) : State :=
  let st := s.ctxState c
  if (reset || release) && st ≠ stFree && st ≠ stTear then s.beginTear [c] release else s

/-- Whether a COMPLETION of a queue's commands waits in its context's backing ring (R316, R317). -/
def State.eventsWait (s : State) (q : Nat) : Bool :=
  let c := s.queueCtx q
  (List.range (s.f (ctxP c) Ctx.EV_BACKLOG)).any fun i =>
    let r := s.peek false (backAddr c (s.f (ctxP c) Ctx.EVQ_TAIL + i)) 16
    leAt r 8 1 = 1 && leAt r 0xE 1 = q

/-- QUEUE_RELEASE_DONE: a released queue whose commands have all completed, their events delivered, is reset (R301). -/
def execQueueReleaseDone (q : Fin 256) (s : State) : Result :=
  act (s.live && s.hib.closing.contains q.val && (!s.cmds.any fun c => c.queue = q.val) && !s.eventsWait q.val) s fun s => s.resetQueue q.val

/-! ## Configuration values of a function (R293) -/

/-- Capabilities and extended capabilities of a function (R293). -/
inductive PciCap where
  | powerManagement | pciExpress | msiX | advancedErrors | secondaryPcie | dataLinkFeature | physical16 | physical32 | physical64 | laneMargining
  | serialNumber
  deriving DecidableEq, Repr

/-- A base address register: its size and whether it is prefetchable; all are 64 bits wide (R293). -/
structure Bar where
  bytes : Nat
  prefetch : Bool
  deriving DecidableEq, Repr

/-- What a function presents (R293). -/
structure PciFunction where
  vendor : Nat := 0x1E5B
  device : Nat := 0x1024
  revision : Nat
  classCode : Nat := 0x120000
  subVendor : Nat := 0x1E5B
  subsystem : Nat
  bars : List Bar := [⟨2 ^ 26, false⟩, ⟨2 ^ 35, true⟩, ⟨2 ^ 35, true⟩]
  rom : Bool := false
  interruptPin : Nat := 0
  caps : List PciCap := [.powerManagement, .pciExpress, .msiX, .advancedErrors, .secondaryPcie, .dataLinkFeature, .physical16, .physical32,
    .physical64, .laneMargining, .serialNumber]
  maxPayload : Nat := 512
  flr : Bool := true
  msixSize : Nat := 248
  msixTable : Nat
  msixPba : Nat
  serial : W64
  deriving DecidableEq, Repr

/-- The configuration values of the function of a trained port; an untrained port presents none (R292, R293). -/
def State.pciFunction (s : State) (p : Nat) : Option PciFunction :=
  if s.portWidth p = 0 then none
  else
    let g := s.f devP DevCap.GRADE_SLICES
    some { revision := s.f devP DevCap.STEPPING, subsystem := if g = 16 then 0x1016 else if g = 12 then 0x1012 else 0x1008,
           msixTable := 0x22040 + p * 0x4000, msixPba := 0x22FC0 + p * 0x4000, serial := Config.serial }

/-! ## Links (R294, R321, R410, R413) -/

/-- The loss of a port begins the teardown of its contexts; a further loss during one adds none (R321). -/
def State.losePort (s : State) (p : Nat) : State :=
  if s.on (linkP p) HptLink.TEARDOWN_BUSY then s
  else
    let s := s.setB (linkP p) HptLink.TEARDOWN_BUSY true
    (s.beginTear (s.portCtxs p) true).setPort p { since := some s.time }

/-- The link itself goes down, and the function is in D0 when it returns. -/
def State.dropLink (s : State) (p : Nat) : State :=
  let l := linkP p
  ((s.setB l HptLink.UP false).setF l HptLink.RATE 0).setF l HptLink.WIDTH 0

def State.setD3 (s : State) (p : Nat) (on : Bool) : State := { s with pins := { s.pins with d3hot := mapAt s.pins.d3hot p fun _ => on } }
def State.setPerst (s : State) (p : Nat) (up : Bool) : State := { s with pins := { s.pins with perst := mapAt s.pins.perst p fun _ => up } }

/-- A port is lost: its counter, its link unless an FLR lost it, and its teardown (R294, R321). -/
def State.loseLink (s : State) (p : Nat) (flr : Bool) : State :=
  let s := s.bump (linkP p) (if flr then HptLink.FLR_CNT else HptLink.DOWN_CNT)
  ((if flr then s else s.dropLink p).setD3 p false).losePort p

/-- PORT_LOSS: a link loss, an FLR or PERST# (R321, R410). -/
def execPortLoss (p : Fin 4) (why : Loss) (s : State) : Result :=
  let s' := if why = .perst then s.setPerst p.val false else s
  act (s.live && s.on (linkP p.val) HptLink.UP) s' fun s => s.loseLink p.val (why = .flr)

/-- POWER_STATE_CHANGE: a function moves to D3hot or back to D0 (R294). -/
def execPowerStateChange (p : Fin 4) (d3hot : Bool) (s : State) : Result :=
  act (s.live && s.on (linkP p.val) HptLink.UP) s fun s => s.setD3 p.val d3hot

/-- LINK_UP: a trained port reaches L0, once the timebase is locked and PERST# is high (R292, R294, R413). -/
def execLinkUp (p : Fin 4) (rate : Fin 6) (s : State) : Result :=
  act (s.live && s.power.locked && s.pins.perst.getD p.val false && !s.pins.clkGone.testBit (4 + p.val) && s.portWidth p.val ≠ 0 && !s.on (linkP p.val) HptLink.UP) s fun s =>
    let l := linkP p.val
    (((s.setB l HptLink.UP true).setF l HptLink.RATE rate.val).setF l HptLink.WIDTH (s.portWidth p.val)).setD3 p.val false

/-- PERST_RELEASE: PERST# rises, and a trained port may train (R413). -/
def execPerstRelease (p : Fin 4) (s : State) : Result := .next (s.setPerst p.val true)

end Sys2Proof.Machine
end

