-- ==== Sys2Proof/Machine/Tick.lean ====
section
/-! DEFINITION. The tick: starting and stopping, tick edges of every kind and what happens at one, the windows of a tick, commits of a schedule
(R49 to R65, R70; the edge actions of R333 to R339, R346, R357, R395, R396). -/

namespace Sys2Proof.Machine

/-! ## Schedules (R60 to R62) -/

/-- The derived registers follow the active set (R62). -/
def State.publish (s : State) : State :=
  let c := s.sched
  let put := fun (s : State) (l : List (Fld × Nat)) => l.foldl (fun s (f, v) => s.setF winP f v) s
  put s [(TkgWin.GMIN_0, gMin c.period 0), (TkgWin.GMIN_1, gMin c.period 1), (TkgWin.COMPUTE_CERT_NS, c.computeCert),
    (TkgWin.HOST_CERT_NS, c.hostCert), (TkgWin.POINT_COUNT, c.points.length), (TkgWin.LONG_MODE, b2n (longMode c.period))]

/-- A schedule becomes the active set (R61). -/
def State.activate (s : State) (c : Sched) : State :=
  let s := { s with tkg := { s.tkg with pendSched := none } }
  let put := fun (s : State) (l : List (Fld × Nat)) => l.foldl (fun s (f, v) => s.setF winP f v) s
  (put s [(TkgWin.COMMIT_PENDING, 0), (TkgWin.ACT_PERIOD, c.period), (TkgWin.ACT_CSTART, c.cstart), (TkgWin.ACT_CEND, c.cend),
    (TkgWin.ACT_GEND, c.gend), (TkgWin.ACT_DECISION_OFFSET, c.dec), (TkgWin.ACT_TOL, c.tol)]).publish

/-- A committed schedule that waits becomes active. -/
def State.activatePending (s : State) : State :=
  match s.tkg.pendSched with
  | some c => s.activate c
  | none => s

/-! ## The band and the gap (R55, R59) -/

/-- The offset at which the host window opens: in band 1 in short mode the gap takes what it needs from the host window (R59). -/
def State.hostStart (s : State) : Nat :=
  let c := s.sched
  if s.on winP TkgWin.BAND && !longMode c.period then max c.gend (c.cend + gMin c.period 1) else c.gend

/-- `HOT_EXHAUSTED` is live; its onset is a thermal conflict (R59, R359). -/
def State.checkHot (s : State) : State :=
  let c := s.sched
  let hot := decide (c.gend < s.hostStart) && decide (c.period ≤ s.hostStart + c.tol)
  let was := s.on winP TkgWin.HOT_EXHAUSTED
  let s := s.setB winP TkgWin.HOT_EXHAUSTED hot
  if hot && !was then s.conflict gcHotExhausted else s

/-- A write of 1 to `COMMIT` (R60, R61). DEDUCED: the set that passed the check is the one that becomes active, so a later write to a pending
register does not change it (log 33). -/
def State.commit (s : State) : State :=
  let c := s.pendingSched
  let cause := ({ c with tol := s.tolOf c.tol } : Sched).check (s.f plvP Plv.CERT_STREAM_NS) (s.f plvP Plv.CERT_SEG_NS)
  let s := s.setF winP TkgWin.INVALID_CAUSE cause
  if cause = 0 then
    let s : State := { s.setB winP TkgWin.COMMIT_PENDING true with tkg := { s.tkg with pendSched := some c } }
    if s.tkg.phase = .stopped then s.activatePending.checkHot else s
  else
    let s := (s.setB winP TkgWin.SCHEDULE_INVALID true).setB winP TkgWin.COMMIT_PENDING false
    ({ s with tkg := { s.tkg with pendSched := none } }).irq winP 2

/-! ## Starting and stopping (R50, R52 to R54) -/

/-- What follows a write of `TKG_SRC_CTRL` that found `RUN` at `was`: a start latches the source and arms the first tick; a stop before the first
tick takes effect at once; one in a tick waits for the edge. DEDUCED: a stop that is taken back before its edge has not taken effect, so the ticks go
on and the source in use stays (log 33). -/
def State.afterRun (s : State) (was : Bool) : State :=
  let run := s.on srcP TkgSrc.RUN
  if run && !was && s.tkg.phase = .stopped then
    let internal := s.on srcP TkgSrc.SOURCE
    let s := if internal then s.setB srcP TkgSrc.LOCKED true else s
    { s with tkg := { s.tkg with internal := internal, phase := .armed, armAt := s.time } }.publish.checkHot
  else if !run && s.tkg.phase = .armed then { s with tkg := { s.tkg with phase := .stopped } }
  else s

/-- A write of 1 to `RELOCK` (R52). -/
def State.armRelock (s : State) : State := s.setB srcP TkgSrc.RELOCK_ARMED true

/-- The band that the sensors call for takes effect; the fraction of the refresh debt is kept (R55, R109). -/
def State.applyBand (s : State) : State :=
  match s.tkg.pendBand with
  | none => s.checkHot
  | some b =>
    let e := (s.time - s.tkg.accruedAt) * bandInterval b / bandInterval (s.f winP TkgWin.BAND)
    let s := { s with tkg := { s.tkg with pendBand := none, accruedAt := s.time - e } }
    (s.setF winP TkgWin.BAND b).checkHot

/-- BAND_CHANGE: while no tick runs, a change of band takes effect in the cycle after the sensors show it (R55). -/
def execBandChange (s : State) : Result := act (s.live && !s.ticking && s.tkg.pendBand.isSome) s State.applyBand

/-! ## What a tick edge does -/

/-- Contexts of the stream slots that hold an admitted stream program, with it. -/
def State.streams (s : State) : List (Nat × Program) :=
  (List.range 4).filterMap fun c => match (s.cx c).program with
    | some p => if p.stream then some (c, p) else none
    | none => none

/-- Every host segment still running, or faulted in this cycle, is cut (R70, R387). -/
def State.cutHosts (s : State) : State :=
  ((List.range 64).filter s.cuts).foldl (fun s c => s.cutHost c) s

/-- A stream context enters a hold (R395). -/
def State.hold (s : State) (c byRule : Nat) : State :=
  let s := ((s.setB (ctxP c) Ctx.STREAM_HELD true).setF (ctxP c) Ctx.HELD_BY byRule).irq (ctxP c) 2
  s.record { cls := 0x12, utype := 4, uidx := c, ctx := c, syn := byRule, detail := s.f (ctxP c) Ctx.CONSEC }

/-- A hold ends (R396). -/
def State.unhold (s : State) (c : Nat) : State := (s.setB (ctxP c) Ctx.STREAM_HELD false).setB (ctxP c) Ctx.HELD_BY false

/-- Holds end and begin at a tick edge, and the tick's record starts: shed as the groups stand (`shed`: a mask of those shed before or after
the edge), held where a hold stood or stands (R357, R395, R396). -/
def State.startRecord (s : State) (shed c : Nat) : State :=
  let y := s.cx c
  let was := s.on (ctxP c) Ctx.STREAM_HELD
  let s := if y.resumeReq then (s.unhold c).setF (ctxP c) Ctx.CONSEC 0 else s
  let s := if s.on (ctxP c) Ctx.STREAM_HELD then s
    else if y.heldNext then s.hold c 1
    else if s.f (ctxP c) Ctx.CONSEC = 16 then s.hold c 0
    else s
  let held := was || s.on (ctxP c) Ctx.STREAM_HELD
  s.modCx c fun y => { y with resumeReq := false, heldNext := false, started := false, tick := { held := held, shed := shed.testBit c } }

/-- A detach takes effect: no frame opens, and the command completes (R337). -/
def State.detachEdge (s : State) (g : Nat) : State :=
  match (s.grp g).detachCmd with
  | none => s
  | some id =>
    let s := (s.setB (grpP g) SibGrp.ATTACHED false).modGrp g fun x => { x with detachCmd := none, computing := none, frame := {} }
    (s.unhold g).finishCmd id stDone

/-- An attach takes effect (R336). -/
def State.attachEdge (s : State) (g : Nat) : State :=
  match (s.grp g).attachCmd with
  | [] => s
  | ids =>
    let s := (s.setB (grpP g) SibGrp.ATTACHED true).modGrp g fun x => { x with attachCmd := [], computing := none }
    ids.foldl (fun s id => s.finishCmd id stDone) s.raiseClock

/-- What the SIB does at an edge to the tick that ended: decisions form, frames close, detached groups stop (R333, R337, R338). -/
def State.endLink (s : State) : State :=
  let s := (List.range 4).foldl (fun s g => ((s.formDecision g).closeFrame g).detachEdge g) s
  { s with tkg := { s.tkg with decDue := some (s.tkg.edgeAt + s.sched.dec) } }

/-- What the SIB does at an edge for the tick that begins: attached groups open frame `t`, and the settings take effect (R336, R341). -/
def State.beginLink (s : State) (t : Nat) : State :=
  (List.range 4).foldl (fun s g =>
    let s := s.attachEdge g
    (if s.attached g then s.openFrame g t else s).evalTx g) ((List.range 16).foldl State.restTrig s.latchLink)

/-- Every slice pinned to a stream context is cleared, and the context's epoch moves: a step where it ran on the same slices in the tick before
with no other context between, else a cancellation (R175, R346, R347, R352). -/
def State.clearPinned (s : State) (c : Nat) (p : Program) : State :=
  let warm := (s.cx c).lastGang = p.gang && p.gang.all fun n => (s.slice n).lastCtx = some c
  let s := (s.switchTo c p.gang).startEpoch c p.gang warm
  let s := s.modCx c fun y => { y with lastGang := [] }
  p.gang.foldl (fun s n => s.modSlice n fun x =>
    { x.clear.tbInvalidate with lastCtx := if x.lastCtx = some c then some c else none }) s

/-- TICK_OUT rises (R54, R420). -/
def State.riseTickOut (s : State) : State :=
  if !s.on srcP TkgSrc.TICKOUT_EN then s
  else
    let w := min (min (max 8 (s.f srcP TkgSrc.TICKOUT_WIDTH)) 32768) (s.f winP TkgWin.ACT_PERIOD / 2)
    { s with pins := { s.pins with tickOut := true, tickOutFallAt := s.time + w } }

/-- TICK_OUT_FALL: the pulse on TICK_OUT ends. -/
def execTickOutFall (s : State) : Result :=
  act (s.pins.tickOut && decide (s.pins.tickOutFallAt ≤ s.time)) s fun s => { s with pins := { s.pins with tickOut := false } }

/-- The edge at `at_` that ends the ticks: it begins no tick, opens no frame, and TICK_OUT re-drives it (R54). -/
def State.stopEdge (s : State) : State :=
  let s := { s with tkg := { s.tkg with phase := .stopped } }
  (s.stopLink.setB srcP TkgSrc.RUNNING false).applyBand.riseTickOut

/-- The edge that begins tick `t`. -/
def State.beginTick (s : State) (t shed : Nat) : State :=
  let s := (s.setF srcP TkgSrc.TICK_NUM t).setB srcP TkgSrc.RUNNING true
  let s := s.applyBand
  let s := { s with tkg := { s.tkg with phase := .beforeCompute, pointsDone := 0, refreshEndsAt := 0, gapEndAt := s.hostStart } }
  let s := (List.range 4).foldl (fun s c => if s.isStream c then s.startRecord shed c else s) (s.beginLink t)
  let s := s.streams.foldl (fun s (c, p) => s.clearPinned c p) s
  let s := (List.range 64).foldl (fun s c =>
    match (s.cx c).host with
    | some h => if h.waitTick then s.modCx c fun y => { y with host := some { h with waitTick := false } } else s
    | none => s) s
  s.riseTickOut

/-- A tick edge at `at_`, which begins tick `t` unless `RUN` has been written 0 (R51 to R54, R61; the T+0 rows of the time order). -/
def State.edge (s : State) (at_ t : Nat) : State :=
  let s := s.cutHosts
  let s := (List.range 16).foldl State.dropStaging s
  let s := if s.ticking then s.setF srcP TkgSrc.LAST_PERIOD (at_ - s.tkg.edgeAt) else s
  let s := { s.activatePending with tkg := { s.activatePending.tkg with edgeAt := at_ } }
  let shed := s.f govP MgtGov.SHED_ACTIVE
  let s := s.endLink.governEdge
  if s.on srcP TkgSrc.RUN then s.beginTick t (shed ||| s.f govP MgtGov.SHED_ACTIVE) else s.stopEdge

/-- An edge that the source has made, with lock (R52, R53). -/
def State.realEdge (s : State) (at_ t : Nat) : State :=
  ((s.setF srcP TkgSrc.SYNTH_RUN 0).setB srcP TkgSrc.LOCKED true).edge at_ t

/-- The number of the next tick (R50). -/
def State.nextTick (s : State) : Nat := (s.tickNum + 1) % 2 ^ 64

/-! ## Edges (R49 to R53) -/

/-- FIRST_TICK: the first tick edge after `RUN` is set takes the number in `TKG_TICK_START` (R50, R100). -/
def execFirstTick (s : State) : Result :=
  let due := s.tkg.armAt + (if s.tkg.internal then 1000 else 100)
  act (s.live && s.on carveP GlbCarve.MEM_INIT_DONE && s.tkg.phase = .armed && decide (due ≤ s.time)) s fun s =>
    s.realEdge (if s.tkg.internal then due else s.time) (s.f srcP TkgSrc.TICK_START)

/-- TICK_IN_EDGE: a rising edge of TICK_IN within tolerance, or under an armed relock in the host window, is the tick edge; an earlier one is a
stray (R51, R52). -/
def execTickInEdge (s : State) : Result :=
  let want := s.tkg.edgeAt + s.sched.period
  let tol := s.sched.tol
  act (s.live && s.ticking && !s.tkg.internal) s fun s =>
    if s.on srcP TkgSrc.RELOCK_ARMED && s.tkg.phase = .host && decide (s.time ≤ want + tol) then
      (s.setB srcP TkgSrc.RELOCK_ARMED false).realEdge s.time s.nextTick
    else if s.time + tol < want then (s.bump srcP TkgSrc.STRAY_CNT).irq srcP 8
    else if s.tkg.phase = .host && decide (s.time ≤ want + tol) then s.realEdge s.time s.nextTick
    else s

/-- SYNTHETIC_EDGE: with no edge by `ACT_TOL` after the expected time the TKG makes one; the eighth in a row loses lock (R51, R52). -/
def execSyntheticEdge (s : State) : Result :=
  let due := s.tkg.edgeAt + s.sched.period + s.sched.tol
  act (s.live && !s.tkg.internal && s.tkg.phase = .host && decide (due ≤ s.time)) s fun s =>
    let s := ((s.bump srcP TkgSrc.SYNTH_CNT).irq srcP 4).bump srcP TkgSrc.SYNTH_RUN
    let s := if s.f srcP TkgSrc.SYNTH_RUN = 8 then
        ((s.setB srcP TkgSrc.LOCKED false).setB srcP TkgSrc.TICK_LOST true).irq srcP 2
      else s
    s.edge due s.nextTick

/-- INTERNAL_TICK: the generator's period count expires (R49, R53). -/
def execInternalTick (s : State) : Result :=
  let due := s.tkg.edgeAt + s.sched.period
  act (s.live && s.tkg.internal && s.tkg.phase = .host && decide (due ≤ s.time)) s fun s => s.realEdge due s.nextTick

/-! ## Windows (R57 to R70) -/

/-- Whether an offset of the current tick has come. -/
def State.past (s : State) (offset : Nat) : Bool := decide (s.tkg.edgeAt + offset ≤ s.time)

/-- Start the stream program of a group against the frame that has closed, unless the group is held or shed, or the frame is missing and to be
skipped (R65, R335, R357, R395). -/
def State.startStream (s : State) (c : Nat) (p : Program) : State :=
  let x := s.grp c
  let skip := match x.computing with
    | some k => k.missing && x.missAct
    | none => true
  let y := s.cx c
  if skip || !s.attached c || !s.ctxRuns c || y.tick.held || y.tick.shed || !s.clocked then s
  else
    let s := (s.modCx c fun y => { y with started := true, tokens := [], gbar := [], halting := [], lastGang := p.gang }).setF (ctxP c) Ctx.RUNNING 1
    (List.range p.gang.length).foldl (fun s g => s.modSlice (p.gang.getD g 0) fun x => { x.start c g (p.base + p.entry) 0 with slotAt := s.time, slotCyc := s.slotCycles }) s

/-- COMPUTE_START: stream programs start on their pinned slices. -/
def execComputeStart (s : State) : Result :=
  act (s.live && s.tkg.phase = .beforeCompute && s.past s.sched.cstart) s fun s =>
    let s := { s with tkg := { s.tkg with phase := .compute, offerAt := some s.time } }
    s.streams.foldl (fun s (c, p) => s.startStream c p) s

/-- COMPUTE_END: every stream program that has not ended is cut, and so is a host segment of the compute window, whose slot ends; the gap opens, in
which neither runs and open rows are precharged (R58, R63, R64, R70, R387), and samples not yet shipped are skipped (R366). -/
def execComputeEnd (s : State) : Result :=
  act (s.live && s.tkg.phase = .compute && s.past s.sched.cend) s fun s =>
    let s := (((List.range 4).filter s.overruns).foldl (fun s c => if s.faultedNow c then s.overrun c false else s.cutStream c) s).cutHosts
    let s := (List.range 16).foldl State.dropStaging s
    { s with tkg := { s.tkg with phase := .gap }, buSt := (s.buSt.map fun e => (e.1, { e.2 with row := none })).filter fun e => e.2 ≠ {} }

/-- GAP_END: the host window opens on all slices, and its slot is offered; a compute-window segment still running has met its slot end, and refresh
points that ended in the gap are past (R57, R59, R66, R67, R70). -/
def execGapEnd (s : State) : Result :=
  act (s.live && s.tkg.phase = .gap && s.past s.tkg.gapEndAt) s fun s =>
    let s := s.cutHosts
    let past := (s.sched.points.filter fun t => decide (t + pointLen ≤ s.tkg.gapEndAt)).length
    { s with tkg := { s.tkg with phase := .host, offerAt := some s.time, pointsDone := max s.tkg.pointsDone past } }

/-- REFRESH_POINT: in long mode the next refresh point of the host window begins; no segment runs in it (R57, R58). -/
def execRefreshPoint (s : State) : Result :=
  actSome ((s.sched.points.drop s.tkg.pointsDone).head?) s fun t s =>
    if !s.live || s.tkg.phase ≠ .host || !s.past t then s
    else
      let s := (List.range 16).foldl State.dropStaging s.cutHosts
      { s with tkg := { s.tkg with pointsDone := s.tkg.pointsDone + 1, refreshEndsAt := s.tkg.edgeAt + t + pointLen } }

/-- HOST_CUT: a host segment still running at its slot end, or faulted in that cycle, is cut (R70, R387). -/
def execHostCut (c : Fin 64) (s : State) : Result :=
  act (s.live && s.cuts c.val && s.slotEnd.isNone) s fun s => s.cutHost c.val

end Sys2Proof.Machine
end

