-- ==== Sys2Proof/Machine/Stacks.lean ====
section
/-! DEFINITION. The stacks: host accesses through the apertures, the fill after training, repairs and refresh (R89, R97 to R101, R105, R109, R112,
R296, R414). -/

namespace Sys2Proof.Machine

/-! ## Host accesses (R89, R97, R296) -/

/-- The hostGranules of an access, contiguous in the bank-local view and each within one frame: (bank-local address, offset, length). -/
def hostGranules (bankView : Bool) (a n : Nat) : List (Nat × Nat × Nat) :=
  if !bankView then pieces false a n
  else
    (List.range ((a + n - 1) / 256 - a / 256 + 1)).map fun i =>
      let lo := max a ((a / 256 + i) * 256)
      (lo, lo - a, min (a + n) ((a / 256 + i + 1) * 256) - lo)

/-- Whether a frame belongs to an object mapped in a context of the port that is LIVE or DEAD (R296). -/
def State.portFrame (s : State) (p pfn : Nat) : Bool :=
  let (o, used) := s.frameEntry pfn
  used && (List.range 64).any fun c =>
    (s.obj o).ctxs.testBit c && (s.ctxState c = stLive || s.ctxState c = stDead) && s.on (ctxP c) Hdr.OWNER_VALID && s.ctxPort c = p

/-- Whether every granule outside the carve-out lies in a frame that the port may reach (R296). -/
def State.barOk (s : State) (p : Nat) (g : List (Nat × Nat × Nat)) : Bool :=
  g.all fun (b, _, _) => inCarve b || s.portFrame p (frameOf (s.zoneBank (zoneOf b)) b)

/-- The HIB's reads of the frame and object tables for an access (R105, R106, R296). -/
def State.noteGranules (s : State) (g : List (Nat × Nat × Nat)) : State :=
  if s.syn = [] then s
  else g.foldl (fun s (b, _, _) =>
    if inCarve b then s
    else
      let pfn := frameOf (s.zoneBank (zoneOf b)) b
      let (o, used) := s.frameEntry pfn
      let s := s.noteRead hibReader false (poolAddr + 4 * pfn) 4
      if used then s.noteRead hibReader false (objAddr o) 32 else s) s

/-- What a host read returns: bytes, and whether the completion is poisoned (R97, R106). A refused read returns 0 in every byte outside the
carve-out, which follows R97 (R296). -/
def State.hostRead (s : State) (p : Nat) (bankView : Bool) (a n : Nat) : State × List Byte × Bool :=
  let g := hostGranules bankView a n
  let s := s.noteGranules g
  if s.barOk p g then
    g.foldl (fun (s, l, bad) (b, _, k) =>
      if inCarve b && p ≠ s.admin then (s, l ++ zeros k, bad)
      else
        let (s, l', bad') := s.readMem { src := p } true b k
        (s, l ++ l', bad || bad'.any id)) (s, [], false)
  else
    let s := s.bump (xlP p) HptXlate.BAR_DENY_CNT
    if p ≠ s.admin then (s, zeros n, false)
    else g.foldl (fun (s, l, bad) (b, _, k) =>
      if inCarve b then
        let (s, l', bad') := s.readMem { src := p } true b k
        (s, l ++ l', bad || bad'.any id)
      else (s, l ++ zeros k, bad)) (s, [], false)

/-- A read of a port has completed: its later writes follow its earlier ones, whichever aperture they take (R113). -/
def State.readDone (s : State) (p : Nat) : State := { s with twoViews := spDrop s.twoViews (p * 2 ^ 30) ((p + 1) * 2 ^ 30) }

/-- One beat of a host write that is applied before the port's writes through the other aperture, which keep the bytes `other` (R113). -/
def State.writeUnder (s : State) (beat off : Nat) (l : List Byte) (other : Nat) (badParity : Bool) : State :=
  let s := if badParity then s.bump ⟨.stkEcc, (beat * 32) >>> 33, 0⟩ StkEcc.WPAR_CNT else s
  let mine := (2 ^ l.length - 1) <<< off
  if other = 2 ^ 32 - 1 ∨ (¬ badParity ∧ mine &&& other = mine) then s
  else
    let (s, r) := s.readBeat mcrRmw (beat * 32)
    let bytes := (List.range 32).map fun i =>
      if mine.testBit i && !other.testBit i then l.getD (i - off) 0 else r.bytes.getD i 0
    s.storeBeat beat bytes (if badParity || r.bad then 0x000F else 0)

/-- One beat of a host write. Where the port's latest writes there came through the other aperture and no read of it has completed since, the order
of the two is not fixed, and a free value says which bytes stand (R107, R113; log 10). -/
def State.hostBeat (s : State) (p : Nat) (bankView : Bool) (beat off : Nat) (l : List Byte) (badParity : Bool) : State :=
  let key := p * 2 ^ 30 + beat
  let (lin, bank) := spGet (0, 0) s.twoViews key
  let own := if bankView then bank else lin
  let other := if bankView then lin else bank
  let mine := (2 ^ l.length - 1) <<< off
  let both := mine &&& other
  let note := fun (s : State) (own other : Nat) =>
    ({ s with twoViews := spPut (0, 0) s.twoViews key (if bankView then (other, own) else (own, other)) } : State)
  if both = 0 then note (s.writeBeat beat off l badParity false) (own ||| mine) other
  else
    let s' : State := { s with anyBits := s.anyBits + 1 }
    if Config.freeBit s.anyBits then note (s'.writeBeat beat off l badParity false) (own ||| mine) (other - both)
    else note (s'.writeUnder beat off l other badParity) (own ||| (mine - both)) other

/-- The beats of a host write to bytes that are contiguous in the bank-local view (R107, R111). -/
def State.hostBytes (s : State) (p : Nat) (bankView : Bool) (b : Nat) (l : List Byte) (badParity : Bool) : State :=
  (List.range ((b + l.length - 1) / 32 - b / 32 + 1)).foldl (fun s i =>
    let lo := max b ((b / 32 + i) * 32)
    let hi := min (b + l.length) ((b / 32 + i) * 32 + 32)
    s.hostBeat p bankView (b / 32 + i) (lo % 32) ((l.drop (lo - b)).take (hi - lo)) badParity) s

/-- What a host write does (R97, R107, R113, R296): a refused write is discarded for its carve-out bytes as every write is. -/
def State.hostWrite (s : State) (p : Nat) (bankView : Bool) (a : Nat) (l : List Byte) (badParity : Bool) : State :=
  let g := hostGranules bankView a l.length
  let s := s.noteGranules g
  let s := if g.any fun (b, _, _) => inCarve b then
      (s.bump carveP GlbCarve.CARVE_WR_CNT).setF carveP GlbCarve.CARVE_WR_PORT p
    else s
  if s.barOk p g then
    g.foldl (fun s (b, off, k) => if inCarve b then s else s.hostBytes p bankView b ((l.drop off).take k) badParity) s
  else s.bump (xlP p) HptXlate.BAR_DENY_CNT

/-- Whether a stack has failed, so that host reads are poisoned and writes discarded (R101). -/
def State.initFailed (s : State) : Bool := (List.range 4).any fun k => s.on (mcrP k) StkMcr.INIT_FAIL

/-- An access as the HIB treats it: at once, or, after a failed fill, without touching memory (R101, R113). -/
def State.access (s : State) (h : HeldAcc) : State :=
  if s.initFailed then (if h.write then s else s.emit (.completion h.port (zeros h.bytes.length) true))
  else if h.write then s.hostWrite h.port (h.ap = .bank) h.addr h.bytes h.badParity
  else
    let (s, l, bad) := s.hostRead h.port (h.ap = .bank) h.addr h.bytes.length
    (s.readDone h.port).emit (.completion h.port l bad)

/-- An access that arrives: it waits for `MEM_INIT_DONE`, unless the fill has failed (R100, R101); a port in teardown reads 0 and writes nothing
(R321). -/
def State.arrive (s : State) (h : HeldAcc) : State :=
  if s.on (linkP h.port) HptLink.TEARDOWN_BUSY then (if h.write then s else s.emit (.completion h.port (zeros h.bytes.length) false))
  else if s.on carveP GlbCarve.MEM_INIT_DONE || s.initFailed then s.access h
  else { s with held := s.held ++ [h] }

/-- Upsets strike stored beats: `unit` is the beat's index in the bank-local view (R103). -/
def State.strikeAll (s : State) (u : List Flip) : State :=
  u.foldl (fun s f => if f.unit < 2 ^ 30 ∧ f.bit < 272 then s.strike f.unit f.bit else s) s

/-- HOST_MEMORY_READ (R97, R100, R101, R106, R112, R296). -/
def execHostMemoryRead (p : Fin 4) (ap : Aperture) (addr len : Nat) (upsets : List Flip) (s : State) : Result :=
  if apertureSize < addr + len then .fault .outsideAperture
  else act (s.reaches (.port p)) s fun s =>
    (s.strikeAll upsets).arrive { port := p.val, ap := ap, addr := addr, write := false, bytes := zeros len, badParity := false }

/-- HOST_MEMORY_WRITE (R97, R100, R101, R107, R112, R296). -/
def execHostMemoryWrite (p : Fin 4) (ap : Aperture) (addr : Nat) (bytes : List Byte) (badParity : Bool) (s : State) : Result :=
  if apertureSize < addr + bytes.length then .fault .outsideAperture
  else act (s.reaches (.port p)) s fun s =>
    s.arrive { port := p.val, ap := ap, addr := addr, write := true, bytes := bytes, badParity := badParity }

/-! ## Refresh time (R57, R105, R109) -/

/-- Whether refresh and repairs may run now, and still have `n` ns: in the gap after `T_ENTRY`, in a refresh point, or while no tick runs. -/
def State.refreshRoom (s : State) (n : Nat) : Bool :=
  if !s.ticking then true
  else match s.tkg.phase with
    | .gap => s.past (s.sched.cend + tEntry) && decide (s.time + n ≤ s.tkg.edgeAt + s.tkg.gapEndAt)
    | .host => decide (s.time + n ≤ s.tkg.refreshEndsAt)
    | _ => false

/-- Whether the MCR has a refresh to issue now (R109). -/
def State.refreshDue (s : State) : Bool := decide (0 < s.tkg.debt) && s.refreshRoom tRef

/-- The debt registers follow the debt (`STK_REFRESH`). -/
def State.setDebt (s : State) (d : Nat) : State :=
  let s := { s with tkg := { s.tkg with debt := d } }
  (List.range 4).foldl (fun s k =>
    let s := s.setF (refP k) StkRefresh.DEBT_NOW (satN 4 d)
    s.setF (refP k) StkRefresh.DEBT_PEAK (max (s.f (refP k) StkRefresh.DEBT_PEAK) (satN 4 d))) s

def State.interval (s : State) : Nat := bandInterval (s.f winP TkgWin.BAND)

/-- REFRESH_DEBT_ACCRUE: the debt of every channel rises by one per interval of the band (R55, R109). -/
def execRefreshDebtAccrue (s : State) : Result :=
  act (s.live && s.power.initAt.isSome && decide (s.tkg.accruedAt + s.interval ≤ s.time)) s fun s =>
    let t := s.tkg.accruedAt + s.interval
    ({ s with tkg := { s.tkg with accruedAt := t } }).setDebt (s.tkg.debt + 1)

/-- REFRESH: one all-bank refresh of every channel, which needs every row closed (R54, R58, R109). -/
def execRefresh (s : State) : Result :=
  act (s.live && s.power.initAt.isSome && s.refreshDue && decide (s.tkg.refFree ≤ s.time) &&
      s.tkg.repFree.all fun e => decide (e.2 ≤ s.time)) s fun s =>
    let filling := (List.range 4).any fun k => s.on (mcrP k) StkMcr.INIT_BUSY
    let s : State := { s with power := { s.power with fillRefs := s.power.fillRefs + b2n filling },
                              buSt := (s.buSt.map fun e => (e.1, { e.2 with row := none })).filter fun e => e.2 ≠ {} }
    let s := ({ s with tkg := { s.tkg with refFree := s.time + tRef } }).setDebt (s.tkg.debt - 1)
    (List.range 4).foldl (fun s k => s.bump (refP k) StkRefresh.REF_CNT) s

/-- REPAIR_WRITE: the oldest queued repair of a channel is written, after the refreshes, one at a time, and where 40 ns are left, for which it may
occupy its channel (R105). -/
def execRepairWrite (k : Fin 4) (c : Fin 16) (s : State) : Result :=
  let ch := k.val * 16 + c.val
  actSome (spGet [] s.repairs ch).head? s fun r s =>
    if !s.live || s.refreshDue || s.time < s.tkg.refFree || s.time < spGet 0 s.tkg.repFree ch || !s.refreshRoom 40 then s
    else
      let s := { s with tkg := { s.tkg with repFree := spPut 0 s.tkg.repFree ch (s.time + 40) } }
      let s := { s with repairs := spPut [] s.repairs ch ((spGet [] s.repairs ch).drop 1) }
      (s.storeBeat (r.addr / 32) r.bytes 0).bump (mcrP k.val) StkMcr.REPAIR_CNT

/-! ## The fill (R98 to R101, R414) -/

/-- Once a stack has failed, what is held completes poisoned or is discarded (R101). -/
def State.dropHeld (s : State) : State := s.held.foldl (fun s h => s.access h) { s with held := [] }

/-- MEM_INIT_START: training has ended, and every trained stack fills its banks with zero (R98, R413, R414). -/
def execMemInitStart (untrained : BitVec 4) (s : State) : Result :=
  act (s.live && s.power.locked && decide (2000000 ≤ s.time) && s.power.initAt.isNone) s fun s =>
    let s : State := { s with power := { s.power with initAt := some s.time, fillRefs := 0 }, tkg := { s.tkg with accruedAt := s.time, debt := 0 } }
    let s := (List.range 4).foldl (fun s k => s.setB (mcrP k) (if untrained.getLsbD k then StkMcr.INIT_FAIL else StkMcr.INIT_BUSY) true) s
    if untrained ≠ 0 then s.dropHeld else s

/-- STACK_INIT_DONE: the last fill beat of a stack completes: 2^20 bank-unit cycles of 2 ns, and `T_REF` for each refresh issued during the fill, none
of which is due now (R98). -/
def execStackInitDone (k : Fin 4) (s : State) : Result :=
  actSome s.power.initAt s fun t s =>
    if !s.live || !s.on (mcrP k.val) StkMcr.INIT_BUSY || 0 < s.tkg.debt || s.tkg.accruedAt + s.interval ≤ s.time ||
        s.time < t + 2097152 + tRef * s.power.fillRefs then s
    else
      let lo := k.val * 2 ^ 33
      let s : State := { s with mem := memZero s.mem lo (2 ^ 33), syn := spDrop s.syn (lo / 32) ((lo + 2 ^ 33) / 32) }
      (s.setB (mcrP k.val) StkMcr.INIT_DONE true).setB (mcrP k.val) StkMcr.INIT_BUSY false

/-- MEM_INIT_DONE: after the fourth stack held accesses are applied in arrival order, and the TRIG_OUT lines leave high-impedance (R98, R100,
R423). -/
def execMemInitDone (s : State) : Result :=
  act (s.live && !s.on carveP GlbCarve.MEM_INIT_DONE && (List.range 4).all fun k => s.on (mcrP k) StkMcr.INIT_DONE) s fun s =>
    let s := s.setB carveP GlbCarve.MEM_INIT_DONE true
    let s := { s with tkg := { s.tkg with armAt := s.time } }
    s.dropHeld.holdTrig

/-- INIT_FAIL: a stack reports an interface error during its fill (R101). -/
def execInitFail (k : Fin 4) (s : State) : Result :=
  act (s.live && s.on (mcrP k.val) StkMcr.INIT_BUSY) s fun s =>
    ((s.setB (mcrP k.val) StkMcr.INIT_FAIL true).setB (mcrP k.val) StkMcr.INIT_BUSY false).dropHeld

end Sys2Proof.Machine
end

