-- ==== Sys2Proof/Machine/Fabric.lean ====
section
/-! DEFINITION. The fabric: loading an image, its port checks and manifests, and the user I/O cells (R78 to R88, R142, R154 to R156, R304, R399). -/

namespace Sys2Proof.Machine

/-! ## Block memory (R74, R75) -/

/-- What one port of a block memory does in a cycle: the word it addresses, and what it writes there, if it writes. -/
structure BlockPort where
  addr : Nat
  write : Option (BitVec 72) := none
  deriving DecidableEq, Repr

/-- A cycle of a block memory whose words are `m`: the words after it, and what ports A and B read. A read returns the old data, whichever port writes
in the same cycle; where both ports write one word, port A's data is stored (R75). A block that the image does not initialise holds zeros (R74).
The tile buffers of a slice, which are such blocks, see one write of a word at a time, since R240 orders them. -/
def blockCycle (m : Sp (BitVec 72)) (a b : BlockPort) : Sp (BitVec 72) × BitVec 72 × BitVec 72 :=
  let put := fun (m : Sp (BitVec 72)) (p : BlockPort) => match p.write with
    | some v => spPut 0 m p.addr v
    | none => m
  (put (put m b) a, spGet 0 m a.addr, spGet 0 m b.addr)

/-! ## The FABRIC domain (R39, R82, R434) -/

/-- The pages of the FABRIC domain in one slice region (R41). -/
def fabricPages (n : Nat) : List Page := [seqP n, perfP n, ⟨.slcTb, n, 0⟩, portP n, extP n]

/-- The "fabric load" fields of `DEV_CAP` (R44). -/
def fabricFields : List Fld :=
  [DevCap.ENGINE_SLICE_MASK, DevCap.KPHYS_MIN, DevCap.NPHYS_MIN, DevCap.UNIFORM, DevCap.ENGINE_LAYOUT, DevCap.ENGINE_MAX_MHZ, DevCap.ARRAY_FMT,
   DevCap.VEC_FMT, DevCap.EXT_MASK]

/-- `EXT_RST` of a region: high from a FABRIC reset until the port check of the region passes (R145). -/
def State.extRst (s : State) (n : Nat) : Bool := !s.fab.passMask.testBit n

/-- The fabric is blank: no slice, no resident routine, no configuration (R74, R78, R82). What Anise keeps for a slice, its selection register and
its test interval, stays, and an unshipped sample is skipped (R365, R366, R373). -/
def State.blankFabric (s : State) : State :=
  let s := (fabricFields.foldl (fun s f => s.setF devP f 0) s).setF glbP GlbCtrl.FAB_SIG 0
  let s := (List.range 16).foldl (fun s n => s.dropStaging n) s
  let kept := s.slices.map fun e => (e.1, ({ sel := e.2.sel, testAt := e.2.testAt, testing := e.2.testing } : Slice))
  { s with slices := kept.filter fun e => e.2 ≠ {}, plv := { s.plv with routines := [] }, fab := { s.fab with cfg := [], cfgSyn := [] } }

/-- A FABRIC reset, whose pages are busy for 2 µs (R82, R434). -/
def State.fabricReset (s : State) : State :=
  let pages := (List.range 16).flatMap fabricPages
  let s := pages.foldl (fun s pg => (s.resetPage pg).setBusy pg (s.time + 2000)) s.blankFabric
  (List.range 16).foldl (fun s n => s.emit (.extRst n true)) { s with fab := { s.fab with passMask := 0 } }

/-- Every user I/O cell is high-impedance (R87). -/
def State.floatIo (s : State) : State := { s with pins := { s.pins with io := List.replicate 8 .hiz } }

/-- Clove's two engines rest (R82, R83). -/
def State.stopClove (s : State) : State := (s.setB cloveP Clove.RUNNING false) |> fun s => { s with clove := { s.clove with stopped := true } }

/-- FABRIC_LOAD: the load begins with a FABRIC reset, or is refused (R81, R82). -/
def execFabricLoad (cmd : Nat) (s : State) : Result :=
  onCmd cmd 0x10 s fun c s =>
    let programs := (List.range 64).any fun i => (s.cx i).program.isSome
    let streams := (List.range 4).any fun g => s.attached g || (s.grp g).attachCmd ≠ []
    if s.on glbP GlbCtrl.LOADING || programs || streams then s.finishCmd c.id stFabricBusy
    else
      let o := ((s.walk c.ctx (c.fld 0x18 8)).map (·.obj)).toList
      if !s.refsFit o then s
      else
        let s := (s.takeRefs o).putCmd { c with st := .started, refs := c.refs ++ o }
        let s := ((s.setB glbP GlbCtrl.LOADING true).setB glbP GlbCtrl.LOADED false).setF glbP GlbCtrl.IO_BANK_OFF 0
        let s : State := { s with fab := { cmd := some c.id, startAt := s.time, imageVa := c.fld 0x18 8, ctx := c.ctx } }
        s.fabricReset.floatIo.stopClove

/-- A load fails at a check (R83). -/
def State.failLoad (s : State) (cause : Nat) : State :=
  let s := s.blankFabric
  let s := ((s.setB glbP GlbCtrl.LOAD_FAILED true).setF glbP GlbCtrl.LOAD_CAUSE cause).setB glbP GlbCtrl.LOADING false
  let s := match s.fab.cmd with | some id => s.reject id cause | none => s
  { s with fab := {} }

/-! ## The image (R80, R82, R83) -/

def State.hdr (s : State) (off n : Nat) : Nat := leAt s.fab.header off n

/-- The length of the image in bytes, as its header declares. -/
def State.imageLen (s : State) : Nat := s.hdr 0x18 8

/-- The first check of the header that fails: 0 where it passes (R80, R83). DESIGN CHOICE: a field at 0x0E other than 0 and a frame count of 0, which
R80 rules out and R83 lists under no cause, are HEADER_BAD (log 36). -/
def State.headerCheck (s : State) (bad : Bool) (len : Nat) : Nat :=
  let h := fun off n => s.hdr off n
  let mask := h 0x0C 2
  if h 0 4 ≠ 0x4C524C44 ∨ h 4 2 ≠ 1 ∨ h 6 2 ≠ 0x40 ∨ h 8 4 ≠ 0x10240001 ∨ h 0x0E 2 ≠ 0 ∨ h 0x10 4 = 0 ∨ h 0x14 4 ≠ 4100 ∨
      h 0x18 8 ≠ 64 + h 0x10 4 * 4100 ∨ h 0x18 8 ≠ len then 1
  else if mask &&& s.fuses.sliceMask ≠ mask then 2
  else if bad then 5
  else 0

/-- Read part of the staged image: its bytes, and whether a beat of it was uncorrectable. -/
def State.readImage (s : State) (off n : Nat) : State × List Byte × Bool :=
  match s.readVa { plvReader with ctx := s.fab.ctx } s.fab.ctx (s.fab.imageVa + off) n with
  | (s, .ok (l, bad)) => (s, l, bad.any id)
  | (s, .error _) => (s, [], false)

/-- FABRIC_RESET_COMPLETE: the fabric is blank, and the header is read and checked (R82). -/
def execFabricResetComplete (s : State) : Result :=
  actSome s.fab.cmd s fun id s =>
    if !s.live || s.fab.header ≠ [] || s.time < s.fab.startAt + 2000 then s
    else
      let s := ((List.range 16).flatMap fabricPages).foldl (fun s pg => { s with busy := spPut 0 s.busy pg.base 0 }) s
      let (s, l, bad) := s.readImage 0 64
      let s : State := { s with fab := { s.fab with header := bytesAt l 0 64 } }
      let cause := s.headerCheck bad (((s.findCmd id).map (·.len)).getD s.imageLen)
      if cause ≠ 0 then s.failLoad cause
      else { s with fab := { s.fab with mask := s.hdr 0x0C 2, frames := s.hdr 0x10 4, regionsLeft := bitsOf (s.hdr 0x0C 2) 16 } }

/-- The time F at which every frame has been read (R82). -/
def State.framesDone (s : State) : Nat := s.fab.startAt + 2000 + s.imageLen / 4

/-- The check bits that each 32-byte unit of a frame is written with (R399): those that decode clean, so that no syndrome is stored. -/
def State.putFrame (s : State) (i : Nat) (l : List Byte) : State :=
  { s with fab := { s.fab with cfg := spRun 0 s.fab.cfg (4096 * i) l, crc := BitVec.ofNat 64 (maceFrom s.fab.crc.toNat l), nextFrame := i + 1 } }

/-- IMAGE_FRAME: one frame is read, checked and written; after the last one the signature is compared (R76, R82, R83). `illegal`: the frame names a
program-store block as writable logic, or configuration memory that does not exist. -/
def execImageFrame (illegal : Bool) (s : State) : Result :=
  act (s.live && s.fab.cmd.isSome && decide (s.fab.nextFrame < s.fab.frames) &&
      decide (s.fab.startAt + 2000 + (64 + (s.fab.nextFrame + 1) * 4100) / 4 ≤ s.time)) s fun s =>
    let i := s.fab.nextFrame
    let (s, l, bad) := s.readImage (64 + i * 4100) 4100
    let data := bytesAt l 0 4096
    if illegal then s.failLoad 3
    else if crc32c data ≠ leAt l 4096 4 ∨ l.length ≠ 4100 then s.failLoad 4
    else if bad then s.failLoad 5
    else
      let s := s.putFrame i data
      if s.fab.nextFrame < s.fab.frames then s
      else if s.fab.crc.toNat ≠ s.hdr 0x20 8 then s.failLoad 6
      else if s.fab.regionsLeft = [] then s.failLoad 7
      else { s with fab := { s.fab with checkAt := s.framesDone + 20000 } }

/-! ## Port checks (R85, R142) and manifests (R154 to R156) -/

/-- The step of R85 that a port check fails: 0 where it passes. -/
def portFail (a : PortAnswer) (version : Nat) : Nat :=
  let id := a.ident.toNat
  if fld id 1 0 = 3 ∨ fld id 11 4 ≠ 1 ∨ fld id 31 28 ≠ 0 then 1
  else if fld id 11 4 ≠ version then 2
  else if fld id 27 12 < 450 then 3
  else if !a.memLoop then 4
  else if !a.resLoop then 5
  else if !a.echo then 6
  else 0

/-- Whether an opcode's descriptor is in range (R155). -/
def manDescOk (d : Nat) : Bool :=
  fld d 11 0 ≠ 0 && fld d 14 12 ≤ 4 && fld d 17 15 ≤ 4 && fld d 20 18 ≤ 4 && fld d 23 21 ≤ 5 && fld d 29 24 ≠ 0 && fld d 31 30 = 0

/-- The code of the first manifest check that fails: 0 where it is admitted (R156). -/
def manCode (hasUnit : Bool) (m : List W32) (par : List (BitVec 4)) : Nat :=
  let w := fun i => (m.getD i 0).toNat
  let desc := fun i => if (w 1).testBit i then manDescOk (w (4 + i)) else decide (w (4 + i) = 0)
  if !hasUnit then 0x30
  else if (List.range 64).any fun i => par.getD i 0 ≠ bytePar (m.getD i 0) then 0x31
  else if crc32c ((List.range 62).flatMap fun i => leBytes 4 (w i)) ≠ w 62 then 0x32
  else if fld (w 0) 15 0 ≠ 0x4D58 ∨ fld (w 0) 23 16 ≠ 1 ∨ fld (w 1) 31 16 ≠ 0 ∨ fld (w 2) 31 1 ≠ 0 ∨
      ((List.range 42).any fun i => decide (w (20 + i) ≠ 0)) ∨ w 63 ≠ 0 then 0x33
  else if fld (w 0) 31 24 ≠ popcount (w 1) 16 then 0x34
  else if (List.range 16).all desc then 0
  else 0x35

/-- The PLV checks the manifest of a passed slice (R156). -/
def State.admitManifest (s : State) (n : Nat) (m : List W32) (par : List (BitVec 4)) : State :=
  let code := manCode (bitOf (s.portId n) 3) m par
  let s := s.setF plvP Plv.LAST_CODE code
  if code ≠ 0 then s
  else
    let s := (List.range 64).foldl (fun s i => s.setF (extP n) (SlcExt.MAN.at i) (m.getD i 0).toNat) s
    s.setF devP DevCap.EXT_MASK (s.f devP DevCap.EXT_MASK ||| 2 ^ n)

/-- Slices whose port check has passed in this load. -/
def State.passed (s : State) : List Nat := bitsOf s.fab.passMask 16

def minOf (l : List Nat) : Nat := l.foldl min (l.headD 0)

/-- `DEV_CAP` takes what the passed slices report (R44, R45, R85, R142; 07: the format masks). -/
def State.putEngine (s : State) : State :=
  let ids := s.passed.map s.portId
  let put := fun (s : State) (l : List (Fld × Nat)) => l.foldl (fun s (f, v) => s.setF devP f v) s
  put s [(DevCap.ENGINE_SLICE_MASK, maskOf s.passed), (DevCap.KPHYS_MIN, minOf (ids.map fun i => fld i 1 0)),
    (DevCap.NPHYS_MIN, minOf (ids.map fun i => fld i 2 2)), (DevCap.UNIFORM, b2n (decide ((ids.map fun i => fld i 2 0).eraseDups.length ≤ 1))),
    (DevCap.ENGINE_LAYOUT, s.hdr 0x2C 1), (DevCap.ENGINE_MAX_MHZ, minOf (ids.map fun i => min 700 (fld i 27 12))), (DevCap.ARRAY_FMT, 0x1F),
    (DevCap.VEC_FMT, 0x3F)]

/-- Both engines of Clove take the golden copies (R82, R398). -/
def State.giveGolden (s : State) : State :=
  let sig := s.f glbP GlbCtrl.FAB_SIG
  { s with clove := { s.clove with goldA := BitVec.ofNat 64 sig, goldB := BitVec.ofNat 64 sig, framesA := s.fab.frames, framesB := s.fab.frames,
                                   maskA := s.fab.mask, maskB := s.fab.mask } }

/-- Time C of R82: the load has succeeded. -/
def State.loadDone (s : State) : State :=
  let s := s.putEngine
  let s := s.fab.manifests.foldl (fun s (n, m, ok) => s.admitManifest n m ok) s
  let s := ((s.setB glbP GlbCtrl.LOADED true).setB glbP GlbCtrl.LOADING false).bump glbP GlbCtrl.FAB_LOADS
  let s := (s.setF glbP GlbCtrl.FAB_SIG s.fab.crc.toNat).giveGolden
  let s : State := { s with clove := { s.clove with stopped := false, nextB := false, loadSeen := true } }
  let s := match s.fab.cmd with | some id => s.finishCmd id stDone | none => s
  let s := s.passed.foldl (fun s n => s.modSlice n fun x => { x with testAt := s.time }) s
  ({ s with fab := { s.fab with cmd := none, manifests := [], doneAt := some s.time } }).boundClock.checkTarget

/-- PORT_CHECK: the check of the next region of the image; after the last one the load is complete, or no slice has passed (R82, R83, R85). -/
def execPortCheck (a : PortAnswer) (s : State) : Result :=
  act (s.live && s.fab.cmd.isSome && s.fab.header ≠ [] && s.fab.nextFrame = s.fab.frames && decide (s.fab.checkAt ≤ s.time)) s fun s =>
    match s.fab.regionsLeft with
    | [] => s
    | n :: rest =>
      let cause := portFail a (s.hdr 0x2C 1)
      let s := (((s.setB (portP n) SlcPort.CHECKED true).setB (portP n) SlcPort.PASSED (cause = 0)).setF (portP n) SlcPort.PORT_CAUSE cause).setF
        (portP n) SlcPort.PORT_ID a.ident.toNat
      let man := if cause = 0 then [(n, a.manifest, a.manPar)] else []
      let mask := if cause = 0 then s.fab.passMask ||| 2 ^ n else s.fab.passMask
      let fab := { s.fab with regionsLeft := rest, ids := spPut 0 s.fab.ids n a.ident.toNat, passMask := mask,
                              checkAt := s.fab.checkAt + 20000, manifests := s.fab.manifests ++ man }
      let s : State := { s with fab := fab }
      let s := if cause = 0 then s.emit (.extRst n false) else s
      let s := if cause = 0 && bitOf a.ident.toNat 3 then (List.range 64).foldl (fun s i => s.emit (.extMan n i)) s else s
      if rest ≠ [] then s
      else if s.passed = [] then s.failLoad 7
      else s.loadDone

/-! ## User I/O cells (R86, R87, R406) -/

/-- The declared voltage of a code in mV; 0: unused (R80). -/
def vccioMv (code : Nat) : Nat := [0, 1200, 1500, 1800, 2500, 3300].getD code 0

/-- The measured supply of a bank (R430). -/
def State.vccio (s : State) (b : Nat) : Nat :=
  if b % 2 = 0 then s.f senseP (MgtSense.V_IO_E.at (b / 2)) else s.f senseP (MgtSense.V_IO_O.at (b / 2))

/-- What an option word makes of a cell of a bank with a declared voltage code: `DRIVE`, `SLEW` and `OPEN_DRAIN` count only where the cell drives,
and at 1.2 V a drive above 8 mA acts as 8 mA (R86). -/
def ioCell (vccio : Nat) (o : Byte) : IoCell :=
  let o := o.toNat
  let out := o.testBit 1
  let drive := if vccio = 1 then min 1 (fld o 6 5) else fld o 6 5
  { input := o.testBit 0, output := out, bias := [Bias.none, .keeper, .pullUp, .pullDown].getD (fld o 3 2) .none,
    fast := out && o.testBit 4, mA := if out then 4 * (drive + 1) else 0, openDrain := out && o.testBit 7 }

/-- The level that a cell gives its pin when the fabric drives `v` into it, the outside world and a keeper aside (R86). -/
def IoCell.level (c : IoCell) (v : Bool) : Level :=
  if c.output && !(c.openDrain && v) then (if v then .high else .low)
  else match c.bias with
    | .pullUp => .high
    | .pullDown => .low
    | _ => .z

/-- IO_BANK_CHECK: 1 µs after the load the MGT releases each bank whose supply is within 5 % of its declaration (R82, R86, R87, R406). `options` are
the option words that the image gives. -/
def execIoBankCheck (options : List (List Byte)) (s : State) : Result :=
  actSome s.fab.doneAt s fun t s =>
    if !s.live || s.time < t + 1000 then s
    else
      let s := (List.range 8).foldl (fun s b =>
        let v := vccioMv (fld (s.hdr 0x28 4) (4 * b + 3) (4 * b))
        let ok := decide (v * 95 ≤ s.vccio b * 100) && decide (s.vccio b * 100 ≤ v * 105)
        if v = 0 then s
        else if ok then { s with pins := { s.pins with io := mapAt s.pins.io b fun _ => .configured ((options.getD b []).map (ioCell (fld (s.hdr 0x28 4) (4 * b + 3) (4 * b)))) } }
        else s.setF glbP GlbCtrl.IO_BANK_OFF (s.f glbP GlbCtrl.IO_BANK_OFF ||| 2 ^ b)) s
      { s with fab := { s.fab with doneAt := none } }

end Sys2Proof.Machine
end

