-- ==== Sys2Proof/Machine/Scrub.lean ====
section
/-! DEFINITION. Clove: scrub passes, corrections, failed engines and the unverified state (R398 to R403). -/

namespace Sys2Proof.Machine

/-- `UNVERIFIED` is set; only a load and a pair reset after this count towards clearing it (R403). -/
def State.unverify (s : State) : State :=
  if s.on cloveP Clove.UNVERIFIED then s
  else { s.setB cloveP Clove.UNVERIFIED true with clove := { s.clove with loadSeen := false, resetSeen := false } }

/-- `SCRUB_FAULT` is raised (R402). -/
def State.scrubFault (s : State) (disagree : Bool) : State :=
  if s.on cloveP Clove.SCRUB_FAULT then s
  else
    let s := (s.setB cloveP Clove.SCRUB_FAULT true).unverify.irq cloveP 4
    s.record { cls := 0x16, utype := 6, uidx := 0, syn := s.f cloveP Clove.CAUSE_A ||| (s.f cloveP Clove.CAUSE_B <<< 4), detail := b2n disagree }

def State.engineFailed (s : State) (b : Bool) : Bool := s.on cloveP (if b then Clove.B_FAILED else Clove.A_FAILED)

/-- An engine fails: its pass is abandoned, and the pair is degraded or at fault (R401, R402). -/
def State.failEngine (s : State) (b : Bool) (cause : Nat) : State :=
  if s.engineFailed b then s
  else
    let s := (s.setB cloveP (if b then Clove.B_FAILED else Clove.A_FAILED) true).setF cloveP (if b then Clove.CAUSE_B else Clove.CAUSE_A) cause
    let s := if s.on cloveP Clove.RUNNING && s.on cloveP Clove.ACTIVE = b then s.setB cloveP Clove.RUNNING false else s
    if s.engineFailed (!b) then s.scrubFault false
    else
      ((s.setB cloveP Clove.SCRUB_DEGRADED true).irq cloveP 2).record { cls := 0x15, utype := 6, uidx := 0, syn := b2n b, detail := cause }

/-- A `CFG_UE`: an uncorrectable unit, or a signature that differs at the end of a pass (R400). -/
def State.cfgUe (s : State) (frame detail : Nat) : State :=
  (s.unverify.irq cloveP 4).record { cls := 0x17, utype := 6, uidx := 0, syn := frame, detail := detail }

/-- SCRUB_PASS: the engine whose turn it is begins a pass with its self-check (R399, R401, R402). -/
def execScrubPass (selfCheck : Bool) (s : State) : Result :=
  act (s.live && !s.clove.stopped && !s.on cloveP Clove.RUNNING && !(s.engineFailed false && s.engineFailed true)) s fun s =>
    let b := if s.engineFailed s.clove.nextB then !s.clove.nextB else s.clove.nextB
    if !selfCheck then s.failEngine b 1
    else
      let s := (s.setB cloveP Clove.RUNNING true).setB cloveP Clove.ACTIVE b
      { s with clove := { s.clove with nextB := !b, nextFrame := 0, crc := 0, passAt := s.time, passUe := false,
                                       passQual := s.clove.loadSeen && s.clove.resetSeen } }

/-- One 32-byte unit of a configuration frame is decoded and, where it is allowed, corrected (R399, R400). Answers its corrected bytes. -/
def State.scrubUnit (s : State) (i u : Nat) : State × List Byte :=
  let k := i * 128 + u
  let bytes := spVals 0 s.fab.cfg (32 * k) 32
  let d := decodeSyn (spGet 0 s.fab.cfgSyn k)
  if d.cls = 0 then (s, bytes)
  else if d.cls = 3 then
    let s : State := { s with clove := { s.clove with passUe := true } }
    ((s.bump cloveP Clove.UNCORRECTABLE).cfgUe i u, bytes)
  else
    let fixed := match d.fix with
      | some n => flipBit bytes n
      | none => bytes
    if s.on cloveP Clove.SCRUB_FAULT then (s, fixed)
    else
      let s : State := { s with fab := { s.fab with cfg := spRun 0 s.fab.cfg (32 * k) fixed, cfgSyn := spPut 0 s.fab.cfgSyn k 0 } }
      ((s.bump cloveP Clove.CORRECTED).record
        { cls := 0x14, utype := 6, uidx := 0, syn := i, detail := u ||| (b2n (s.on cloveP Clove.ACTIVE) <<< 8) }, fixed)

/-- An upset strikes a stored configuration bit. -/
def State.strikeCfg (s : State) (k bit : Nat) : State :=
  let syn := spGet 0 s.fab.cfgSyn k
  if bit < 256 then
    let a := k * 32 + bit / 8
    { s with fab := { s.fab with cfg := spPut 0 s.fab.cfg a (spGet 0 s.fab.cfg a ^^^ BitVec.ofNat 8 (2 ^ (bit % 8))),
                                 cfgSyn := spPut 0 s.fab.cfgSyn k (syn ^^^ bitSyndrome bit) } }
  else { s with fab := { s.fab with cfgSyn := spPut 0 s.fab.cfgSyn k (syn ^^^ BitVec.ofNat 16 (2 ^ (bit - 256))) } }

/-- The end of a pass of engine `b`: signature, cross-check, golden copies (R400 to R403). -/
def State.endPass (s : State) (b : Bool) : State :=
  let cl := s.clove
  let s := ((s.setB cloveP Clove.RUNNING false).bump cloveP Clove.CLV_PASSES).setF cloveP Clove.PASS_US (satN 16 ((s.time - cl.passAt) / 1000))
  let good := cl.crc = (if b then cl.goldB else cl.goldA)
  let s := if good then s
    else { s with anyBits := s.anyBits + 1 }.cfgUe (Config.freeCount s.anyBits).toNat 0x100
  let s := if cl.passQual && !cl.passUe && good then s.setB cloveP Clove.UNVERIFIED false else s
  let other := if b then (cl.framesA, cl.maskA) else (cl.framesB, cl.maskB)
  let s := if other = (s.fab.frames, s.fab.mask) then s else s.failEngine (!b) 4
  if cl.goldA = cl.goldB then s else s.scrubFault true

/-- SCRUB_FRAME: the next frame of the pass is read, 0.44 µs after the one before; the last ends the pass (R399 to R402). `upsets` strike the units
of the frame first. -/
def execScrubFrame (upsets : List Flip) (s : State) : Result :=
  act (s.live && s.on cloveP Clove.RUNNING && decide (s.clove.passAt + 440 * (s.clove.nextFrame + 1) ≤ s.time)) s fun s =>
    let i := s.clove.nextFrame
    let s := upsets.foldl (fun s f => if f.unit < 128 ∧ f.bit < 272 then s.strikeCfg (i * 128 + f.unit) f.bit else s) s
    let (s, data) := (List.range 128).foldl (fun (s, l) u =>
      let (s, b) := s.scrubUnit i u
      (s, l ++ b)) (s, [])
    let s : State := { s with clove := { s.clove with nextFrame := i + 1, crc := BitVec.ofNat 64 (maceFrom s.clove.crc.toNat data) } }
    if i + 1 < s.fab.frames then s else s.endPass (s.on cloveP Clove.ACTIVE)

/-- HEARTBEAT_TIMEOUT: an engine has sent no heartbeat for 16 µs (R401). -/
def execHeartbeatTimeout (engineB : Bool) (s : State) : Result := act (s.live && !s.clove.stopped) s fun s => s.failEngine engineB 3

/-- TRIPLE_LATCH_UPSET: an upset in an engine's latches is outvoted, or leaves an illegal state (R401). -/
def execTripleLatchUpset (engineB illegal : Bool) (s : State) : Result :=
  act s.live s fun s => if illegal then s.failEngine engineB 2 else s.bump cloveP Clove.CLV_TMR

/-- A write of 1 to `PAIR_RESET` (R403). -/
def State.pairReset (s : State) : State :=
  let s := [Clove.A_FAILED, Clove.B_FAILED, Clove.SCRUB_DEGRADED, Clove.SCRUB_FAULT].foldl (fun s f => s.setB cloveP f false) s
  let s := ((s.setF cloveP Clove.CAUSE_A 0).setF cloveP Clove.CAUSE_B 0).giveGolden
  { s with clove := { s.clove with resetSeen := true } }

end Sys2Proof.Machine
end

