-- ==== Sys2Proof/Machine/Reliability.lean ====
section
/-! DEFINITION. Anise, unit health, built-in tests and the pattern store (R364 to R373, R381 to R383). -/

namespace Sys2Proof.Machine

/-! ## Free slices (R369) -/

/-- Whether a slice is free for a replay, with at least 249 ns left of the free period (R369). -/
def State.sliceFree (s : State) (n : Nat) : Bool :=
  let x := s.slice n
  let left := fun (e : Nat) => decide (s.time + 249 ≤ e)
  s.clocked && s.loaded n && !x.run && x.dumps = [] &&
  match s.tkg.phase with
  | .gap => left (s.tkg.edgeAt + s.tkg.gapEndAt)
  | .compute => !s.pinned n && decide (x.slotAt < s.slotStart) && left (s.tkg.edgeAt + s.sched.cend)
  | .host =>
    if s.time < s.tkg.refreshEndsAt then left s.tkg.refreshEndsAt
    else decide (x.slotAt < s.slotStart) && s.slotEnd.any fun e => left (s.tkg.edgeAt + e)
  | _ => false

/-! ## Which slice replays what (R368 to R371) -/

/-- Whether a slice may replay a record: the first time any eligible slice but the origin, the third time none of the pair. -/
def State.eligible (s : State) (r : AniRec) (n : Nat) : Bool :=
  let o := r.tile.origin
  n ≠ o && s.loaded n && s.f (slhP n) SlcHealth.HSTATE ≠ hlQuar && s.shape n = s.shape o &&
  (!r.tile.ext || (List.range 63).all fun i => s.f (extP n) (SlcExt.MAN.at i) = s.f (extP o) (SlcExt.MAN.at i)) &&
  !(r.first.any fun f => f.1 = n)

/-- The slice on which Anise replays a record now: the first that has slack, ascending from the origin + 1 (R368). -/
def State.replayOn (s : State) (r : AniRec) : Option Nat :=
  ((List.range 16).map fun i => (r.tile.origin + 1 + i) % 16).find? fun n => s.eligible r n && s.sliceFree n

/-- Records in the order in which Anise serves them: third replays first, then in capture order (R369). -/
def State.replayOrder (s : State) : List AniRec :=
  s.rel.recs.filter (·.first.isSome) ++ s.rel.recs.filter (·.first.isNone)

/-- The record, if any, that Anise would replay on a slice now. -/
def State.wanted (s : State) (n : Nat) : Option AniRec := s.replayOrder.find? fun r => s.replayOn r = some n

def State.dropRec (s : State) (id : Nat) : State := { s with rel := { s.rel with recs := s.rel.recs.filter fun r => r.id ≠ id } }

/-! ## Samples (R366, R368, R369) -/

/-- SAMPLE_SHIP: a staged sample reaches Anise's store over the result path, or is skipped (R366). A parity failure
of the result path, found at the ring, is counted and recorded (R77, R360 point 0x3), and the sample is skipped (log 47). -/
def execSampleShip (n : Fin 16) (done : Shipment) (s : State) : Result :=
  actSome (s.slice n.val).staging s fun t s =>
    if !s.clocked then s
    else if done = .badParity then (s.parityAt n.val 3).dropStaging n.val
    else if decide (done = .arrived) && decide (s.rel.recs.length < 4) then
      let s := s.modSlice n.val fun x => { x with staging := none }
      let r : AniRec := { id := s.rel.nextId, tile := t, at_ := s.time }
      { s with rel := { s.rel with recs := s.rel.recs ++ [r], nextId := s.rel.nextId + 1 } }.bump aniP Anise.SAMPLED
    else s.dropStaging n.val

/-- The latest disagreement is settled (`ANI_LAST`). -/
def State.settleLast (s : State) (r : AniRec) (replay third outcome : Nat) : State :=
  if s.f aniP Anise.LAST_ORIGIN = r.tile.origin ∧ s.f aniP Anise.LAST_REPLAY = replay then
    (s.setF aniP Anise.LAST_THIRD third).setF aniP Anise.LAST_OUTCOME outcome
  else s

/-- The pair stays unresolved (R371). -/
def State.unresolved (s : State) (r : AniRec) (replay third : Nat) : State :=
  let o := r.tile.origin
  let s := s.record { cls := 9, utype := 1, uidx := o, ctx := r.tile.ctx, syn := r.tile.ttype, detail := (o <<< 4) ||| replay }
  (((s.healthError o false).healthError replay false).settleLast r replay third 3).dropRec r.id

/-- SAMPLE_EXPIRE: a record not replayed within 1,000 ms is discarded; without a third replay in that time a pair stays unresolved (R369, R371). -/
def execSampleExpire (i : Nat) (s : State) : Result :=
  actSome (s.rel.recs.find? fun r => r.id = i) s fun r s =>
    if !s.live || s.time < r.at_ + 1000000000 then s
    else match r.first with
      | some (replay, _) => s.unresolved r replay 0
      | none => (s.dropRec i).bump aniP Anise.SKIPPED

/-! ## Comparison (R370, R371) -/

/-- A replay that differs from the capture (R370). -/
def State.disagree (s : State) (r : AniRec) (n : Nat) (result : List Byte) : State :=
  let o := r.tile.origin
  let (s, seq) := s.recordNum { cls := 7, utype := 1, uidx := o, ctx := r.tile.ctx, syn := r.tile.ttype, detail := n }
  let s := ((s.healthError o false).healthError n false).bump aniP Anise.DISAGREE
  let put := fun (s : State) (l : List (Fld × Nat)) => l.foldl (fun s (f, v) => s.setF aniP f v) s
  let s := put s [(Anise.LAST_ORIGIN, o), (Anise.LAST_REPLAY, n), (Anise.LAST_THIRD, 0), (Anise.LAST_OUTCOME, 0), (Anise.LAST_TTYPE, r.tile.ttype)]
  let s := s.irq aniP 2
  let s := (List.range 4).foldl (fun s g =>
    if s.attached g && (s.gang g).any (fun k => k = o || k = n) then s.modGrp g fun x => { x with recheck := true } else s) s
  let s := if s.ctxState r.tile.ctx = stFree then s
    else s.post r.tile.ctx { type := 4, status := stFaulted, result := 7, detail := seq % 65536 }
  { s with rel := { s.rel with recs := s.rel.recs.map fun q => if q.id = r.id then { q with first := some (n, result), at_ := s.time } else q } }

/-- The third result settles a disagreement (R371). -/
def State.third (s : State) (r : AniRec) (replay : Nat) (old : List Byte) (n : Nat) (result : List Byte) : State :=
  let o := r.tile.origin
  let odd := fun (k outcome : Nat) =>
    let s := (s.healthError k true).record { cls := 8, utype := 1, uidx := k, ctx := r.tile.ctx, syn := r.tile.ttype, detail := (o <<< 4) ||| replay }
    (s.settleLast r replay n outcome).dropRec r.id
  if result = r.tile.result then odd replay 2
  else if result = old then odd o 1
  else s.unresolved r replay n

/-! ## The records of a package (R367, R381) -/

/-- The length of the item record at the front of a byte string; `none` where it is malformed (R367). -/
def itemLen (l : List Byte) : Option Nat :=
  let b := fun i => leAt l i 1
  match b 0 with
  | 1 =>
    let kph := kphysOf (b 2 % 4)
    let n := 16 + 8 * kph + b 4 * kph + b 4 * 64
    if 4 < b 1 ∨ b 2 % 4 = 3 ∨ 8 ≤ b 2 ∨ b 3 = 0 ∨ 8 < b 3 ∨ b 4 = 0 ∨ 8 < b 4 ∨ leAt l 5 3 ≠ 0 ∨ l.length < n then none else some n
  | 2 => if b 1 = 0 ∨ 15 < b 1 ∨ leAt l 0x14 12 ≠ 0 ∨ l.length < 0x720 then none else some 0x720
  | _ => none

/-- The items of a package; `none` where one is malformed or they do not fill their space. -/
def itemsOf : Nat → List Byte → Option (List (List Byte))
  | 0, l => if l = [] then some [] else none
  | k + 1, l =>
    match itemLen l with
    | none => none
    | some n => (itemsOf k (l.drop n)).map fun t => l.take n :: t

def packageItems (l : List Byte) : Option (List (List Byte)) := itemsOf (leAt l 0x0C 2) ((l.drop 0x40).take (l.length - 128))

/-! ## Replays (R367 to R369, R383) -/

/-- The result bytes of an array tile's record, computed from its inputs (R161, R366, R367). -/
def replayArray (l : List Byte) : List Byte :=
  let fmt := leAt l 1 1
  let kph := kphysOf (leAt l 2 1 % 4)
  let cols := leAt l 3 1
  let bits := fmtBits fmt
  let kp := kpass kph fmt
  let stat := unpack fmt (bytesAt l 0x10 (8 * kp * bits / 8))
  let col := fun (c : Nat) => pack fmt ((List.range kp).map fun k => stat.getD (8 * k + c) 0)
  let st := (List.range cols).map col
  (List.range (leAt l 4 1)).flatMap fun r =>
    let w := bytesAt l (0x10 + 8 * kph + r * kph) kph
    (List.range 8).flatMap fun c => if c < cols then leBytes 8 (colSum fmt kph kp w (st.getD c [])).toNat else zeros 8

/-- A slice that holds the registers of a vector tile's record, and nothing else. -/
def tileSlice (i : VSlot) (l : List Byte) : Slice :=
  let put := fun (x : Slice) (used : Bool) (r off : Nat) =>
    if used then x.setLanes r ((List.range 64).map fun k => (k, BitVec.ofNat 32 (leAt l (off + 4 * k) 4), false)) else x
  let x : Slice := if i.op = 0x41 then Slice.setC {} (fld i.aux 2 0) (leAt l 0x10 4) else {}
  let d1 := (i.vd + 1) % 32
  put (put (put (put (put x i.readsVa i.va 0x20) i.readsVb i.vb 0x120) (i.men || i.op = 0x1A) i.vm 0x220) (i.dests.contains i.vd) i.vd 0x320)
    (i.pair && i.dests.contains d1) d1 0x420

/-- The result bytes of a vector tile's record, computed from its inputs under its special-function version (R367). The record does not hold the count
of VSTATR, the state registers of VSMXN or what an extension unit computes: `answer` gives the lanes of vd and of vd + 1 there (log 44). -/
def replayVector (shapeR : Nat) (l : List Byte) (answer : List W32) : List Byte :=
  let i := vSlot (leAt l 2 6)
  let x := tileSlice i l
  let given := fun (r k0 : Nat) (lanes : List Nat) => (r, lanes.map fun k => (k, answer.getD (k0 + k) 0, false))
  let d1 := (i.vd + 1) % 32
  let o : VOut :=
    if 0xE0 ≤ i.op then { regs := if shapeR = 0 then [] else [given i.vd 0 (if shapeR = 1 then [0] else i.active x)] }
    else if i.op = 0x42 then { regs := [given i.vd 0 (List.range 64), given d1 64 (List.range 64)] }
    else if i.op = 0x45 then { regs := [given i.vd 0 (i.active x)] }
    else vecExec x (leAt l 1 1) 0 i
  let res := fun (r : Nat) => (x.lanesAfter o r).flatMap fun v => leBytes 4 v.toNat
  (if 0xE0 ≤ i.op ∧ shapeR = 0 then zeros 256 else res i.vd) ++ (if i.pair then res d1 else zeros 256)

/-- What a slice produces as it replays a record (R368; log 44). -/
def State.replay (s : State) (n : Nat) (l : List Byte) (x : Replayed) : List Byte :=
  let r := if leAt l 0 1 = 1 then replayArray l
    else replayVector (fld (s.extDesc n (fld (leAt l 2 6) 7 0 - 0xE0)) 20 18) l x.answer
  x.flips.foldl (fun r b => if b < 8 * r.length then flipBit r b else r) r

/-- A confirmed error of an item, if its digest differs (R383). -/
def State.runItem (s : State) (it : PatItem) (result : List Byte) : State :=
  let d := mace result
  let s := { s with rel := { s.rel with items := s.rel.items.filter fun q => q.id ≠ it.id } }.bump patP Pattern.RUNS
  if d = it.expect.toNat then s
  else ((s.healthError it.slice true).record { cls := 0xD, utype := 1, uidx := it.slice, syn := it.index, detail := d }).bump patP Pattern.FAILS

/-- The inputs and the result of a pattern item's record (R367, R383). -/
def State.itemBytes (s : State) (it : PatItem) : List Byte := ((packageItems s.rel.package).getD []).getD it.index []

/-- ANISE_REPLAY: record `i`, or the pattern item of that number, is replayed on a free slice, and its result compared (R368 to R371, R383). -/
def execAniseReplay (i : Nat) (n : Fin 16) (result : Replayed) (s : State) : Result :=
  act s.live s fun s =>
    match s.wanted n.val with
    | some r =>
      if r.id ≠ i then s
      else
        let result := s.replay n.val r.tile.bytes result
        match r.first with
        | some (replay, old) => s.third r replay old n.val result
        | none => if result = r.tile.result then (s.dropRec i).bump aniP Anise.MATCH else s.disagree r n.val result
    | none =>
      match s.rel.items.find? fun it => it.slice = n.val with
      | some it =>
        if it.id = i && s.sliceFree n.val && !(s.slice n.val).testing then s.runItem it (s.replay n.val (s.itemBytes it) result) else s
      | none => s

/-! ## Health (R372) and built-in tests (R373) -/

/-- HEALTH_RECOVER: `RECOVER_H` hours after its last error a SUSPECT slice is NORMAL (R372). -/
def execHealthRecover (n : Fin 16) (s : State) : Result :=
  let t := s.f (slhP n.val) SlcHealth.LAST_ERR + s.f hltP Health.RECOVER_H * 3600000000000
  act (s.live && s.f (slhP n.val) SlcHealth.HSTATE = hlSuspect && decide (t ≤ s.time)) s fun s => s.setHealth n.val hlNormal

/-- A write of 1 to bit `n` of `HLT_CLEAR` (R372). -/
def State.clearHealth (s : State) (n : Nat) : State :=
  ((s.setHealth n hlNormal).setF (slhP n) SlcHealth.LAST_ERR 0).setF (slhP n) SlcHealth.LAST_CONF 0

/-- The interval of a slice's built-in test in ns (R373); 0 acts as 1 ms. -/
def State.testEvery (s : State) (n : Nat) : Nat :=
  max 1 (s.f hltP (if s.f (slhP n) SlcHealth.HSTATE = hlNormal then Health.NORMAL_MS else Health.SUSPECT_MS)) * 1000000

/-- A new test interval begins: a test that is still unfinished is late and continues (R373). -/
def State.testInterval (s : State) (n : Nat) : State :=
  let x := s.slice n
  if s.time < x.testAt + s.testEvery n then s
  else
    let s := s.modSlice n fun x => { x with testAt := x.testAt + s.testEvery n, testing := true }
    if x.testing then (s.setB (slhP n) SlcHealth.TEST_LATE true).bump (slhP n) SlcHealth.TESTS_LATE else s

/-- BUILT_IN_TEST: a test interval begins where one is due, and in slack the slice replays tiles of its test. `digests` are the tiles replayed whose
digest differs from the one fixed in the ring, `finished` says that no tile is left (R369, R373). -/
def execBuiltInTest (n : Fin 16) (digests : List (Nat × W64)) (finished : Bool) (s : State) : Result :=
  act (s.live && s.loaded n.val) s fun s =>
    let s := s.testInterval n.val
    if !(s.slice n.val).testing || !s.sliceFree n.val || (s.wanted n.val).isSome then s
    else
      let s := digests.foldl (fun s (t, d) =>
        if 16 ≤ t then s
        else (s.healthError n.val true).record { cls := 0xA, utype := 1, uidx := n.val, syn := t, detail := d.toNat }) s
      if finished then
        ((s.modSlice n.val fun x => { x with testing := false }).setB (slhP n.val) SlcHealth.TEST_LATE false).bump (slhP n.val) SlcHealth.TESTS_RUN
      else s

/-! ## Pattern packages (R381, R382) -/

/-- Whether the header of a package is right (R381). -/
def packageOk (l : List Byte) (len : Nat) : Bool :=
  let h := leAt l
  l.length = len && h 0 4 = 0x54415056 && h 4 2 = 1 && decide (h 6 1 ≤ 3) && h 7 1 = 0 && h 8 4 = len && decide (128 ≤ len) && decide (len ≤ 1048576) &&
  decide (1 ≤ h 0x0C 2) && decide (h 0x0C 2 ≤ 4096) && decide (10 ≤ h 0x0E 2) && decide (h 0x0E 2 ≤ 60000) && h 0x1A 6 = 0

/-- The result of the first check of R382 that fails: 0 where the package is accepted. -/
def State.packageCheck (s : State) (l : List Byte) (len : Nat) : Nat :=
  let slot := leAt l 6 1
  let key := bytesAt l 0x20 32
  if !packageOk l len then 0x40
  else if !s.fuses.patProgrammed.testBit slot || s.fuses.patRevoked.testBit slot || (s.f patP Pattern.KEY_DIS).testBit slot ||
      sha256 key ≠ s.fuses.patHash.getD slot [] then 0x41
  else if !ed25519Verify key (l.take (len - 64)) (l.drop (len - 64)) then 0x42
  else if leAt l 0x10 8 < s.f patP Pattern.MIN_SERIAL then 0x43
  else if (packageItems l).isNone then 0x44
  else 0

/-- PATTERN_LOAD: a package that passes its checks replaces the one in the store (R382). While it runs it holds a reference to the object of the
package, and it is held where that reference does not fit (R318). -/
def execPatternLoad (cmd : Nat) (s : State) : Result :=
  onCmd cmd 0x13 s fun c s =>
    let o := ((s.walk c.ctx (c.fld 0x18 8)).map (·.obj)).toList
    if !s.refsFit o then s else
    let s := (s.takeRefs o).putCmd { c with refs := c.refs ++ o }
    let (s, l) := if 1048576 < c.len then (s, []) else
      match s.readVa { plvReader with ctx := c.ctx } c.ctx (c.fld 0x18 8) c.len with
      | (s, .ok (l, bad)) => (s, if bad.any id then [] else l)
      | (s, .error _) => (s, [])
    let code := s.packageCheck l c.len
    let s := s.setF patP Pattern.LAST_RESULT code
    if code ≠ 0 then s.reject c.id code
    else
      let s := (s.poke false 0x7F0CC0000 l).setB patP Pattern.LOADED true
      let s := (s.setF patP Pattern.SERIAL (leAt l 0x10 8)).setF patP Pattern.MIN_SERIAL (leAt l 0x10 8)
      { s with rel := { s.rel with package := l, items := [], runAt := s.time } }.finishCmd c.id stDone

/-- The items of a round, each for every slice of the mask whose shape it matches (R383). -/
def State.patternRound (s : State) : List PatItem :=
  let l := s.rel.package
  let slices := (bitsOf (leAt l 0x18 2) 16).filter fun n => s.loaded n
  ((packageItems l).getD []).zipIdx.flatMap fun (it, k) =>
    (slices.filter fun n => leAt it 0 1 = 2 || leAt it 2 1 = s.shape n).map fun n =>
      { id := 0, index := k, slice := n, expect := BitVec.ofNat 64 (leAt it 8 8) }

/-- PATTERN_RUN: at a run interval what is left of the last round is late, and a new round is queued (R383). -/
def execPatternRun (s : State) : Result :=
  act (s.live && s.on patP Pattern.LOADED && decide (s.rel.runAt + leAt s.rel.package 0x0E 2 * 1000000 ≤ s.time)) s fun s =>
    let s := s.bump patP Pattern.LATE s.rel.items.length
    let round := s.patternRound.zipIdx.map fun (it, k) => { it with id := s.rel.nextId + k }
    { s with rel := { s.rel with items := round, nextId := s.rel.nextId + round.length, runAt := s.rel.runAt + leAt s.rel.package 0x0E 2 * 1000000 } }

end Sys2Proof.Machine
end

