-- ==== Sys2Proof/Machine/Power.lean ====
section
/-! DEFINITION. POWER and COLD resets, rails, reference clocks, the critical state, and JTAG (19_power_pins.md: R407 to R423, R428, R432). -/

namespace Sys2Proof.Machine

def us : Nat := 1000
def ms : Nat := 1000000

/-! ## Resets (R410 to R413) -/

/-- The pins as a reset leaves them (R421): the balls that the board drives, and the straps as last sampled, stay. -/
def Pins.atReset (p : Pins) : Pins :=
  { bifur := p.bifur, adminSel := p.adminSel, smbAddr := p.smbAddr, perst := p.perst, sysRstLow := p.sysRstLow, clkGone := p.clkGone,
    railsIn := p.railsIn }

/-- The registers of the pages that lie in the POWER domain itself (R41). -/
def State.powerRegs (s : State) : Sp Nat :=
  s.regs.filter fun e => [(⟨.glbFuse, 0, 0⟩ : Page), senseP, sbP].any fun pg => decide (pg.base * 8 ≤ e.1) && decide (e.1 < (pg.base + 0x1000) * 8)

/-- Everything of the COLD domain at its reset values; what leaves the module, the commands that wait and the JTAG port are not part of it. -/
def State.coldState (s : State) (regs : Sp Nat) (busy : Sp Nat) (pins : Pins) (power : Power) : State :=
  { pending := s.pending, fuses := s.fuses, pins := pins, power := power, regs := regs, busy := busy, out := s.out, jtag := s.jtag,
    anyBits := s.anyBits }

/-- A cold-reset source starts a cold reset, or restarts one: every link goes down without a teardown, and the COLD domain is reset
(R410, R412). -/
def State.startCold (s : State) (cause : Nat) : State :=
  let busy := s.busy.filter fun e => e.1 = senseP.base || e.1 = sbP.base || e.1 = (⟨.glbFuse, 0, 0⟩ : Page).base
  let t := s.coldState s.powerRegs busy s.pins.atReset
    { now := s.power.now, inCold := true, coldSince := s.power.now, faults := s.power.faults, clkAt := s.power.clkAt }
  (t.setF senseP MgtSense.RST_CAUSE cause).bump senseP MgtSense.COLD_CNT

/-- A cold reset may start: the module is not held in a POWER reset or in the critical state. -/
def State.mayCold (s : State) : Bool := !s.power.inPower && !s.power.critical

/-- POWER_RESET: VCC_AUX crosses 1.70 V. Every domain is reset, no rail counts as in band, and the critical state ends (R410, R428). -/
def execPowerReset (s : State) : Result :=
  .next { s.coldState [] [] { s.pins.atReset with railsIn := [] } { now := s.power.now, inPower := true, inCold := true, coldSince := s.power.now }
            with jtag := {} }

/-- POWER_RESET_END: 2 ms after VCC_AUX is in band, `SMB_ADDR` is sampled; a low SYS_RST# is then the source of the cold reset that goes on
(R410, R411). -/
def execPowerResetEnd (smbAddr : BitVec 2) (s : State) : Result :=
  actSome s.power.auxAt s fun t s =>
    if !s.power.inPower || s.power.critical || s.power.now < t + 2 * ms then s
    else
      let s := { s with pins := { s.pins with smbAddr := smbAddr }, power := { s.power with inPower := false, auxAt := none } }
      if s.pins.sysRstLow then s.startCold 1 else s

/-- COLD_RESET: SYS_RST# has been low for 1 µs (R410). -/
def execColdReset (s : State) : Result :=
  let s : State := { s with pins := { s.pins with sysRstLow := true } }
  act s.mayCold s fun s => s.startCold 1

/-- Nothing holds the cold reset any more: 10 µs have passed, every faulted rail has been in band for 1 ms and REFCLK_SYS present for 1 ms
(R409, R410, R418). -/
def State.coldOver (s : State) : Bool :=
  let held := fun (t : Option Nat) => match t with
    | some t => decide (s.power.now < t + ms)
    | none => true
  s.power.inCold && s.mayCold && decide (s.power.coldSince + 10 * us ≤ s.power.now) && !s.pins.clkGone.testBit 0 &&
    !(s.power.clkAt.isSome && held s.power.clkAt) && !s.power.faults.any fun f => held f.2

/-- COLD_RESET_END: S. The straps are sampled, SYS_RST# being high, and start-up begins (R413, R416). -/
def execColdResetEnd (bifur adminSel : BitVec 2) (s : State) : Result :=
  act s.coldOver s fun s =>
    let s : State := { s with pins := { s.pins with bifur := bifur, sysRstLow := false },
                              power := { now := s.power.now, startAt := s.power.now },
                              jtag := { s.jtag with drive := none, floated := false } }
    let admin : BitVec 2 := if s.portWidth adminSel.toNat = 0 then 0 else adminSel
    ({ s with pins := { s.pins with adminSel := admin } } : State).setF glbP GlbCtrl.ADMIN_PORT admin.toNat

/-- TIMEBASE_LOCK: at S + 200 µs the timebase is locked and counts from 0 (R413). -/
def execTimebaseLock (s : State) : Result :=
  act (s.live && !s.power.locked && decide (s.power.startAt + 200 * us ≤ s.power.now)) s fun s =>
    { s with time := 0, power := { s.power with locked := true } }

/-! ## Rails (R407 to R409) -/

/-- The step of the order of R407 in which a rail rises. -/
def Rail.step : Rail → Nat
  | .aux => 1 | .vppSt => 2 | .vddSt => 3 | .core => 4 | .bu => 4 | .xaux => 5 | .xcvr => 6

/-- The coding of R378. -/
def Rail.code : Rail → Nat
  | .core => 0 | .bu => 1 | .vddSt => 2 | .vppSt => 3 | .xcvr => 4 | .xaux => 5 | .aux => 6

def Rail.all : List Rail := [.aux, .vppSt, .vddSt, .core, .bu, .xaux, .xcvr]

/-- RAIL_FAULT: a rail other than VCC_AUX has left its band for 2 µs while SYS_RST# is high (R409). -/
def execRailFault (r : Rail) (s : State) : Result :=
  act (s.mayCold && r ≠ .aux && !s.pins.sysRstLow) s fun s =>
    let s : State := { s with pins := { s.pins with railsIn := s.pins.railsIn.filter (· ≠ r) },
                              power := { s.power with faults := (r, none) :: s.power.faults.filter (·.1 ≠ r) } }
    (s.startCold 4).setF senseP MgtSense.FAULT_RAIL (Rail.code r)

/-- RAIL_IN_BAND: a rail enters its band; before a rail of an earlier step, that sets `SEQ_ERR` (R408). -/
def execRailInBand (r : Rail) (s : State) : Result :=
  act (!s.power.critical) s fun s =>
    let early := Rail.all.any fun q => decide (Rail.step q < Rail.step r) && !s.pins.railsIn.contains q
    let s := if early then s.setB senseP MgtSense.SEQ_ERR true else s
    { s with pins := { s.pins with railsIn := r :: s.pins.railsIn.filter (· ≠ r) },
             power := { s.power with auxAt := if r = .aux && s.power.inPower then some s.power.now else s.power.auxAt,
                                     faults := s.power.faults.map fun f => if f.1 = r then (r, some s.power.now) else f } }

/-! ## Reference clocks (R417, R418) -/

/-- The place of a clock in `CLK_STAT`. -/
def RefClk.bit : RefClk → Nat
  | .sys => 0
  | .stref k => 2 + k.val
  | .pcie p => 4 + p.val

/-- What the loss of a clock does beside marking it (R418). -/
def State.clockEffect (s : State) (k : RefClk) : State :=
  match k with
  | .sys => s.startCold 5
  | .stref k => if s.live then (List.range 16).foldl (fun s l => s.loseLock (16 * k.val + l)) s else s
  | .pcie p => if s.live && s.on (linkP p.val) HptLink.UP then s.loseLink p.val false else s

/-- CLOCK_LOSS: a reference clock is lost (R418). -/
def execClockLoss (k : RefClk) (s : State) : Result :=
  let b := RefClk.bit k
  act (s.mayCold && !s.pins.clkGone.testBit b) s fun s =>
    let s : State := { s with pins := { s.pins with clkGone := s.pins.clkGone ||| 2 ^ b } }
    let s := if s.live then (s.setF clkP MgtClk.CLK_LOST (s.f clkP MgtClk.CLK_LOST ||| 2 ^ b)).irq clkP 2 else s
    s.clockEffect k

/-- CLOCK_RETURN: a lost reference clock is present again; REFCLK_SYS must then stay for 1 ms (R418). -/
def execClockReturn (k : RefClk) (s : State) : Result :=
  let b := RefClk.bit k
  act (s.mayCold && s.pins.clkGone.testBit b) s fun s =>
    { s with pins := { s.pins with clkGone := s.pins.clkGone - 2 ^ b },
             power := { s.power with clkAt := if k = .sys then some s.power.now else s.power.clkAt } }

/-! ## The critical state (R428) -/

/-- CRITICAL_TEMP: a comparator reaches 125 °C. Every clock stops and every pin but THERM_TRIP# takes its state of R421, until a POWER reset. -/
def execCriticalTemp (s : State) : Result :=
  act s.mayCold s fun s =>
    { s with pins := { s.pins with io := List.replicate 8 .hiz, trig := List.replicate 16 {}, tickOut := false },
             power := { s.power with critical := true }, jtag := { s.jtag with drive := none, floated := false } }

/-! ## JTAG (R432) -/

def jtBypass : Nat := 1
def jtIdcode : Nat := 0
def jtSample : Nat := 2
def jtExtest : Nat := 3
def jtClamp : Nat := 4
def jtHighz : Nat := 5

/-- The port takes an instruction: the cells drive the pins, the pins float, or neither. -/
def State.jtagIr (s : State) (ir : Nat) (drive : Option (List Bool)) (floated : Bool) : State :=
  { s with jtag := { s.jtag with ir := ir, drive := drive, floated := floated } }

/-- BYPASS selects the one-bit bypass register. -/
def execBypass (s : State) : Result := act s.mayCold s fun s => s.jtagIr jtBypass none false

/-- The 32 bits of the identification register, least significant first. -/
def idBits : List Bool := (List.range 32).map fun i => (0x01024B6F : Nat).testBit i

/-- IDCODE shifts out 0x0102_4B6F. -/
def execIdcode (s : State) : Result := act s.mayCold s fun s => (s.jtagIr jtIdcode none false).emit (.jtag idBits)

/-- The levels that the boundary cells sample: `levels` as the balls carry them, with the outputs that the module drives in the places of
TRIG_OUT, TICK_OUT and THERM_TRIP#. -/
def State.sampled (s : State) (levels : List Bool) : List Bool :=
  levels.zipIdx.map fun (v, i) =>
    if 192 ≤ i ∧ i < 208 then
      match (s.pins.trig.getD (i - 192) {}).level with
      | .high => true
      | .low => false
      | .z => v
    else if i = 208 then s.pins.tickOut
    else if i = 209 then v && !s.thermTrip
    else v

/-- SAMPLE/PRELOAD shifts out what the boundary cells sample and shifts `cells` in; the pins stay with the module. -/
def execSamplePreload (levels cells : List Bool) (s : State) : Result :=
  act s.mayCold s fun s =>
    let s := s.emit (.jtag (s.sampled levels))
    { s with jtag := { ir := jtSample, cells := cells, drive := none, floated := false } }

/-- EXTEST drives the pins from the boundary cells while SYS_RST# is low, and acts as BYPASS otherwise. -/
def execExtest (s : State) : Result :=
  act s.mayCold s fun s => if s.pins.sysRstLow then s.jtagIr jtExtest (some s.jtag.cells) false else s.jtagIr jtBypass none false

/-- CLAMP holds the outputs at the boundary cells' values, with the bypass register selected, while SYS_RST# is low, and acts as BYPASS
otherwise. -/
def execClamp (s : State) : Result :=
  act s.mayCold s fun s => if s.pins.sysRstLow then s.jtagIr jtClamp (some s.jtag.cells) false else s.jtagIr jtBypass none false

/-- HIGHZ floats the outputs while SYS_RST# is low, and acts as BYPASS otherwise. -/
def execHighz (s : State) : Result :=
  act s.mayCold s fun s => if s.pins.sysRstLow then s.jtagIr jtHighz none true else s.jtagIr jtBypass none false

end Sys2Proof.Machine
end

