-- ==== Sys2Proof/Machine/Bus.lean ====
section
/-! DEFINITION. The register bus: how a write is checked, refused, applied and acted on; how a read returns bytes and clears; the commands that
are register accesses; and the sideband transactions that make them (02_register_pages.md; R429). -/

namespace Sys2Proof.Machine

/-! ## Writes (R20, R29, R32 to R37) -/

/-- An aligned 4-byte word of a write: its address, its data, and its four byte enables. -/
structure BusWord where
  addr : Nat
  data : Nat
  be : Nat
  deriving DecidableEq, Repr

def BusWord.off (w : BusWord) : Nat := w.addr % 0x1000

/-- What becomes of one word of a write. -/
inductive Verdict where
  | drop | stray | ignore | refuse (locked : Bool) | apply
  deriving DecidableEq, Repr

/-- `REFUSED_LOCK` of a refused word. -/
def Verdict.refused? : Verdict → Option Bool
  | .refuse lk => some lk
  | _ => none

/-- The fields with bits in a word that are neither RO nor RC. -/
def writable (pg : Page) (off : Nat) : List (Fld × Bool) :=
  (fieldsAt pg.kind off).filter fun e => e.1.acc ≠ .ro && e.1.acc ≠ .rc

/-- Whether a lock freezes a field against the word's data (R37). -/
def frozen (f : Fld) (data : Nat) : Bool :=
  if f.off < 0x40 then f.acc = .wo && f.off = Hdr.SOFT_RESET.off && bitOf data 1
  else f.acc = .rw || f.acc = .rwl || f.acc = .rwa

/-- Whether the sideband may write the word: a management page, or `GLB_ADMIN` (R31). -/
def sidebandWord (pg : Page) (off : Nat) : Bool := pg.kind.region = 10 || (pg.kind = .glbCtrl && off = GlbCtrl.ADMIN_PORT.off)

/-- The verdict on a word, by the state at the start of its cycle (R22, R31, R32, R34, R434). -/
def State.verdict (s : State) (src : Src) (w : BusWord) : Verdict :=
  match s.pageAt w.addr with
  | none => .stray
  | some pg =>
    let fs := fieldsAt pg.kind w.off
    let ws := writable pg w.off
    if src = .sideband && !sidebandWord pg w.off then .drop
    else if fs = [] then .stray
    else if 0x40 ≤ w.off ∧ s.isBusy pg then .drop
    else if ws = [] then .ignore
    else if w.be ≠ 15 then .refuse false
    else if ws.any fun e => !s.mayWrite src pg e.1 then .refuse false
    else if s.on pg Hdr.LOCK && pg.kind.lockable && ws.any fun e => frozen e.1 w.data then .refuse true
    else .apply

/-- A refused word is recorded and reported (R32). The interrupt of the page follows once for the whole access, in `State.pageWrite`. -/
def State.refuse (s : State) (src : Src) (pg : Page) (locked : Bool) : State :=
  let s := ((s.setB pg Hdr.REFUSED true).setF pg Hdr.REFUSED_PORT (Src.code src)).setB pg Hdr.REFUSED_LOCK locked
  (s.bump pg Hdr.REFUSED_CNT).setF pg Hdr.IRQ_STAT (s.f pg Hdr.IRQ_STAT ||| 1)

/-- A stray write is counted (R34). -/
def State.strayWrite (s : State) (src : Src) : State :=
  (s.bump glbP GlbCtrl.STRAY_WR_CNT).setF glbP GlbCtrl.STRAY_WR_PORT (Src.code src)

/-- The bits of a field that a word carries, in the field's own positions, and the mask of those positions. -/
def Fld.part (f : Fld) (high : Bool) (data : Nat) : Nat × Nat :=
  if high then
    let m := 2 ^ (f.hi - 31) - 1
    ((data &&& m) <<< (32 - f.lo), m <<< (32 - f.lo))
  else
    let m := 2 ^ (min f.hi 31 + 1 - f.lo) - 1
    ((data >>> f.lo) &&& m, m)

/-- One field that a write reaches: the bits written, in the field's positions, and the mask of the positions that the write covers. -/
structure Wr where
  fld : Fld
  bits : Nat
  mask : Nat
  deriving DecidableEq, Repr

/-- The fields that the applied words of one access reach; a field in both words is reached once, with both parts. -/
def wrOf (k : PageKind) (ws : List BusWord) : List Wr :=
  ws.foldl (fun l w => (writable ⟨k, 0, 0⟩ w.off).foldl (fun (l : List Wr) (f, high) =>
    let (b, m) := f.part high w.data
    if l.any fun x => x.fld = f then l.map fun x => if x.fld = f then { x with bits := x.bits ||| b, mask := x.mask ||| m } else x
    else l ++ [{ fld := f, bits := b, mask := m }]) l) []

/-- Fields whose write acts only through what it starts: the hooks below set them. -/
def hooked (k : PageKind) (f : Fld) : Bool :=
  match k with
  | .qdb => f.off = Qdb.TAIL.off || f.off = Qdb.DEPTH_LOG2.off
  | .glbCarve => 0x80 ≤ f.off
  | .fru => f.off = Fru.HEAD.off
  | .pattern => f.off = Pattern.MIN_SERIAL.off
  | .mgtLimit => f.off = MgtLimit.TRIPPED.off
  | _ => false

/-- While a group is attached, writes to its masks and its buffer have no effect (R336). -/
def State.still (s : State) (pg : Page) (f : Fld) : Bool :=
  pg.kind = .sibGrp && s.on pg SibGrp.ATTACHED &&
    [SibGrp.RX_MASK, SibGrp.TX_MASK, SibGrp.BUF_VA, SibGrp.SLOT_UNITS, SibGrp.SLOTS].contains f

/-- The value that a field holds after a write, its effects aside (R8). -/
def State.merged (s : State) (pg : Page) (w : Wr) : Nat := s.f pg w.fld - (s.f pg w.fld &&& w.mask) ||| w.bits

/-- A field takes the write (R7, R8). -/
def State.takeWr (s : State) (pg : Page) (w : Wr) : State :=
  if hooked pg.kind w.fld || s.still pg w.fld then s else
  match w.fld.acc with
  | .rw | .rwl | .rwa => s.setF pg w.fld (s.merged pg w)
  | .w1c => s.setF pg w.fld (s.f pg w.fld - (s.f pg w.fld &&& w.bits))
  | .w1s => if w.fld = Hdr.LOCK && !pg.kind.lockable then s else s.setF pg w.fld (s.f pg w.fld ||| w.bits)
  | .wo | .ro | .rc => s

/-! ## What a write does beside setting its fields -/

/-- The write to a field, where the access reaches it. -/
def got (l : List Wr) (f : Fld) : Option Wr := l.find? fun w => w.fld = f

/-- Whether the access writes 1 to a one-bit field. -/
def wrote1 (l : List Wr) (f : Fld) : Bool := l.any fun w => w.fld = f && w.bits ≠ 0

/-- The RO fields that show the state of the hardware and not of a register: a soft reset of the page leaves them (log 19). -/
def liveFields : PageKind → List Fld
  | .devCap => DevCap.all
  | .glbCtrl => [GlbCtrl.LOADING, GlbCtrl.LOADED]
  | .glbCarve => [GlbCarve.MEM_INIT_DONE]
  | .plv => [Plv.CERT_STREAM_NS, Plv.CERT_SEG_NS]
  | .tkgSrc => [TkgSrc.RUNNING, TkgSrc.LOCKED, TkgSrc.SYNTH_RUN, TkgSrc.TICK_NUM]
  | .tkgWin => [TkgWin.BAND, TkgWin.HOT_EXHAUSTED, TkgWin.ACT_PERIOD, TkgWin.ACT_CSTART, TkgWin.ACT_CEND, TkgWin.ACT_GEND,
      TkgWin.ACT_DECISION_OFFSET, TkgWin.ACT_TOL]
  | .hptLink => [HptLink.UP, HptLink.RATE, HptLink.WIDTH, HptLink.TEARDOWN_BUSY]
  | .ctx => [Ctx.STATE, Ctx.STREAM, Ctx.CONSEC, Ctx.STREAM_HELD, Ctx.HELD_BY]
  | .qdb => [Qdb.VALIDATED]
  | .slcExt => (List.range 64).map SlcExt.MAN.at
  | .stkMcr => [StkMcr.INIT_BUSY, StkMcr.INIT_DONE, StkMcr.INIT_FAIL]
  | .sibGrp => [SibGrp.ATTACHED]
  | .clove => [Clove.RUNNING, Clove.ACTIVE, Clove.A_FAILED, Clove.B_FAILED, Clove.SCRUB_DEGRADED, Clove.SCRUB_FAULT, Clove.UNVERIFIED]
  | .mgtGov => [MgtGov.CLK_MHZ, MgtGov.BU_DUTY, MgtGov.HOST_DUTY, MgtGov.SHED_ACTIVE, MgtGov.THROTTLE, MgtGov.PROTECT]
  | _ => []

/-- A soft reset: the block registers take their reset values, and `RESET_BUSY` reads 1 for 8 ns (R23, R434). -/
def State.softReset (s : State) (pg : Page) : State :=
  let kept := (liveFields pg.kind).map fun f => (f, s.f pg f)
  let s := kept.foldl (fun s e => s.setF pg e.1 e.2) ((s.resetBlock pg).setBusy pg (s.time + 8))
  match pg.kind with
  | .tkgSrc => { s with pins := { s.pins with tickOut := false } }.afterRun true
  | .tkgWin => { s with tkg := { s.tkg with pendSched := none } }.publish
  | .slcSeq => s.modSlice pg.inst fun x => { x with flags := 0 }
  | .sibRx => (List.range 32).foldl State.loseLock s
  | .sibGrp => s.evalGroups
  | .mgtGov => s.checkTarget
  | .qdb => s.setF pg Qdb.DEPTH_LOG2 (spGet 0 s.hib.depths pg.inst)
  | _ => s

/-- The effects of a write on the common header (R23, R24, R37). -/
def State.hdrHook (s : State) (pg : Page) (l : List Wr) : State :=
  let s := match got l Hdr.IRQ_SET with
    | some w => s.irq pg w.bits
    | none => s
  if wrote1 l Hdr.SOFT_RESET then s.softReset pg else s

/-- A write of `ZONE_VIEW` word `i`: a bit of a zone with mapped frames keeps its value, and is counted (R93). -/
def State.setZoneView (s : State) (i v : Nat) : State :=
  let f := GlbCarve.ZONE_VIEW.at i
  let old := s.f carveP f
  let v := if i = 15 then v % 2 ^ 24 else v
  let kept := maskOf ((List.range 32).filter fun b => xor (old.testBit b) (v.testBit b) && s.zones (32 * i + b) ≠ 0)
  let new := (v &&& (2 ^ 32 - 1 - kept)) ||| (old &&& kept)
  (s.setF carveP f new).bump carveP GlbCarve.ZONE_REJ_CNT (bitsOf kept 32).length

/-- A write of `FRU_HEAD` (R377). -/
def State.setFruHead (s : State) (v : Nat) : State :=
  let pg : Page := ⟨.fru, 0, 0⟩
  if 4096 < (s.f pg Fru.TAIL + 2 ^ 16 - v) % 2 ^ 16 then s else s.setF pg Fru.HEAD v

/-- A write of 1 to `TRIPPED`, ignored while a sensor reads above 100 °C (R358). -/
def State.clearTrip (s : State) : State :=
  if 800 < s.hottest then s else { s.setB limP MgtLimit.TRIPPED false with gov := { s.gov with tripStopped := false } }

/-- A write of 1 to `CTX_RESUME.RESUME` (R396). -/
def State.resumeHold (s : State) (c : Nat) : State :=
  let bad := match (s.cx c).program with
    | some p => p.gang.any fun n => s.f (slhP n) SlcHealth.HSTATE = hlQuar
    | none => false
  if bad then s.setB (ctxP c) Ctx.RESUME_REFUSED true
  else if s.on (ctxP c) Ctx.STREAM_HELD then s.modCx c fun x => { x with resumeReq := true } else s

/-- The effects of a write on the block registers of a page; `was` is the state before the write. -/
def State.blockHook (s was : State) (pg : Page) (l : List Wr) : State :=
  match pg.kind with
  | .glbCtrl => match got l GlbCtrl.GLB_RESET_KEY with
    | some w => if w.bits = 0xC5 then s.startCold 2 else s
    | none => s
  | .plv => (List.range 4).foldl (fun s h => if wrote1 l (Plv.HALT_ARM.at h) then s.armHalt h else s) s
  | .glbCarve => (List.range 16).foldl (fun s i => match got l (GlbCarve.ZONE_VIEW.at i) with
    | some w => s.setZoneView i w.bits
    | none => s) s
  | .tkgSrc => match got l TkgSrc.RUN with
    | some _ =>
      let s := s.afterRun (was.on pg TkgSrc.RUN)
      let s := if wrote1 l TkgSrc.RELOCK then s.armRelock else s
      if s.on pg TkgSrc.TICKOUT_EN then s else { s with pins := { s.pins with tickOut := false } }
    | none => s
  | .tkgWin => if wrote1 l TkgWin.COMMIT then s.commit else s
  | .hptLink =>
    let p := pg.inst
    let s := if wrote1 l HptLink.CREQ_GO then
        s.requestCtx p (wrote1 l HptLink.CREQ_STREAM) ((got l HptLink.CREQ_GROUP).map (·.bits) |>.getD 0) else s
    let s := if wrote1 l HptLink.QREQ_GO then s.requestQueue p else s
    if wrote1 l HptLink.QREQ_RELEASE then s.releaseQueue p ((got l HptLink.QREQ_RELEASE_Q).map (·.bits) |>.getD 0) else s
  | .hptEvent => (List.range 248).foldl (fun s v =>
    let w := HptEvent.MSIX_PBA.at (v / 32)
    match got l (HptEvent.MSIX_MASK.at v) with
    | some x => if x.bits = 0 ∧ (s.f pg w).testBit (v % 32) then (s.setF pg w (s.f pg w - 2 ^ (v % 32))).sendMsix pg.inst v else s
    | none => s) s
  | .ctx =>
    let s := if wrote1 l Ctx.RESET || wrote1 l Ctx.RELEASE then s.ctxControl pg.inst (wrote1 l Ctx.RESET) (wrote1 l Ctx.RELEASE) else s
    if wrote1 l Ctx.RESUME then s.resumeHold pg.inst else s
  | .qdb =>
    let s := match got l Qdb.DEPTH_LOG2 with
      | some w => s.setDepth pg.inst w.bits
      | none => s
    let s := match got l Qdb.TAIL with
      | some w => s.setTail pg.inst w.bits
      | none => s
    match got l Qdb.DB_OBJ, got l Qdb.DB_OP with
    | some o, some op => s.refDoorbell pg.inst o.bits op.bits
    | _, _ => s
  | .slcSeq => match got l SlcSeq.SEQ_FLAGS with
    | some w => s.modSlice pg.inst fun x => { x with flags := x.flags &&& ~~~ (BitVec.ofNat 4 w.bits) }
    | none => s
  | .sibRx => (bitsOf (2 ^ 32 - 1) 32).foldl (fun s n =>
      if (got l (SibRx.RX_EN.at n)).isSome && !s.rxRuns n then s.loseLock n else s) s |>.evalGroups
  | .sibGrp => s.evalGroups
  | .clove => if wrote1 l Clove.PAIR_RESET then s.pairReset else s
  | .anise => if (got l Anise.SEED).isSome then (List.range 16).foldl (fun s n => s.modSlice n fun x => { x with sel := 0 }) s else s
  | .fru => match got l Fru.HEAD with
    | some w => s.setFruHead w.bits
    | none => s
  | .pattern => match got l Pattern.MIN_SERIAL with
    | some w => if s.merged pg w < s.f pg Pattern.MIN_SERIAL then s else s.setF pg Pattern.MIN_SERIAL (s.merged pg w)
    | none => s
  | .health => match got l Health.CLEAR with
    | some w => (bitsOf w.bits 16).foldl State.clearHealth s
    | none => s
  | .mgtGov => if (got l MgtGov.TARGET_MHZ).isSome then s.checkTarget else s
  | .mgtLimit => if wrote1 l MgtLimit.TRIPPED then s.clearTrip else s
  | _ => s

/-- The words of one access to a page, of which `ok` are applied and `bad` are refused (with `REFUSED_LOCK`), act together in one cycle: the
fields take the write, then the refusals set their bits, which a write of 1 to them in the same access does not undo (R11, R20, R32); then the
page's interrupt and the effects of the write follow. -/
def State.applyWords (s : State) (src : Src) (pg : Page) (ok : List BusWord) (bad : List Bool) : State :=
  let l := wrOf pg.kind ok
  let t := l.foldl (fun s w => s.takeWr pg w) s
  let t := (bad.foldl (fun t lk => t.refuse src pg lk) t).irqEdge (s.irqOn pg) pg
  if l = [] then t else (if l.any (fun w => 0x40 ≤ w.fld.off) then t.blockHook s pg l else t).hdrHook pg l

/-- The words of a write that lie in one page, one access of it: each word is judged by the state at its start, and an access with a word at an
undefined place is one stray write (R20, R34, R35). -/
def State.pageWrite (s : State) (src : Src) (ws : List BusWord) : State :=
  let judged := ws.map fun w => (w, s.verdict src w)
  let t := if judged.any fun e => e.2 = .stray then s.strayWrite src else s
  match ws with
  | [] => t
  | w :: _ => match s.pageAt w.addr with
    | some pg => t.applyWords src pg ((judged.filter fun e => e.2 = .apply).map (·.1)) (judged.filterMap fun e => e.2.refused?)
    | none => t

/-- Whether a write may act at all: its source reaches the module, no teardown of the source's port is in progress (R321), and no reset holds
the page (R434). -/
def State.writes (s : State) (src : Src) (page : Nat) : Bool :=
  s.reaches src &&
  (match src with
   | .port p => !s.on (linkP p.val) HptLink.TEARDOWN_BUSY
   | .sideband => !s.power.inCold || page * 0x1000 = senseP.base || page * 0x1000 = sbP.base)

/-- A register write: the words of each page are one access, pages in rising order (R20). -/
def State.busWrite (s : State) (src : Src) (ws : List BusWord) : State :=
  ((ws.map fun w => w.addr / 0x1000).eraseDups).foldl (fun s p =>
    if s.writes src p then s.pageWrite src (ws.filter fun w => w.addr / 0x1000 = p) else s) s

/-- The words that a write of bytes at `addr`, of any width and alignment, reaches through its byte enables (R20). -/
def wordsOf (addr : Nat) (data : List Byte) (be : List Bool) : List BusWord :=
  let d := zeros (addr % 4) ++ data
  let e := List.replicate (addr % 4) false ++ be
  let word := fun (i : Nat) =>
    ({ addr := addr / 4 * 4 + 4 * i, data := leAt d (4 * i) 4, be := maskOf ((List.range 4).filter fun j => e.getD (4 * i + j) false) } : BusWord)
  ((List.range ((d.length + 3) / 4)).map word).filter fun w => w.be ≠ 0

/-- A whole 4-byte write at an offset of a page. -/
def State.write4 (s : State) (src : Src) (pg : Page) (off v : Nat) : State :=
  s.busWrite src [{ addr := pg.base + off, data := v % 2 ^ 32, be := 15 }]

/-! ## Reads (R10, R21, R22, R30, R36) -/

/-- Which shadow belongs to a source. -/
def Src.shadow : Src → Nat := Src.code

/-- Whether a read by this source clears RC fields of a page (R10). -/
def State.clears (s : State) (src : Src) (pg : Page) : Bool :=
  match src with
  | .port p => if pg.kind.owned then s.owner pg = some p.val else s.admin = p.val
  | .sideband => false

/-- Whether a read from `lo` to `hi - 1`, offsets in the page, covers every byte of a field. -/
def Fld.covered (f : Fld) (lo hi : Nat) : Bool := decide (lo ≤ f.off + f.lo / 8) && decide (f.off + f.hi / 8 < hi)

/-- A read of bytes clears the RC fields that it covers wholly; `DEBT_PEAK` takes `DEBT_NOW` instead (R10). -/
def State.clearRead (s : State) (pg : Page) (lo hi : Nat) : State :=
  let words := (List.range ((hi + 3) / 4 - lo / 4)).map fun i => (lo / 4 + i) * 4
  ((words.flatMap fun w => fieldsAt pg.kind w).map (·.1)).eraseDups.foldl (fun s f =>
    if f.acc = .rc && f.covered lo hi then
      s.setF pg f (if pg.kind = .stkRefresh ∧ f = StkRefresh.DEBT_PEAK then s.f pg StkRefresh.DEBT_NOW else 0)
    else s) s

/-- The 64-bit registers that are read under R21: the tick and time registers, the address of the latest error, and the times of a slice's
errors. -/
def counters : PageKind → List Fld
  | .tkgSrc => [TkgSrc.TICK_START, TkgSrc.TICK_NUM, TkgSrc.TIME]
  | .stkEcc => [StkEcc.LAST_ADDR]
  | .slcHealth => [SlcHealth.LAST_CONF, SlcHealth.LAST_ERR]
  | _ => []

/-- Whether the word at an offset is the low (`high` false) or the high half of such a register. -/
def counterAt (k : PageKind) (off : Nat) (high : Bool) : Bool :=
  (counters k).any fun f => f.off + (if high then 4 else 0) = off

/-- The bytes that a read shows in one page (R22, R30). -/
def State.readBytes (s : State) (src : Src) (addr n : Nat) : List Byte :=
  let blocked := match src with
    | .port p => s.on (linkP p.val) HptLink.TEARDOWN_BUSY
    | .sideband => false
  match s.pageAt addr with
  | some pg =>
    if s.mayRead src pg && (!blocked || pg.kind = .hptLink) then
      (List.range n).map fun i =>
        let o := addr % 0x1000 + i
        BitVec.ofNat 8 (s.readWord pg (o / 4 * 4) >>> (8 * (o % 4)))
    else zeros n
  | none => zeros n

/-- A read within one page, with its effects: shadows of 64-bit counters and cleared fields. -/
def State.pageRead (s : State) (src : Src) (addr n : Nat) : State × List Byte :=
  let b := s.readBytes src addr n
  match s.pageAt addr with
  | none => (s, b)
  | some pg =>
    let blocked := match src with
      | .port p => s.on (linkP p.val) HptLink.TEARDOWN_BUSY
      | .sideband => false
    if !(s.mayRead src pg && (!blocked || pg.kind = .hptLink)) then (s, b)
    else
      let off := addr % 0x1000
      let put := fun (s : State) (x : Option (Nat × Nat)) => ({ s with shadows := mapAt s.shadows (Src.shadow src) fun _ => x } : State)
      if n = 4 ∧ off % 4 = 0 ∧ counterAt pg.kind off false then (put s (some (addr, s.readWord pg (off + 4))), b)
      else if n = 4 ∧ off % 4 = 0 ∧ counterAt pg.kind off true then
        match s.shadows.getD (Src.shadow src) none with
        | some (a, h) => if a + 4 = addr then (put s none, leBytes 4 h) else (s, b)
        | none => (s, b)
      else (if s.clears src pg then s.clearRead pg off (off + n) else s, b)

/-- A register read of any size and alignment: the bytes, page by page (R20, R22). -/
def State.busRead (s : State) (src : Src) (addr n : Nat) : State × List Byte :=
  (List.range ((addr + n - 1) / 0x1000 - addr / 0x1000 + 1)).foldl (fun (s, l) i =>
    let lo := max addr ((addr / 0x1000 + i) * 0x1000)
    let hi := min (addr + n) ((addr / 0x1000 + i + 1) * 0x1000)
    let (s, b) := s.pageRead src lo (hi - lo)
    (s, l ++ b)) (s, [])

/-! ## The sideband (R429) -/

/-- The SMBus Packet Error Code: CRC-8 with x^8 + x^2 + x + 1, from 0. -/
def smbPec (l : List Byte) : Byte :=
  l.foldl (fun c b => (List.range 8).foldl (fun (c : Byte) _ => if c.msb then (c <<< 1) ^^^ 0x07 else c <<< 1) (c ^^^ b)) 0

/-- The sideband's 7-bit address. -/
def State.smbAddr (s : State) : Nat := 0x58 + s.pins.smbAddr.toNat

/-- What a well-formed transaction does: a register write, a register read that returns its data, or a cold reset. -/
def State.smbAct (s : State) (t : SbTxn) : State :=
  let a := leAt t.body 0 4
  if t.code = 0x10 then s.busWrite .sideband [{ addr := a, data := leAt t.body 4 4, be := 15 }]
  else if t.code = 0x11 then
    let (s, b) := s.busRead .sideband a 4
    let w := BitVec.ofNat 8 (2 * s.smbAddr)
    let pec := smbPec ([w, t.code, t.count] ++ t.body ++ [w ||| 1, 4] ++ b)
    s.emit (.smb ([4] ++ b ++ if t.pec.isSome then [pec] else []))
  else s.startCold 3

/-- Whether a transaction is one of the table, with its count, a register address and the key (R429). -/
def sbOk (t : SbTxn) : Bool :=
  let n := if t.code = 0x10 then 8 else if t.code = 0x11 then 4 else if t.code = 0x1F then 1 else 0
  let a := leAt t.body 0 4
  decide (n ≠ 0) && t.count.toNat = n && t.body.length = n &&
    (if t.code = 0x1F then leAt t.body 0 1 = 0xC5 else a % 4 = 0 && decide (a ≤ 0x3FFFFFF))

/-- A sideband transaction: discarded and counted where it is bad or its Packet Error Code fails, and done otherwise (R429). -/
def State.smb (s : State) (t : SbTxn) : State :=
  let pecBad := t.pec = some false
  let s := if sbOk t then s else s.bump sbP MgtSideband.SB_BAD_CNT
  let s := if pecBad then s.bump sbP MgtSideband.SB_PEC_CNT else s
  if sbOk t && !pecBad then (s.bump sbP MgtSideband.SB_DONE_CNT).smbAct t else s

/-- SB_WRITE: sideband command 0x10. -/
def execSbWrite (t : SbTxn) (s : State) : Result := act (s.reaches .sideband) s fun s => s.smb t

/-- SB_READ: sideband command 0x11. -/
def execSbRead (t : SbTxn) (s : State) : Result := act (s.reaches .sideband) s fun s => s.smb t

/-- SB_COLD_RESET: sideband command 0x1F. -/
def execSbColdReset (t : SbTxn) (s : State) : Result := act (s.reaches .sideband) s fun s => s.smb t

/-- Whether SMB_ALERT# is asserted: a page of the management region raises its interrupt (R429). -/
def State.smbAlert (s : State) : Bool := [senseP, clkP, govP, limP, sbP].any s.irqOn

/-- ALERT_RESPONSE: while SMB_ALERT# is asserted the module answers with its own 7-bit address (R429). -/
def execAlertResponse (s : State) : Result :=
  act (s.reaches .sideband && s.smbAlert) s fun s => s.emit (.smb [BitVec.ofNat 8 s.smbAddr])

/-! ## Register commands -/

/-- REGISTER_WRITE: a write of any width and alignment, with its byte enables (R20, R32, R34). -/
def execRegisterWrite (src : Src) (addr : Nat) (data : List Byte) (be : List Bool) (s : State) : Result :=
  .next (s.busWrite src (wordsOf addr data be))

/-- What a read returns to its source. -/
def State.answer (s : State) (src : Src) (b : List Byte) : State :=
  match src with
  | .port p => s.emit (.completion p.val b false)
  | .sideband => s.emit (.smb b)

/-- READ_CLEAR: a read, which clears the RC fields that it covers wholly where its source is the page's owner (R10, R22, R30). -/
def execReadClear (src : Src) (addr len : Nat) (s : State) : Result :=
  act (s.reaches src && decide (0 < len)) s fun s =>
    let (s, b) := s.busRead src addr len
    s.answer src b

/-- LOW_HALF_SHADOW_READ: a 4-byte read of the low half of a 64-bit counter (R21). -/
def execLowHalfShadowRead (src : Src) (addr : Nat) (s : State) : Result :=
  act (s.reaches src) s fun s =>
    let (s, b) := s.busRead src addr 4
    s.answer src b

/-- PAGE_LOCK: a write of 1 to `PG_CTRL.LOCK` (R37). -/
def execPageLock (src : Src) (pg : Page) (s : State) : Result := .next (s.write4 src pg 0x08 1)

/-- SOFT_RESET: a write of 1 to `PG_CTRL.SOFT_RESET` (R434). -/
def execSoftReset (src : Src) (pg : Page) (s : State) : Result := .next (s.write4 src pg 0x08 2)

/-- RESET_BUSY_END: the reset time of a page is over (R434). -/
def execResetBusyEnd (pg : Page) (s : State) : Result :=
  act (s.live && s.isBusy pg && decide (spGet 0 s.busy pg.base ≤ s.time)) s fun s => { s with busy := spPut 0 s.busy pg.base 0 }

/-- IRQ_SET: a write of `PG_IRQ_SET` (R23). -/
def execIrqSet (src : Src) (pg : Page) (v : W32) (s : State) : Result := .next (s.write4 src pg 0x18 v.toNat)

/-- ADMIN_PORT_WRITE: a write of `GLB_CTRL.ADMIN_PORT` (R27). -/
def execAdminPortWrite (src : Src) (v : BitVec 2) (s : State) : Result := .next (s.write4 src glbP 0x40 v.toNat)

/-- ZONE_VIEW_WRITE: a write of `ZONE_VIEW` word `w` (R93). -/
def execZoneViewWrite (src : Src) (w : Fin 16) (v : W32) (s : State) : Result := .next (s.write4 src carveP (0x80 + 4 * w.val) v.toNat)

/-- RUN_START: a write of `TKG_SRC_CTRL` with `RUN` = 1 (R50). -/
def execRunStart (src : Src) (v : W32) (s : State) : Result := .next (s.write4 src srcP 0x40 (v ||| 1).toNat)

/-- RUN_STOP: a write of `TKG_SRC_CTRL` with `RUN` = 0 (R54). -/
def execRunStop (src : Src) (v : W32) (s : State) : Result := .next (s.write4 src srcP 0x40 (v &&& ~~~ 1).toNat)

/-- RELOCK: a write of `TKG_SRC_CTRL` with `RELOCK` = 1 (R52). -/
def execRelock (src : Src) (v : W32) (s : State) : Result := .next (s.write4 src srcP 0x40 (v ||| 4).toNat)

/-- COMMIT: a write of 1 to `WIN_COMMIT.COMMIT` (R60). -/
def execCommit (src : Src) (s : State) : Result := .next (s.write4 src winP 0x54 1)

/-- HALT_ARM: a write of `HALT_CTRL_h` with `ARM` = 1 (R289). -/
def execHaltArm (src : Src) (h : Fin 4) (v : W32) (s : State) : Result := .next (s.write4 src plvP (0x80 + 0x20 * h.val) (v ||| 1).toNat)

/-- EVQ_HEAD_WRITE: a write of a context's `EVQ_HEAD` (R317). -/
def execEvqHeadWrite (src : Src) (c : Fin 64) (v : W32) (s : State) : Result := .next (s.write4 src (ctxP c.val) 0x6C v.toNat)

/-- DOORBELL: a write of `QDB_TAIL` (R300). -/
def execDoorbell (src : Src) (q : Fin 256) (v : W32) (s : State) : Result := .next (s.write4 src (qdbP q.val) 0x40 v.toNat)

/-- QDB_CFG_WRITE: a write of `QDB_CFG` (R300). -/
def execQdbCfgWrite (src : Src) (q : Fin 256) (v : W32) (s : State) : Result := .next (s.write4 src (qdbP q.val) 0x48 v.toNat)

/-- REF_ADD: a write of `REF_DB` with `OP` 0b01 (R320). -/
def execRefAdd (src : Src) (q : Fin 256) (obj : BitVec 16) (s : State) : Result :=
  .next (s.write4 src (qdbP q.val) 0x50 (obj.toNat + 0x10000))

/-- REF_SUBTRACT: a write of `REF_DB` with `OP` 0b10 (R320). -/
def execRefSubtract (src : Src) (q : Fin 256) (obj : BitVec 16) (s : State) : Result :=
  .next (s.write4 src (qdbP q.val) 0x50 (obj.toNat + 0x20000))

/-- REF_DB_NOP: a write of `REF_DB` with `OP` 0b00 or 0b11 (R320). -/
def execRefDbNop (src : Src) (q : Fin 256) (obj : BitVec 16) (both : Bool) (s : State) : Result :=
  .next (s.write4 src (qdbP q.val) 0x50 (obj.toNat + if both then 0x30000 else 0))

/-- CTX_REQUEST: a write of `CTX_REQ` with `GO` (R297). -/
def execCtxRequest (src : Src) (p : Fin 4) (stream : Bool) (group : BitVec 2) (s : State) : Result :=
  .next (s.write4 src (linkP p.val) 0x48 (1 + 2 * b2n stream + 4 * group.toNat))

/-- QUEUE_GRANT: a write of `QREQ_GO` with `GO` (R301). -/
def execQueueGrant (src : Src) (p : Fin 4) (s : State) : Result := .next (s.write4 src (linkP p.val) 0x5C 1)

/-- QUEUE_RELEASE: a write of `QREQ_GO` with `RELEASE` (R301). -/
def execQueueRelease (src : Src) (p : Fin 4) (q : BitVec 9) (s : State) : Result :=
  .next (s.write4 src (linkP p.val) 0x5C (2 * q.toNat + 0x400))

/-- CONTEXT_RESET: a write of `CTX_CTRL` with `RESET` (R298). -/
def execContextReset (src : Src) (c : Fin 64) (s : State) : Result := .next (s.write4 src (ctxP c.val) 0x44 1)

/-- CONTEXT_RELEASE: a write of `CTX_CTRL` with `RELEASE` (R298). -/
def execContextRelease (src : Src) (c : Fin 64) (s : State) : Result := .next (s.write4 src (ctxP c.val) 0x44 2)

/-- TRIP_CLEAR: a write of 1 to `TRIPPED` (R358). -/
def execTripClear (src : Src) (v : W32) (s : State) : Result := .next (s.write4 src limP 0x4C (v ||| 1).toNat)

/-- ANI_CTRL_WRITE: a write of `ANI_CTRL` (R365). -/
def execAniCtrlWrite (src : Src) (v : W32) (s : State) : Result := .next (s.write4 src aniP 0x40 v.toNat)

/-- HLT_CLEAR: a write of `HLT_CLEAR` (R372). -/
def execHltClear (src : Src) (v : W32) (s : State) : Result := .next (s.write4 src hltP 0x48 v.toNat)

/-- PAT_MIN_SERIAL_WRITE: an 8-byte write of `PAT_MIN_SERIAL` (R21, R382). -/
def execPatMinSerialWrite (src : Src) (v : W64) (s : State) : Result := .next (s.busWrite src (wordsOf (patP.base + 0x58) (leBytes 8 v.toNat) (List.replicate 8 true)))

/-- FRU_HEAD_WRITE: a write of `FRU_HEAD` (R377). -/
def execFruHeadWrite (src : Src) (v : W32) (s : State) : Result := .next (s.write4 src ⟨.fru, 0, 0⟩ 0x48 v.toNat)

/-- RESUME: a write of 1 to `CTX_RESUME.RESUME` (R396). -/
def execResume (src : Src) (c : Fin 64) (s : State) : Result := .next (s.write4 src (ctxP c.val) 0xCC 1)

/-- PAIR_RESET: a write of 1 to `PAIR_RESET` (R403). -/
def execPairReset (src : Src) (s : State) : Result := .next (s.write4 src cloveP 0x44 1)

/-- GLB_RESET: a write of `GLB_RESET.KEY` (R415). -/
def execGlbReset (src : Src) (v : W32) (s : State) : Result := .next (s.write4 src glbP 0xC0 v.toNat)

end Sys2Proof.Machine
end

