-- ==== Sys2Proof/Machine/Dispatch.lean ====
section
/-! DEFINITION. The dispatch of a command to its meaning, one arm per row of the table. -/

namespace Sys2Proof.Machine

/-- The effect of a command on everything but the queue. -/
def exec (i : Instr) (s : State) : Host.Outcome State Fault Refusal :=
  match i with
  | .registerWrite src addr data be => Sys2Proof.Machine.execRegisterWrite src addr data be s
  | .readClear src addr len => Sys2Proof.Machine.execReadClear src addr len s
  | .lowHalfShadowRead src addr => Sys2Proof.Machine.execLowHalfShadowRead src addr s
  | .pageLock src pg => Sys2Proof.Machine.execPageLock src pg s
  | .softReset src pg => Sys2Proof.Machine.execSoftReset src pg s
  | .resetBusyEnd pg => Sys2Proof.Machine.execResetBusyEnd pg s
  | .irqSet src pg v => Sys2Proof.Machine.execIrqSet src pg v s
  | .adminPortWrite src v => Sys2Proof.Machine.execAdminPortWrite src v s
  | .zoneViewWrite src w v => Sys2Proof.Machine.execZoneViewWrite src w v s
  | .runStart src v => Sys2Proof.Machine.execRunStart src v s
  | .runStop src v => Sys2Proof.Machine.execRunStop src v s
  | .firstTick => Sys2Proof.Machine.execFirstTick s
  | .tickInEdge => Sys2Proof.Machine.execTickInEdge s
  | .syntheticEdge => Sys2Proof.Machine.execSyntheticEdge s
  | .relock src v => Sys2Proof.Machine.execRelock src v s
  | .internalTick => Sys2Proof.Machine.execInternalTick s
  | .computeStart => Sys2Proof.Machine.execComputeStart s
  | .computeEnd => Sys2Proof.Machine.execComputeEnd s
  | .gapEnd => Sys2Proof.Machine.execGapEnd s
  | .refreshPoint => Sys2Proof.Machine.execRefreshPoint s
  | .hostCut c => Sys2Proof.Machine.execHostCut c s
  | .commit src => Sys2Proof.Machine.execCommit src s
  | .bandChange => Sys2Proof.Machine.execBandChange s
  | .tickOutFall => Sys2Proof.Machine.execTickOutFall s
  | .fabricLoad cmd => Sys2Proof.Machine.execFabricLoad cmd s
  | .fabricResetComplete => Sys2Proof.Machine.execFabricResetComplete s
  | .imageFrame illegal => Sys2Proof.Machine.execImageFrame illegal s
  | .portCheck a => Sys2Proof.Machine.execPortCheck a s
  | .ioBankCheck options => Sys2Proof.Machine.execIoBankCheck options s
  | .hostMemoryRead p ap addr len upsets => Sys2Proof.Machine.execHostMemoryRead p ap addr len upsets s
  | .hostMemoryWrite p ap addr bytes badParity => Sys2Proof.Machine.execHostMemoryWrite p ap addr bytes badParity s
  | .repairWrite k c => Sys2Proof.Machine.execRepairWrite k c s
  | .memInitStart untrained => Sys2Proof.Machine.execMemInitStart untrained s
  | .stackInitDone k => Sys2Proof.Machine.execStackInitDone k s
  | .memInitDone => Sys2Proof.Machine.execMemInitDone s
  | .initFail k => Sys2Proof.Machine.execInitFail k s
  | .refreshDebtAccrue => Sys2Proof.Machine.execRefreshDebtAccrue s
  | .refresh => Sys2Proof.Machine.execRefresh s
  | .buNop id => Sys2Proof.Machine.execBuNop id s
  | .buDot id n => Sys2Proof.Machine.execBuDot id n s
  | .buFill id n => Sys2Proof.Machine.execBuFill id n s
  | .buCopy id n => Sys2Proof.Machine.execBuCopy id n s
  | .buDigest id n => Sys2Proof.Machine.execBuDigest id n s
  | .buRun id => Sys2Proof.Machine.execBuRun id s
  | .buCommandStart id => Sys2Proof.Machine.execBuCommandStart id s
  | .buCommandComplete id => Sys2Proof.Machine.execBuCommandComplete id s
  | .cycleLimit id => Sys2Proof.Machine.execCycleLimit id s
  | .chainFlit u badParity => Sys2Proof.Machine.execChainFlit u badParity s
  | .uNop u => Sys2Proof.Machine.execUNop u s
  | .uEnd u => Sys2Proof.Machine.execUEnd u s
  | .uLdi u => Sys2Proof.Machine.execULdi u s
  | .uMov u => Sys2Proof.Machine.execUMov u s
  | .uAdd u => Sys2Proof.Machine.execUAdd u s
  | .uAdds u => Sys2Proof.Machine.execUAdds u s
  | .uSub u => Sys2Proof.Machine.execUSub u s
  | .uSubs u => Sys2Proof.Machine.execUSubs u s
  | .uMul u => Sys2Proof.Machine.execUMul u s
  | .uMuls u => Sys2Proof.Machine.execUMuls u s
  | .uDiv u => Sys2Proof.Machine.execUDiv u s
  | .uRem u => Sys2Proof.Machine.execURem u s
  | .uNeg u => Sys2Proof.Machine.execUNeg u s
  | .uAbs u => Sys2Proof.Machine.execUAbs u s
  | .uAnd u => Sys2Proof.Machine.execUAnd u s
  | .uOr u => Sys2Proof.Machine.execUOr u s
  | .uXor u => Sys2Proof.Machine.execUXor u s
  | .uShl u => Sys2Proof.Machine.execUShl u s
  | .uShls u => Sys2Proof.Machine.execUShls u s
  | .uShr u => Sys2Proof.Machine.execUShr u s
  | .uSar u => Sys2Proof.Machine.execUSar u s
  | .uMin u => Sys2Proof.Machine.execUMin u s
  | .uMax u => Sys2Proof.Machine.execUMax u s
  | .uAddi u => Sys2Proof.Machine.execUAddi u s
  | .uBr u => Sys2Proof.Machine.execUBr u s
  | .uBz u => Sys2Proof.Machine.execUBz u s
  | .uBnz u => Sys2Proof.Machine.execUBnz u s
  | .uBlt u => Sys2Proof.Machine.execUBlt u s
  | .uLoop u => Sys2Proof.Machine.execULoop u s
  | .uLdb u => Sys2Proof.Machine.execULdb u s
  | .uStb u => Sys2Proof.Machine.execUStb u s
  | .uLdw u => Sys2Proof.Machine.execULdw u s
  | .uStw u => Sys2Proof.Machine.execUStw u s
  | .uXw u => Sys2Proof.Machine.execUXw u s
  | .uIw u => Sys2Proof.Machine.execUIw u s
  | .uDotb u => Sys2Proof.Machine.execUDotb u s
  | .uDotm u => Sys2Proof.Machine.execUDotm u s
  | .uBadd u => Sys2Proof.Machine.execUBadd u s
  | .uBmul u => Sys2Proof.Machine.execUBmul u s
  | .uBmax u => Sys2Proof.Machine.execUBmax u s
  | .uBmin u => Sys2Proof.Machine.execUBmin u s
  | .uCrecv u => Sys2Proof.Machine.execUCrecv u s
  | .uCsend u => Sys2Proof.Machine.execUCsend u s
  | .uCadd u => Sys2Proof.Machine.execUCadd u s
  | .uFlags u => Sys2Proof.Machine.execUFlags u s
  | .shadowFill n badParity => Sys2Proof.Machine.execShadowFill n badParity s
  | .broadcastSwap n => Sys2Proof.Machine.execBroadcastSwap n s
  | .rippleSwap n => Sys2Proof.Machine.execRippleSwap n s
  | .weightRowRead n badParity => Sys2Proof.Machine.execWeightRowRead n badParity s
  | .chainResultDelivery id => Sys2Proof.Machine.execChainResultDelivery id s
  | .chainMerge n z badParity => Sys2Proof.Machine.execChainMerge n z badParity s
  | .productComplete n => Sys2Proof.Machine.execProductComplete n s
  | .bundle n up => Sys2Proof.Machine.execBundle n up s
  | .extResponse n r => Sys2Proof.Machine.execExtResponse n r s
  | .extWatchdog n tag => Sys2Proof.Machine.execExtWatchdog n tag s
  | .transferComplete n id badParity => Sys2Proof.Machine.execTransferComplete n id badParity s
  | .opResultWrite n id => Sys2Proof.Machine.execOpResultWrite n id s
  | .programEnd c => Sys2Proof.Machine.execProgramEnd c s
  | .segmentEnd c => Sys2Proof.Machine.execSegmentEnd c s
  | .hostSegmentDispatch c => Sys2Proof.Machine.execHostSegmentDispatch c s
  | .haltArm src h v => Sys2Proof.Machine.execHaltArm src h v s
  | .haltDump h => Sys2Proof.Machine.execHaltDump h s
  | .entryFetch p q entry => Sys2Proof.Machine.execEntryFetch p q entry s
  | .queueNop cmd => Sys2Proof.Machine.execQueueNop cmd s
  | .objCreate cmd frames => Sys2Proof.Machine.execObjCreate cmd frames s
  | .objImport cmd => Sys2Proof.Machine.execObjImport cmd s
  | .objUnmap cmd => Sys2Proof.Machine.execObjUnmap cmd s
  | .descWrite cmd source => Sys2Proof.Machine.execDescWrite cmd source s
  | .buCmd cmd => Sys2Proof.Machine.execBuCmd cmd s
  | .admitProgram cmd => Sys2Proof.Machine.execAdmitProgram cmd s
  | .admitUprog cmd => Sys2Proof.Machine.execAdmitUprog cmd s
  | .admitRoutine cmd => Sys2Proof.Machine.execAdmitRoutine cmd s
  | .admissionComplete => Sys2Proof.Machine.execAdmissionComplete s
  | .release cmd => Sys2Proof.Machine.execRelease cmd s
  | .progRun cmd => Sys2Proof.Machine.execProgRun cmd s
  | .streamAttach cmd => Sys2Proof.Machine.execStreamAttach cmd s
  | .streamDetach cmd => Sys2Proof.Machine.execStreamDetach cmd s
  | .patternLoad cmd => Sys2Proof.Machine.execPatternLoad cmd s
  | .query cmd => Sys2Proof.Machine.execQuery cmd s
  | .commandComplete cmd => Sys2Proof.Machine.execCommandComplete cmd s
  | .eventDelivery c => Sys2Proof.Machine.execEventDelivery c s
  | .evqHeadWrite src c v => Sys2Proof.Machine.execEvqHeadWrite src c v s
  | .doorbell src q v => Sys2Proof.Machine.execDoorbell src q v s
  | .qdbCfgWrite src q v => Sys2Proof.Machine.execQdbCfgWrite src q v s
  | .refAdd src q obj => Sys2Proof.Machine.execRefAdd src q obj s
  | .refSubtract src q obj => Sys2Proof.Machine.execRefSubtract src q obj s
  | .refDbNop src q obj both => Sys2Proof.Machine.execRefDbNop src q obj both s
  | .ctxRequest src p stream group => Sys2Proof.Machine.execCtxRequest src p stream group s
  | .queueGrant src p => Sys2Proof.Machine.execQueueGrant src p s
  | .queueRelease src p q => Sys2Proof.Machine.execQueueRelease src p q s
  | .queueReleaseDone q => Sys2Proof.Machine.execQueueReleaseDone q s
  | .contextReset src c => Sys2Proof.Machine.execContextReset src c s
  | .contextRelease src c => Sys2Proof.Machine.execContextRelease src c s
  | .portLoss p why => Sys2Proof.Machine.execPortLoss p why s
  | .teardownEdge t => Sys2Proof.Machine.execTeardownEdge t s
  | .teardownDone t => Sys2Proof.Machine.execTeardownDone t s
  | .powerStateChange p d3hot => Sys2Proof.Machine.execPowerStateChange p d3hot s
  | .linkUp p rate => Sys2Proof.Machine.execLinkUp p rate s
  | .perstRelease p => Sys2Proof.Machine.execPerstRelease p s
  | .rxAlignBlock l payload => Sys2Proof.Machine.execRxAlignBlock l payload s
  | .alignMissed l => Sys2Proof.Machine.execAlignMissed l s
  | .invalidSyncHeader l => Sys2Proof.Machine.execInvalidSyncHeader l s
  | .rxIdleBlock l => Sys2Proof.Machine.execRxIdleBlock l s
  | .rxReservedBlock l type => Sys2Proof.Machine.execRxReservedBlock l type s
  | .rxFrameBlock l payload => Sys2Proof.Machine.execRxFrameBlock l payload s
  | .rxSegBlock l payload => Sys2Proof.Machine.execRxSegBlock l payload s
  | .rxDataBlock l data => Sys2Proof.Machine.execRxDataBlock l data s
  | .rxSegEndBlock l payload => Sys2Proof.Machine.execRxSegEndBlock l payload s
  | .decisionOutput => Sys2Proof.Machine.execDecisionOutput s
  | .trigPulseEnd j => Sys2Proof.Machine.execTrigPulseEnd j s
  | .sensorSample r => Sys2Proof.Machine.execSensorSample r s
  | .governorEvaluation => Sys2Proof.Machine.execGovernorEvaluation s
  | .clockStep => Sys2Proof.Machine.execClockStep s
  | .tripClear src v => Sys2Proof.Machine.execTripClear src v s
  | .sampleShip n done => Sys2Proof.Machine.execSampleShip n done s
  | .aniseReplay id n result => Sys2Proof.Machine.execAniseReplay id n result s
  | .sampleExpire id => Sys2Proof.Machine.execSampleExpire id s
  | .aniCtrlWrite src v => Sys2Proof.Machine.execAniCtrlWrite src v s
  | .healthRecover n => Sys2Proof.Machine.execHealthRecover n s
  | .hltClear src v => Sys2Proof.Machine.execHltClear src v s
  | .reverification => Sys2Proof.Machine.execReverification s
  | .builtInTest n digests finished => Sys2Proof.Machine.execBuiltInTest n digests finished s
  | .patternRun => Sys2Proof.Machine.execPatternRun s
  | .patMinSerialWrite src v => Sys2Proof.Machine.execPatMinSerialWrite src v s
  | .fruHeadWrite src v => Sys2Proof.Machine.execFruHeadWrite src v s
  | .resume src c => Sys2Proof.Machine.execResume src c s
  | .scrubPass selfCheck => Sys2Proof.Machine.execScrubPass selfCheck s
  | .scrubFrame upsets => Sys2Proof.Machine.execScrubFrame upsets s
  | .heartbeatTimeout engineB => Sys2Proof.Machine.execHeartbeatTimeout engineB s
  | .pairReset src => Sys2Proof.Machine.execPairReset src s
  | .powerReset => Sys2Proof.Machine.execPowerReset s
  | .powerResetEnd smbAddr => Sys2Proof.Machine.execPowerResetEnd smbAddr s
  | .coldReset => Sys2Proof.Machine.execColdReset s
  | .coldResetEnd bifur adminSel => Sys2Proof.Machine.execColdResetEnd bifur adminSel s
  | .glbReset src v => Sys2Proof.Machine.execGlbReset src v s
  | .railFault r => Sys2Proof.Machine.execRailFault r s
  | .railInBand r => Sys2Proof.Machine.execRailInBand r s
  | .clockLoss k => Sys2Proof.Machine.execClockLoss k s
  | .timebaseLock => Sys2Proof.Machine.execTimebaseLock s
  | .criticalTemp => Sys2Proof.Machine.execCriticalTemp s
  | .sbWrite t => Sys2Proof.Machine.execSbWrite t s
  | .sbRead t => Sys2Proof.Machine.execSbRead t s
  | .sbColdReset t => Sys2Proof.Machine.execSbColdReset t s
  | .alertResponse => Sys2Proof.Machine.execAlertResponse s
  | .bypass => Sys2Proof.Machine.execBypass s
  | .idcode => Sys2Proof.Machine.execIdcode s
  | .samplePreload levels cells => Sys2Proof.Machine.execSamplePreload levels cells s
  | .extest => Sys2Proof.Machine.execExtest s
  | .clamp => Sys2Proof.Machine.execClamp s
  | .highz => Sys2Proof.Machine.execHighz s
  | .blockLock l => Sys2Proof.Machine.execBlockLock l s
  | .clockReturn k => Sys2Proof.Machine.execClockReturn k s
  | .tripleLatchUpset engineB illegal => Sys2Proof.Machine.execTripleLatchUpset engineB illegal s

end Sys2Proof.Machine
end

