-- ==== Sys2Proof/Machine/Idle.lean ====
section
/-! DEFINITION. What an idle step does: one nanosecond of the module's time passes (log 1). -/

namespace Sys2Proof.Machine

/-- `TKG_TIME` counts while the timebase is locked (R413), in every state but the critical one, where every clock stops
(R428). The transmit lanes go on with their blocks (R342). -/
def idle (s : State) : State :=
  if s.power.critical then s
  else
    let s := { s with power := { s.power with now := s.power.now + 1 }, time := if s.power.locked then (s.time + 1) % 2 ^ 64 else s.time }
    (List.range 4).foldl State.txTick s

end Sys2Proof.Machine
end

