-- ==== Sys2Proof/Safety.lean ====
section
/-! DEFINITION. What counts as a safe state of the block, in the terms that the statements use. -/

namespace Sys2Proof.Machine

/-- A sparse table in canonical form: keys strictly rising. -/
def spWfFrom {α : Type} : Nat → Sp α → Bool
  | _, [] => true
  | n, (k, _) :: t => decide (n ≤ k) && spWfFrom (k + 1) t

def spWf {α : Type} (t : Sp α) : Bool := spWfFrom 0 t

/-- The resets nest: a POWER reset holds the COLD domain too, and no timebase is locked while one of them holds (R39, R410, R413). -/
def Power.nested (p : Power) : Bool := (!p.inPower || p.inCold) && (!p.inCold || !p.locked)

/-- What holds of every state that a run reaches: device memory and the register file are in canonical form, and the resets nest. -/
def State.wf (s : State) : Bool := Memory.wf s.mem && spWf s.regs && s.power.nested

/-- A port may write a page: its link is up and no teardown of it is in progress, the page is implemented, neither in reset nor locked, and the
port is the admin port or the page's owner (R29, R32, R37, R294, R321, R434). -/
def State.letsWrite (s : State) (p : Fin 4) (pg : Page) : Bool :=
  s.reaches (.port p) && !s.on (linkP p.val) HptLink.TEARDOWN_BUSY && decide (s.pageAt pg.base = some pg) && !s.isBusy pg &&
    !(s.on pg Hdr.LOCK && pg.kind.lockable) && (s.admin = p.val || (pg.kind.owned && s.owner pg = some p.val))

/-- Every register field other than those listed is as it was. -/
def sameRegs (s t : State) (l : List (Page × Fld)) : Prop :=
  ∀ pg f, (∀ e ∈ l, regKey pg f ≠ regKey e.1 e.2) → t.f pg f = s.f pg f

/-- Every byte of device memory is as it was. -/
def sameMemory (s t : State) : Prop := ∀ view a, t.peek view a 1 = s.peek view a 1

/-- The stored beats that bytes of a view lie in hold no error (R104). -/
def State.cleanAt (s : State) (view : Bool) (a n : Nat) : Prop := ∀ i, i < n → spGet 0 s.syn (viewAddr view (a + i) / 32) = 0

/-- The entries of the frame and object tables that decide on an access to these granules are clean (R296). -/
def State.tablesClean (s : State) (g : List (Nat × Nat × Nat)) : Prop :=
  ∀ e ∈ g, inCarve e.1 = false →
    let pfn := frameOf (s.zoneBank (zoneOf e.1)) e.1
    s.cleanAt false (poolAddr + 4 * pfn) 4 ∧ ((s.frameEntry pfn).2 = true → s.cleanAt false (objAddr (s.frameEntry pfn).1) 32)

/-- The table entries that a walk of a device virtual address reads are clean (R310). -/
def State.walkClean (s : State) (c va : Nat) : Prop :=
  ∀ p, (s.cx c).l1 = some p →
    let a1 := tableAddr p (fld va 39 28)
    let e1 := s.peekN a1 8
    s.cleanAt false a1 8 ∧ (e1.testBit 0 = true → s.cleanAt false (tableAddr (fld e1 13 1) (fld va 27 16)) 8)

/-- No slice holds a run-ahead tile, so that no write to memory discards one (R348). -/
def State.noneHeld (s : State) : Prop := ∀ n, (s.slice n).ra = []

/-- Bytes `l` stand at a device virtual address: every page is mapped, the tables and the beats are clean, and memory holds them (R104, R314). -/
def State.bytesAt (s : State) (c va : Nat) (l : List Byte) : Prop :=
  s.unmapped c va l.length = none ∧ (∀ e ∈ pageSpans va l.length, s.walkClean c e.1) ∧ (∀ b ∈ s.beatsVa c va l.length, spGet 0 s.syn b = 0) ∧
  ((pageSpans va l.length).flatMap fun (a, k) => match s.xlate c a with
    | some (v, x) => s.peek v x k
    | none => []) = l

/-- The object that a device virtual address of a context lies in, as a list (R310). -/
def State.objOf (s : State) (c va : Nat) : List Nat := ((s.walk c va).map (·.obj)).toList

/-- `t` holds one more device reference to each object of `l` than `s`, where the object exists (R318). -/
def State.holds (s t : State) (l : List Nat) : Prop :=
  ∀ o ∈ l, s.wf = true → o < 65536 → s.refs o ≠ 0 → refDev (s.refs o) < 65535 → t.refs o = s.refs o + 2 ^ 48

/-- The bytes of a beat that a port last wrote through the other aperture than `ap`, with no completed read since (R113). -/
def State.crossed (s : State) (p : Fin 4) (ap : Aperture) (beat : Nat) : Nat :=
  let e := spGet (0, 0) s.twoViews (p.val * 2 ^ 30 + beat)
  if ap = .bank then e.1 else e.2

/-- Tick `n` has begun with its edge at `at_`, and its compute window has not opened (R50, R57). -/
def State.began (t : State) (n at_ : Nat) : Bool :=
  t.tkg.phase = .beforeCompute && t.tkg.edgeAt = at_ && t.tkg.pointsDone = 0 && t.tickNum = n && t.on srcP TkgSrc.RUNNING

/-- What a command leaves alone that touches neither the host objects nor the programs admitted. -/
def sameObjects (s t : State) : Prop :=
  t.tpages = s.tpages ∧ t.zoneCount = s.zoneCount ∧ t.objInfo = s.objInfo ∧ t.hib = s.hib ∧ t.ports = s.ports ∧ t.ustore = s.ustore ∧
  t.held = s.held ∧ t.plv.routines = s.plv.routines ∧ t.plv.uprogs = s.plv.uprogs

/-- A bank unit stands at a word of its running micro-program: the RUN and its part, the word, and the unit's registers (R126, R127). -/
def State.atWord (s : State) (u : BuId) (op : Nat) (x : UCtx) (w : UWord) (b : BuState) : Prop :=
  s.uCtx u = some x ∧ s.bu (buIdKey u) = b ∧ x.lo ≤ b.pc ∧ b.pc < x.hi ∧ uWord (spGet 0 s.ustore (buIdKey u * 1024 + b.pc)) = w ∧ w.uop = op ∧
  x.c.stack = u.stack.val ∧ x.c.chan = u.chan.val

/-- After word `w`, which took `n` cycles and left the unit's registers at `b`: what derives from a poisoned partial stays marked, and the part
collects the flags (R127, R130). -/
def State.afterWord (s : State) (u : BuId) (x : UCtx) (w : UWord) (b : BuState) (n : Nat) : State :=
  (s.setBu (buIdKey u) { b with bad := b.taint w }).putPart x.c { x.p with cyc := x.p.cyc + n, flags := x.p.flags ||| b.flags }

/-- `d` is command `c` after up to `n` more beats or rows of each of its parts: a part that runs takes them all where its limit leaves it `room`
cycles, and a part that has ended or yielded is as it was (R115, R123). -/
def BuCmd.progress (c d : BuCmd) (n room : Nat) : Prop :=
  d = { c with parts := d.parts } ∧ d.parts.length = c.parts.length ∧ ∀ (j : Nat) (p q : BuPart), c.parts[j]? = some p → d.parts[j]? = some q →
    q.bank = p.bank ∧ p.at_ ≤ q.at_ ∧ (c.canStep p = false → q = p) ∧
    (c.canStep p = true → p.at_ < c.count → c.limit = 0 ∨ p.cyc + room ≤ c.limit → q.at_ = min (p.at_ + n) c.count)

/-- A value brought into the range of a signed 32-bit word (R211). -/
def clamp32 (v : Int) : Int := max (-2147483648) (min 2147483647 v)

/-- A slice is about to run a repetition of bundle `b`, which is legal, unconditional and waits for nothing (R218, R222, R238, R289). -/
def State.atBundle (s : State) (n : Fin 16) (b : Bundle) : Prop :=
  let x := s.slice n.val
  s.clocked = true ∧ x.run = true ∧ x.halted = false ∧ x.wait = none ∧ (s.cx x.ctx).halting = [] ∧ x.fetch = b ∧ x.pend = [] ∧ x.xfers = [] ∧
  x.ext = [] ∧ b.pen = false ∧ 1 ≤ b.rept ∧ b.bad = none ∧ (x.begun = true ∨ ∀ h, h < 4 → s.on plvP (Plv.HALT_ARM.at h) = false)

/-- The descriptors that the bundle at a slice's PC names, and those of their index tensors, are clean (R247). -/
def State.descsClean (s : State) (n : Nat) : Prop :=
  let x := s.slice n
  ∀ h ∈ x.fetch.handles, s.cleanAt false (descAddr x.ctx h) 64 ∧
    ((s.desc x.ctx h).idxEn = true → s.cleanAt false (descAddr x.ctx (s.desc x.ctx h).idxHandle) 64)

/-- The bundle of a slice's next repetition, after one that does not jump (R222). -/
def nextRep (x : Slice) (b : Bundle) : Nat × Nat := if x.rep + 1 < b.rept then (x.pc % 2 ^ 14, x.rep + 1) else ((x.pc + 1) % 2 ^ 14, 0)

/-- A fetched queue command `c` with work, known by its identifier, may start (R298, R302, R303, R306, R318). -/
def State.ready (s : State) (id op : Nat) (c : Cmd) : Prop :=
  s.live = true ∧ s.findCmd id = some c ∧ c.opcode = op ∧ c.len ≠ 0 ∧ s.mayStart c = true ∧ s.ctxState c.ctx ≠ stDead ∧ c.refs = c.objs

/-- A queue command has ended with a status, result and detail, and waits to be completed (R304, R306). -/
def State.ended (t : State) (id st result detail : Nat) : Prop := ∃ c, t.findCmd id = some c ∧ c.st = .done st result detail

/-- A queue command has started and goes on (R304). -/
def State.started (t : State) (id : Nat) : Prop := ∃ c, t.findCmd id = some c ∧ c.st = .started

/-- A receive lane whose blocks reach the open frame of group `g`, and that expects no ALIGN block now (R325, R327, R328, R337). -/
def State.atLane (s : State) (l : Fin 32) (g : Nat) : Prop :=
  s.live = true ∧ s.rxRuns l.val = true ∧ s.on rxP (SibRx.BLOCK_LOCK.at l.val) = true ∧ s.laneGroup l.val = some g ∧
  s.on (grpP g) SibGrp.GROUP_ALIGNED = true ∧ s.attached g = true ∧ (s.grp g).frame.open_ = true ∧ (s.lane l.val).due = false

/-- What a block of the stream link leaves alone, beside memory. -/
def sameBeside (s t : State) : Prop :=
  t.slices = s.slices ∧ t.ctxs = s.ctxs ∧ t.cmds = s.cmds ∧ t.bus = s.bus ∧ t.tkg = s.tkg ∧ t.time = s.time ∧ t.plv = s.plv

/-- Bytes `l` of the staged image at an offset (R80, R82). -/
def State.imageAt (s : State) (off : Nat) (l : List Byte) : Prop := s.bytesAt s.fab.ctx (s.fab.imageVa + off) l

/-- What a cold reset for a cause leaves: every block at its reset values under `RST_CAUSE`, the count and the sensors kept (R39, R410, R412). -/
def State.coldFor (t s : State) (cause : Nat) : Prop :=
  t.power.inCold = true ∧ t.power.locked = false ∧ t.power.coldSince = s.power.now ∧ t.f senseP MgtSense.RST_CAUSE = cause ∧
  t.f senseP MgtSense.COLD_CNT = satN MgtSense.COLD_CNT.width (s.f senseP MgtSense.COLD_CNT + 1) ∧ t.f senseP MgtSense.TEMP_MAX = s.f senseP MgtSense.TEMP_MAX ∧
  (∀ c, c < 64 → t.ctxState c = stFree) ∧ t.mem = [] ∧ t.slices = [] ∧ t.ctxs = [] ∧ t.cmds = [] ∧ t.bus = [] ∧ t.tkg = {} ∧ t.fuses = s.fuses

/-- The block has stopped for good: critical temperature (R428). -/
def State.stopped (s : State) : Bool := s.power.critical

end Sys2Proof.Machine
end

