-- ==== Sys2Proof/WellFormed.lean ====
section
/-! DEFINITION. Which commands are well formed: operands within the ranges that the rules give them. A command that is
not well formed stands for no event of the module. -/

namespace Sys2Proof

/-- A page of the index: its instance within its region's range (R41). -/
def Page.wf (p : Page) : Bool :=
  match p.kind with
  | .hptLink | .hptXlate | .hptEvent | .hptPace => p.inst < 4 && p.sub = 0
  | .ctx => p.inst < 64 && p.sub = 0
  | .qdb => p.inst < 256 && p.sub = 0
  | .slcCap | .slcSeq | .slcPerf | .slcHealth | .slcTb | .slcPort | .slcExt => p.inst < 16 && p.sub = 0
  | .stkCap | .stkMcr | .stkRefresh | .stkEcc | .stkBu => p.inst < 4 && p.sub = 0
  | .stkCh => p.inst < 4 && p.sub < 16
  | .sibGrp => p.inst < 4 && p.sub = 0
  | _ => p.inst = 0 && p.sub = 0

/-- An upset strikes one of the 272 stored bits of a beat (R103). -/
def Flip.wf (f : Flip) : Bool := f.bit < 272

/-- An upset of a register strikes one that there is: 28 scalar registers, 32 vector registers of 64 lanes (R215 to R217, R225). -/
def RegHit.wf : RegHit → Bool
  | .scalar code => code < 28
  | .lane r l => r < 32 && l < 64

/-- An optional byte string has the given length. -/
def lenIs (l : Option (List Byte)) (n : Nat) : Bool :=
  match l with
  | some b => b.length = n
  | none => true

/-- The register aperture is 64 MiB (R293). -/
def apertureBytes : Nat := 0x4000000

/-- The boundary register has one cell for each ball that R432 names: 192 user I/O, 16 TRIG_OUT, TICK_OUT, THERM_TRIP#, SYS_RST#, 4 PERST# and
6 straps. -/
def boundaryCells : Nat := 221

def Instr.wf : Instr → Bool
  | .registerWrite _ addr data be => 1 ≤ data.length && data.length = be.length && addr + data.length ≤ apertureBytes
  | .readClear _ addr len => 1 ≤ len && addr + len ≤ apertureBytes
  | .lowHalfShadowRead _ addr => addr % 4 = 0 && addr + 4 ≤ apertureBytes
  | .pageLock _ pg | .softReset _ pg | .resetBusyEnd pg | .irqSet _ pg _ => pg.wf
  | .portCheck a => a.manifest.length = 64 && a.manPar.length = 64
  | .ioBankCheck o => o.length = 8 && o.all fun l => l.length = 24
  | .hostMemoryRead _ _ addr len u => 1 ≤ len && addr + len ≤ 2 ^ 35 && u.all Flip.wf
  | .hostMemoryWrite _ _ addr b _ => 1 ≤ b.length && addr + b.length ≤ 2 ^ 35
  | .entryFetch _ _ e => lenIs e 64
  | .bundle _ up => up.regs.all RegHit.wf
  | .extResponse _ r => r.data.length = 64 && r.par.length = 64
  | .ctxRequest _ _ _ _ => true
  | .aniseReplay _ _ r => r.answer.length = 128 && r.flips.all fun b => b < 4096
  | .queueRelease _ _ q => q.toNat < 256
  | .sensorSample r => r.temps.length = 41 && r.milliVolts.length = 7 && r.vccio.length = 8 && r.deciAmps.length = 6
  | .scrubFrame u => u.all Flip.wf
  | .samplePreload l c => l.length = boundaryCells && c.length = boundaryCells
  | _ => true

end Sys2Proof
end

