-- ==== Sys2Proof/Certificates/Slice0/Obligations.lean ====
section
/-! DEFINITION. The statements for the provers, family by family. -/

open Sys2Proof Sys2Proof.Machine

/-! ## The machine as a whole -/

/-- The command at the front of the queue runs on the state with the rest of the queue. -/
def Obligations.StepRunsTheFrontCommand : Prop :=
  ∀ (s : State) (c : Instr) (rest : List Instr), s.pending = c :: rest → step s = exec c { s with pending := rest }

/-- With no command waiting, a step lets 1 ns pass (the model's choice, log 1): the module's own time moves, and the timebase with it once it is
locked and its 64 bits wrapping; the transmit lanes that drive send their blocks (R342), and nothing else changes. -/
def Obligations.AnEmptyQueueLetsTimePass : Prop :=
  ∀ s : State, s.pending = [] → s.power.critical = false →
    let u := { s with power := { s.power with now := s.power.now + 1 }, time := if s.power.locked then (s.time + 1) % 2 ^ 64 else s.time }
    ∃ t, step s = .next t ∧ t.power = u.power ∧ t.time = u.time ∧ t.pending = [] ∧ t.regs = s.regs ∧ t.mem = s.mem ∧ t.syn = s.syn ∧
      t.slices = s.slices ∧ t.ctxs = s.ctxs ∧ t.cmds = s.cmds ∧ t.bus = s.bus ∧ t.tkg = s.tkg ∧ t.pins = s.pins ∧ s.out <+: t.out ∧
      ((∀ g, g < 4 → (s.grp g).txAct = []) → t = u)

/-- After reset every register field reads its reset value, memory lists nothing, and the state is well formed (a register for which the
specification gives no reset value holds the one that log 3 names). -/
def Obligations.ResetIsWellFormed : Prop :=
  State.reset.wf = true ∧ State.reset.pending = [] ∧ State.reset.mem = [] ∧
  ∀ (pg : Page) (f : Fld), f.rst < 2 ^ f.width → State.reset.f pg f = f.rst

/-- Every step keeps the state well formed: device memory and the register file stay in canonical form, a POWER reset always holds the COLD domain
too, and no timebase is locked while a reset holds. -/
def Obligations.EveryStepKeepsTheStateWellFormed : Prop :=
  ∀ s t : State, s.wf = true → step s = .next t → t.wf = true

/-- No command touches the queue, the fuses (R3) or the module's own time; what has left the module is never withdrawn; and a free value that was
drawn is never drawn again. -/
def Obligations.CommandsLeaveQueueFusesAndOutputs : Prop :=
  ∀ (c : Instr) (s t : State), s.wf = true → exec c s = .next t →
    t.pending = s.pending ∧ t.fuses = s.fuses ∧ t.power.now = s.power.now ∧ s.out <+: t.out ∧ s.anyBits ≤ t.anyBits

/-- In the critical state every clock is stopped until a POWER reset (R428): whatever other command comes, no register, no byte of memory, no
slice, no context, no bank unit and no time changes, nothing leaves the module, and the state stays critical. -/
def Obligations.CriticalStopsEverything : Prop :=
  ∀ (c : Instr) (s t : State), s.power.critical = true → c ≠ .powerReset → exec c s = .next t →
    t.power.critical = true ∧ t.time = s.time ∧ t.regs = s.regs ∧ t.mem = s.mem ∧ t.syn = s.syn ∧ t.slices = s.slices ∧ t.ctxs = s.ctxs ∧
    t.bus = s.bus ∧ t.buSt = s.buSt ∧ t.cmds = s.cmds ∧ t.out = s.out

/-- The commands that act while a COLD reset holds: those of the resets themselves, of the rails, clocks and sensors, of the pins, of the sideband
and of JTAG (which these are is the model's reading, log 15). -/
def Obligations.AColdResetHoldsEveryOtherCommand : Prop :=
  ∀ (c : Instr) (s t : State), s.power.inCold = true →
    (match c with
      | .registerWrite .. | .readClear .. | .lowHalfShadowRead .. | .pageLock .. | .softReset .. | .irqSet .. | .adminPortWrite ..
      | .zoneViewWrite .. | .runStart .. | .runStop .. | .relock .. | .commit .. | .haltArm .. | .evqHeadWrite .. | .doorbell ..
      | .qdbCfgWrite .. | .refAdd .. | .refSubtract .. | .refDbNop .. | .ctxRequest .. | .queueGrant .. | .queueRelease .. | .contextReset ..
      | .contextRelease .. | .tripClear .. | .aniCtrlWrite .. | .hltClear .. | .patMinSerialWrite .. | .fruHeadWrite .. | .resume ..
      | .pairReset .. | .glbReset .. | .powerReset | .powerResetEnd .. | .coldReset | .coldResetEnd .. | .railFault .. | .railInBand ..
      | .clockLoss .. | .clockReturn .. | .criticalTemp | .sensorSample .. | .sbWrite .. | .sbRead .. | .sbColdReset .. | .alertResponse
      | .portLoss .. | .perstRelease .. | .tickOutFall | .bypass | .idcode | .samplePreload .. | .extest | .clamp | .highz => False
      | _ => True) →
    exec c s = .next t → t = s

/-- No command is refused, and a command stops only for a host access beyond the 32 GiB of an aperture (R89), which no address reaches. -/
def Obligations.OnlyAnAccessBeyondTheApertureStops : Prop :=
  ∀ (c : Instr) (s : State),
    (∀ r, exec c s ≠ .refused r) ∧
    (∀ f, exec c s = .fault f ↔ f = .outsideAperture ∧
      ((∃ p ap addr len u, c = .hostMemoryRead p ap addr len u ∧ 2 ^ 35 < addr + len) ∨
       (∃ p ap addr b bp, c = .hostMemoryWrite p ap addr b bp ∧ 2 ^ 35 < addr + b.length)))

/-! ## Register pages -/

/-- PAGE_LOCK sets `LOCK` of a lockable page and changes nothing else; on any other page it changes nothing (R23, R37). -/
def Obligations.PageLockSetsTheLock : Prop :=
  ∀ (s : State) (p : Fin 4) (pg : Page), s.letsWrite p pg = true →
    exec (.pageLock (.port p) pg) s = .next (if pg.kind.lockable then s.setB pg Hdr.LOCK true else s)

/-- A locked page refuses a whole word that holds an RW, RWL or RWA field of its block registers from a port that has the right to write it: no
field of the page's block changes, and the refusal is recorded as a refusal by the lock (R32, R37). -/
def Obligations.ALockedPageRefusesItsFields : Prop :=
  ∀ (s : State) (p : Fin 4) (pg : Page) (off : Nat) (data : W32), s.reaches (.port p) = true → s.on (linkP p.val) HptLink.TEARDOWN_BUSY = false →
    s.pageAt pg.base = some pg → s.isBusy pg = false → pg.kind.lockable = true → s.on pg Hdr.LOCK = true → s.mayWrite (.port p) pg Hdr.LOCK = true →
    0x40 ≤ off → off < 0x1000 → off % 4 = 0 → (∃ e ∈ fieldsAt pg.kind off, e.1.acc = .rw) → (∀ e ∈ fieldsAt pg.kind off, e.1.acc ≠ .rwl ∧ e.1.acc ≠ .rwa) →
    ∃ t, exec (.registerWrite (.port p) (pg.base + off) (leBytes 4 data.toNat) [true, true, true, true]) s = .next t ∧ t.on pg Hdr.REFUSED = true ∧ t.on pg Hdr.REFUSED_LOCK = true ∧
      t.f pg Hdr.REFUSED_PORT = p.val ∧ t.f pg Hdr.REFUSED_CNT = satN Hdr.REFUSED_CNT.width (s.f pg Hdr.REFUSED_CNT + 1) ∧
      (∀ f : Fld, 0x40 ≤ f.off → f.off < 0x1000 → f.lo < 32 → t.f pg f = s.f pg f) ∧ t.mem = s.mem ∧ t.slices = s.slices ∧ t.ctxs = s.ctxs

/-- A port that is neither the admin port nor the page's owner writes nothing: a whole word that holds a writable field is refused, not because of a
lock, and no block register of the page changes (R29, R32). -/
def Obligations.APortWithoutRightIsRefused : Prop :=
  ∀ (s : State) (p : Fin 4) (pg : Page) (off : Nat) (data : W32), s.reaches (.port p) = true → s.on (linkP p.val) HptLink.TEARDOWN_BUSY = false →
    s.pageAt pg.base = some pg → s.isBusy pg = false → s.admin ≠ p.val → s.owner pg ≠ some p.val →
    0x40 ≤ off → off < 0x1000 → off % 4 = 0 → (∃ e ∈ fieldsAt pg.kind off, e.1.acc ≠ .ro ∧ e.1.acc ≠ .rc) →
    ∃ t, exec (.registerWrite (.port p) (pg.base + off) (leBytes 4 data.toNat) [true, true, true, true]) s = .next t ∧ t.on pg Hdr.REFUSED = true ∧ t.on pg Hdr.REFUSED_LOCK = false ∧
      t.f pg Hdr.REFUSED_PORT = p.val ∧ (pg.kind.region ≠ 3 → ∀ f : Fld, 0x40 ≤ f.off → f.off < 0x1000 → f.lo < 32 → t.f pg f = s.f pg f) ∧
      t.mem = s.mem ∧ t.slices = s.slices ∧ t.ctxs = s.ctxs

/-- REGISTER_WRITE of one whole word by a port with the right to write: on a page whose writes start nothing else, every RW or RWA field that lies
in that word alone takes its bits of the word, and every field that the word does not reach keeps its value (R7, R8, R20). -/
def Obligations.AWholeWordSetsItsFields : Prop :=
  ∀ (s : State) (p : Fin 4) (pg : Page) (off : Nat) (data : W32), s.letsWrite p pg = true → pg.wf = true → 0x40 ≤ off → off < 0x1000 → off % 4 = 0 →
    pg.kind ∈ [.hptXlate, .hptPace, .ctx, .stkBu, .sibTrig, .mgtLimit, .health] →
    (∃ f, (f, false) ∈ fieldsAt pg.kind off ∧ (f.acc = .rw ∨ f.acc = .rwa)) → (∀ e ∈ fieldsAt pg.kind off, e.1.acc ≠ .wo ∧ e.1.acc ≠ .w1c ∧ e.1.acc ≠ .rwl) →
    (∀ e ∈ fieldsAt pg.kind off, e.1.acc = .rwa → s.admin = p.val) →
    ∃ t, exec (.registerWrite (.port p) (pg.base + off) (leBytes 4 data.toNat) [true, true, true, true]) s = .next t ∧
      (∀ f, (f, false) ∈ fieldsAt pg.kind off → f.acc = .rw ∨ f.acc = .rwa → f.hi < 32 → t.f pg f = (data.toNat >>> f.lo) % 2 ^ f.width) ∧
      sameRegs s t ((fieldsAt pg.kind off).map fun e => (pg, e.1)) ∧ t.mem = s.mem ∧ t.slices = s.slices ∧ t.ctxs = s.ctxs

/-- A read within one page answers the bytes that the page shows this port, and sends nothing else; it changes no memory, no slice and no field other
than those that it clears, and it clears an RC field that it covers wholly only where it comes from the page's owner, or from the admin port on a
global page; a read of the low half of a counter keeps the high half (R10, R21, R22, R30). -/
def Obligations.AReadAnswersTheBytesShown : Prop :=
  (∀ (s : State) (p : Fin 4) (addr : Nat), s.reaches (.port p) = true →
    (∀ len, 1 ≤ len → addr % 0x1000 + len ≤ 0x1000 → (∀ pg, s.pageAt addr = some pg → ¬ (len = 4 ∧ counterAt pg.kind (addr % 0x1000) true)) →
      ∃ t, exec (.readClear (.port p) addr len) s = .next t ∧
        t.out = s.out ++ [.completion p.val (s.readBytes (.port p) addr len) false] ∧ t.mem = s.mem ∧ t.slices = s.slices ∧ t.ctxs = s.ctxs ∧
        sameRegs s t (match s.pageAt addr with
          | some q => (((List.range 0x400).flatMap fun i => fieldsAt q.kind (4 * i)).filter fun e => e.1.acc = .rc).map fun e => (q, e.1)
          | none => [])) ∧
    (∀ pg, s.pageAt addr = some pg → addr % 4 = 0 → s.mayRead (.port p) pg = true → s.on (linkP p.val) HptLink.TEARDOWN_BUSY = false →
      counterAt pg.kind (addr % 0x1000) false = true → p.val < s.shadows.length →
      ∃ t, exec (.lowHalfShadowRead (.port p) addr) s = .next t ∧ t.out = s.out ++ [.completion p.val (s.readBytes (.port p) addr 4) false] ∧
        t.shadows[p.val]? = some (some (addr, s.readWord pg (addr % 0x1000 + 4))) ∧ t.regs = s.regs ∧ t.mem = s.mem ∧ t.slices = s.slices)) ∧
  ∀ (s : State) (p : Fin 4) (pg : Page) (f : Fld), s.reaches (.port p) = true → s.on (linkP p.val) HptLink.TEARDOWN_BUSY = false → pg.wf = true →
    s.pageAt pg.base = some pg → s.mayRead (.port p) pg = true → f ∈ blockFields pg.kind → f.cnt = 1 → f.acc = .rc → f.lo = 0 → f.hi = 31 →
    ∃ t, exec (.readClear (.port p) (pg.base + f.off) 4) s = .next t ∧
      t.f pg f = (if s.clears (.port p) pg then 0 else s.f pg f)

/-- IRQ_SET sets the bits that the page defines, and when that raises the page's interrupt, vector 64 of the owner port, or of the admin port for
a global page, leaves the module (R23, R24, R317; which bits a page defines is the model's reading, log 11, and that the interrupt is one rising edge of the
page's state too, log 12). -/
def Obligations.IrqSetRaisesThePageInterrupt : Prop :=
  ∀ (s : State) (p : Fin 4) (pg : Page) (v : W32), s.letsWrite p pg = true →
    ∃ t, exec (.irqSet (.port p) pg v) s = .next t ∧
      t.f pg Hdr.IRQ_STAT = (s.f pg Hdr.IRQ_STAT ||| (v.toNat &&& pg.kind.irqBits)) ∧
      sameRegs s t ((pg, Hdr.IRQ_STAT) :: match s.owner pg with
        | some q => [(⟨.hptEvent, q, 0⟩, HptEvent.MSIX_PBA.at 2)]
        | none => []) ∧ t.mem = s.mem ∧ t.slices = s.slices ∧ t.ctxs = s.ctxs ∧
      (s.irqOn pg = false → t.irqOn pg = true → ∀ q, s.owner pg = some q → s.portUp q = true →
        s.on ⟨.hptEvent, q, 0⟩ (HptEvent.MSIX_MASK.at 64) = false →
        t.out = s.out ++ [.msix q 64 (s.f ⟨.hptEvent, q, 0⟩ (HptEvent.MSIX_ADDR.at 64)) (s.f ⟨.hptEvent, q, 0⟩ (HptEvent.MSIX_DATA.at 64))])

/-- SOFT_RESET gives every block register of the page its reset value, those that show live state excepted (the model's reading, log 19), leaves its
header and every other page alone, and RESET_BUSY reads 1 until RESET_BUSY_END, 8 ns later; a queue's depth returns to that of its grant, and the
clock target of MGT_GOV to 600 MHz (R38, R300, R434). -/
def Obligations.SoftResetResetsTheBlock : Prop :=
  (∀ (s : State) (p : Fin 4) (pg : Page), s.letsWrite p pg = true → pg.wf = true →
    pg.kind ∉ [.glbCtrl, .tkgSrc, .tkgWin, .sibRx, .sibTx, .sibGrp, .mgtGov] →
    ∃ t, exec (.softReset (.port p) pg) s = .next t ∧ spGet 0 t.busy pg.base = s.time + 8 ∧
      (∀ f : Fld, 0x40 ≤ f.off → f.off < 0x1000 → f.lo < 32 → f.rst < 2 ^ f.width → (∀ g ∈ liveFields pg.kind, regKey pg f ≠ regKey pg g) →
        (pg.kind = .qdb → regKey pg f ≠ regKey pg Qdb.DEPTH_LOG2) → t.f pg f = f.rst) ∧
      (pg.kind = .qdb → t.f pg Qdb.DEPTH_LOG2 = spGet 0 s.hib.depths pg.inst % 2 ^ Qdb.DEPTH_LOG2.width) ∧
      (∀ f : Fld, f.off < 0x40 → f.lo < 32 → t.f pg f = s.f pg f) ∧
      (∀ (q : Page) (f : Fld), q.base ≠ pg.base → f.off < 0x1000 → f.lo < 32 → t.f q f = s.f q f) ∧ t.mem = s.mem ∧ t.ctxs = s.ctxs) ∧
  (∀ (s : State) (p : Fin 4), s.letsWrite p govP = true →
    ∃ t, exec (.softReset (.port p) govP) s = .next t ∧ spGet 0 t.busy govP.base = s.time + 8 ∧ t.f govP MgtGov.TARGET_MHZ = 600 ∧
      t.f govP MgtGov.CLK_MHZ = s.f govP MgtGov.CLK_MHZ ∧ t.mem = s.mem ∧ t.ctxs = s.ctxs ∧ t.slices = s.slices) ∧
  (∀ (s : State) (p : Fin 4) (pg : Page), s.letsWrite p pg = true → pg.wf = true →
    ∃ t, exec (.softReset (.port p) pg) s = .next t ∧ spGet 0 t.busy pg.base = s.time + 8) ∧
  ∀ (s : State) (pg : Page), s.live = true → spGet 0 s.busy pg.base ≠ 0 → spGet 0 s.busy pg.base ≤ s.time →
    ∃ t, exec (.resetBusyEnd pg) s = .next t ∧ t.isBusy pg = false ∧ t.regs = s.regs ∧ t.mem = s.mem ∧ t.slices = s.slices

/-- The admin port gives the admin role away, and so may the sideband at any time; a cold reset's end takes it from the straps; and it stays where it is
when a port, even the one that has it, is lost (R27; a strap that names a port not trained acts as 0, R416). -/
def Obligations.TheAdminRoleMoves : Prop :=
  (∀ (s : State) (p : Fin 4) (v : BitVec 2), s.letsWrite p glbP = true →
    exec (.adminPortWrite (.port p) v) s = .next (s.setF glbP GlbCtrl.ADMIN_PORT v.toNat)) ∧
  (∀ (s : State) (v : BitVec 2), s.reaches .sideband = true → s.power.inCold = false → s.isBusy glbP = false →
    exec (.adminPortWrite .sideband v) s = .next (s.setF glbP GlbCtrl.ADMIN_PORT v.toNat)) ∧
  (∀ (s : State) (bifur admin : BitVec 2), s.coldOver = true →
    ∃ t, exec (.coldResetEnd bifur admin) s = .next t ∧ t.admin = if t.portWidth admin.toNat = 0 then 0 else admin.toNat) ∧
  ∀ (s : State) (p : Fin 4) (why : Loss), s.live = true → s.on (linkP p) HptLink.UP = true → s.on (linkP p) HptLink.TEARDOWN_BUSY = false →
    ∃ t, exec (.portLoss p why) s = .next t ∧ t.on (linkP p) HptLink.TEARDOWN_BUSY = true ∧ t.admin = s.admin

/-- A zone with mapped frames keeps its mode; every other zone of the word takes the mode written (R93). -/
def Obligations.AZoneWithMappedFramesKeepsItsMode : Prop :=
  ∀ (s : State) (p : Fin 4) (w : Fin 16) (v : W32), s.letsWrite p carveP = true →
    ∃ t, exec (.zoneViewWrite (.port p) w v) s = .next t ∧
      (∀ b, b < 32 → (w.val ≠ 15 ∨ b < 24) →
        (t.f carveP (GlbCarve.ZONE_VIEW.at w.val)).testBit b =
          if s.zones (32 * w.val + b) ≠ 0 then (s.f carveP (GlbCarve.ZONE_VIEW.at w.val)).testBit b else v.getLsbD b) ∧
      sameRegs s t [(carveP, GlbCarve.ZONE_VIEW.at w.val), (carveP, GlbCarve.ZONE_REJ_CNT)] ∧ t.mem = s.mem ∧ t.zoneCount = s.zoneCount

/-- GLB_RESET with the key 0xC5 starts a cold reset, which empties memory and unlocks the timebase; any other value is ignored, and the register reads 0
(R410, R415). -/
def Obligations.OnlyTheKeyStartsAColdReset : Prop :=
  ∀ (s : State) (p : Fin 4) (v : W32), s.letsWrite p glbP = true → s.readWord glbP 0xC0 = 0 ∧
    (v.toNat % 256 ≠ 0xC5 → exec (.glbReset (.port p) v) s = .next s) ∧
    (v.toNat % 256 = 0xC5 → ∃ t, exec (.glbReset (.port p) v) s = .next t ∧ t.power.inCold = true ∧ t.power.locked = false ∧
      t.f senseP MgtSense.RST_CAUSE = 2 ∧ t.f senseP MgtSense.COLD_CNT = satN 16 (s.f senseP MgtSense.COLD_CNT + 1) ∧ t.mem = [] ∧
      t.slices = [] ∧ t.ctxs = [] ∧ t.cmds = [] ∧ t.fuses = s.fuses)

/-- RUN_START from a stopped generator latches the source and arms the first tick; RUN_STOP before the first tick stops at once, and in a tick only
clears RUN; RELOCK arms a relock (R50, R52, R54). -/
def Obligations.RunBitsStartStopAndRelock : Prop :=
  (∀ (s : State) (p : Fin 4) (v : W32), s.letsWrite p srcP = true → s.tkg.phase = .stopped → s.on srcP TkgSrc.RUN = false →
    ∃ t, exec (.runStart (.port p) v) s = .next t ∧ t.on srcP TkgSrc.RUN = true ∧ t.on srcP TkgSrc.SOURCE = v.getLsbD 1 ∧
      t.tkg = { s.tkg with internal := v.getLsbD 1, phase := .armed, armAt := s.time } ∧ t.mem = s.mem ∧ t.slices = s.slices ∧ t.ctxs = s.ctxs) ∧
  (∀ (s : State) (p : Fin 4) (v : W32), s.letsWrite p srcP = true →
    ∃ t, exec (.runStop (.port p) v) s = .next t ∧ t.on srcP TkgSrc.RUN = false ∧
      t.tkg = (if s.tkg.phase = .armed then { s.tkg with phase := .stopped } else s.tkg) ∧ t.mem = s.mem ∧ t.slices = s.slices ∧ t.ctxs = s.ctxs) ∧
  ∀ (s : State) (p : Fin 4) (v : W32), s.letsWrite p srcP = true →
    ∃ t, exec (.relock (.port p) v) s = .next t ∧ t.on srcP TkgSrc.RELOCK_ARMED = true ∧ t.mem = s.mem ∧ t.slices = s.slices ∧ t.ctxs = s.ctxs

/-- COMMIT: a pending set that passes is pending, and while the generator is stopped becomes active at once; one that fails sets
`SCHEDULE_INVALID`, records the cause and leaves the active set unchanged; the cause is
that of the first of the eight checks that fails, and a schedule passes where none does (R60, R61). -/
def Obligations.CommitTakesOnlyAValidSchedule : Prop :=
  (∀ (c : Sched) (cs ch : Nat),
    let fails : Nat → Prop := fun
      | 1 => c.period < 1000 ∨ 1000000 < c.period ∨ 500 < c.tol
      | 2 => c.cstart < 60 ∨ c.cend ≤ c.cstart
      | 3 => (c.gend : Int) - c.cend < gMin c.period 0
      | 4 => longMode c.period = false ∧ (c.period : Int) - c.tol - c.cend < gMin c.period 1
      | 5 => (c.period : Int) - c.tol < c.gend
      | 6 => longMode c.period = true ∧ (13780 : Int) - 2 * c.tol < c.cend
      | 7 => c.dec < 40 ∨ 120 < c.dec
      | 8 => (c.cend : Int) - c.cstart < cs ∨ c.hostCert < ch
      | _ => False
    (c.check cs ch = 0 ↔ ∀ k, ¬ fails k) ∧ ∀ k, k ≠ 0 → (c.check cs ch = k ↔ fails k ∧ ∀ j, j < k → ¬ fails j)) ∧
  (∀ (s : State) (tol : Nat), s.tolOf tol = if s.tkg.internal then 0 else tol) ∧
  ∀ (s : State) (p : Fin 4), s.letsWrite p winP = true →
    let c := s.pendingSched
    let cause := ({ c with tol := s.tolOf c.tol } : Sched).check (s.f plvP Plv.CERT_STREAM_NS) (s.f plvP Plv.CERT_SEG_NS)
    ∃ t, exec (.commit (.port p)) s = .next t ∧ t.f winP TkgWin.INVALID_CAUSE = cause ∧ t.mem = s.mem ∧ t.slices = s.slices ∧ t.ctxs = s.ctxs ∧
      (cause = 0 → s.tkg.phase = .stopped → t.on winP TkgWin.COMMIT_PENDING = false ∧ t.f winP TkgWin.ACT_PERIOD = c.period ∧
        t.f winP TkgWin.ACT_CSTART = c.cstart ∧ t.f winP TkgWin.ACT_CEND = c.cend ∧ t.f winP TkgWin.ACT_GEND = c.gend ∧
        t.f winP TkgWin.ACT_DECISION_OFFSET = c.dec) ∧
      (cause = 0 → s.tkg.phase ≠ .stopped → t.on winP TkgWin.COMMIT_PENDING = true ∧ t.tkg = { s.tkg with pendSched := some c } ∧ t.sched = s.sched) ∧
      (cause ≠ 0 → t.on winP TkgWin.SCHEDULE_INVALID = true ∧ t.on winP TkgWin.COMMIT_PENDING = false ∧
        (t.f winP Hdr.IRQ_STAT).testBit 1 = true ∧ t.sched = s.sched)

/-- A doorbell beyond the queue's depth sets `OVERFLOW` and moves nothing, any other becomes the tail; a write of `QDB_CFG` disables a queue, or gives
a disabled one a depth and an empty ring; `EVQ_HEAD` takes its 17 bits (R300, R317). -/
def Obligations.QueueRegistersMoveTheRing : Prop :=
  (∀ (s : State) (p : Fin 4) (q : Fin 256) (v : W32), s.letsWrite p (qdbP q.val) = true →
    ((v.toNat % 2 ^ 16 + 2 ^ 16 - s.f (qdbP q.val) Qdb.HEAD) % 2 ^ 16 ≤ s.depth q.val →
      exec (.doorbell (.port p) q v) s = .next (s.setF (qdbP q.val) Qdb.TAIL v.toNat)) ∧
    (s.depth q.val < (v.toNat % 2 ^ 16 + 2 ^ 16 - s.f (qdbP q.val) Qdb.HEAD) % 2 ^ 16 →
      ∃ t, exec (.doorbell (.port p) q v) s = .next t ∧ t.on (qdbP q.val) Qdb.OVERFLOW = true ∧
        t.f (qdbP q.val) Qdb.TAIL = s.f (qdbP q.val) Qdb.TAIL ∧ t.f (qdbP q.val) Qdb.HEAD = s.f (qdbP q.val) Qdb.HEAD ∧ t.mem = s.mem)) ∧
  (∀ (s : State) (p : Fin 4) (q : Fin 256) (v : W32), s.letsWrite p (qdbP q.val) = true →
    exec (.qdbCfgWrite (.port p) q v) s = .next (
      if v.toNat % 16 = 0 then s.setF (qdbP q.val) Qdb.DEPTH_LOG2 0
      else if 4 ≤ v.toNat % 16 ∧ v.toNat % 16 ≤ 12 ∧ s.f (qdbP q.val) Qdb.DEPTH_LOG2 = 0 then
        ((s.setF (qdbP q.val) Qdb.DEPTH_LOG2 (v.toNat % 16)).setF (qdbP q.val) Qdb.HEAD 0).setF (qdbP q.val) Qdb.TAIL 0
      else s)) ∧
  ∀ (s : State) (p : Fin 4) (c : Fin 64) (v : W32), s.letsWrite p (ctxP c.val) = true →
    exec (.evqHeadWrite (.port p) c v) s = .next (s.setF (ctxP c.val) Ctx.EVQ_HEAD v.toNat)

/-- A reference doorbell adds 1 to, or takes 1 from, the field of the queue's port in the object's count, and `REF_STAT` tells the result; the
operations 0b00 and 0b11 only tell it, and an object that the queue's context does not map is left alone (R320). -/
def Obligations.TheReferenceDoorbellCounts : Prop :=
  ∀ (s : State) (p : Fin 4) (q : Fin 256) (o : BitVec 16), s.wf = true → s.letsWrite p (qdbP q.val) = true →
    let pg := qdbP q.val
    let c := s.f pg Hdr.OWNER_CONTEXT
    let port := s.f pg Hdr.OWNER_PORT
    let v := refPort (s.refs o.toNat) port
    (s.maps c o.toNat = true → v < 0xFFF →
      ∃ t, exec (.refAdd (.port p) q o) s = .next t ∧ t.f pg Qdb.RS_OBJ = o.toNat ∧ t.f pg Qdb.RS_RES = 0 ∧ t.f pg Qdb.RS_FIELD = v + 1 ∧
        t.refs o.toNat = withRefPort (s.refs o.toNat) port (v + 1)) ∧
    (s.maps c o.toNat = true → v = 0xFFF →
      ∃ t, exec (.refAdd (.port p) q o) s = .next t ∧ t.f pg Qdb.RS_RES = 3 ∧ t.f pg Qdb.RS_FIELD = v ∧ t.mem = s.mem) ∧
    (s.maps c o.toNat = true → 0 < v →
      ∃ t, exec (.refSubtract (.port p) q o) s = .next t ∧ t.f pg Qdb.RS_RES = 0 ∧ t.f pg Qdb.RS_FIELD = v - 1 ∧
        (withRefPort (s.refs o.toNat) port (v - 1) ≠ 0 → t.refs o.toNat = withRefPort (s.refs o.toNat) port (v - 1))) ∧
    (s.maps c o.toNat = false →
      (∃ t, exec (.refAdd (.port p) q o) s = .next t ∧ t.f pg Qdb.RS_RES = 1 ∧ t.f pg Qdb.RS_FIELD = 0 ∧ t.mem = s.mem) ∧
      (∃ t, exec (.refSubtract (.port p) q o) s = .next t ∧ t.f pg Qdb.RS_RES = 1 ∧ t.f pg Qdb.RS_FIELD = 0 ∧ t.mem = s.mem)) ∧
    ∀ both, ∃ t, exec (.refDbNop (.port p) q o both) s = .next t ∧ t.f pg Qdb.RS_OBJ = o.toNat ∧ t.f pg Qdb.RS_RES = 0 ∧
      t.f pg Qdb.RS_FIELD = (if s.maps c o.toNat then v else 0) ∧ t.mem = s.mem ∧
      sameRegs s t [(pg, Qdb.RS_OBJ), (pg, Qdb.RS_OP), (pg, Qdb.RS_RES), (pg, Qdb.RS_FIELD)]

/-- CTX_REQUEST grants the lowest free slot from 4 on, or to the admin port the stream slot of its group, and the slot is LIVE and belongs to the
port; without a free slot the result is 1, and for a stream slot asked by another port 2, and no slot changes (R28, R297). -/
def Obligations.AContextIsGrantedFromTheFreeSlots : Prop :=
  ∀ (s : State) (a p : Fin 4) (g : BitVec 2), s.letsWrite a (linkP p.val) = true →
    (∀ c, 4 ≤ c → c < 64 → s.ctxState c = stFree → (∀ d, 4 ≤ d → d < c → s.ctxState d ≠ stFree) →
      ∃ t, exec (.ctxRequest (.port a) p false g) s = .next t ∧ t.f (linkP p.val) HptLink.CGRANT_SLOT = c ∧
        t.f (linkP p.val) HptLink.CGRANT_RESULT = 0 ∧ t.ctxState c = stLive ∧ t.isStream c = false ∧ t.owner (ctxP c) = some p.val ∧ t.mem = s.mem ∧
        t.slices = s.slices) ∧
    ((∀ c, 4 ≤ c → c < 64 → s.ctxState c ≠ stFree) →
      exec (.ctxRequest (.port a) p false g) s =
        .next ((s.setF (linkP p.val) HptLink.CGRANT_SLOT 0xFF).setF (linkP p.val) HptLink.CGRANT_RESULT 1)) ∧
    (p.val = s.admin → s.ctxState g.toNat = stFree →
      ∃ t, exec (.ctxRequest (.port a) p true g) s = .next t ∧ t.f (linkP p.val) HptLink.CGRANT_SLOT = g.toNat ∧
        t.f (linkP p.val) HptLink.CGRANT_RESULT = 0 ∧ t.ctxState g.toNat = stLive ∧ t.isStream g.toNat = true ∧
        t.owner (ctxP g.toNat) = some p.val ∧ t.mem = s.mem) ∧
    (p.val ≠ s.admin →
      exec (.ctxRequest (.port a) p true g) s =
        .next ((s.setF (linkP p.val) HptLink.CGRANT_SLOT 0xFF).setF (linkP p.val) HptLink.CGRANT_RESULT 2))

/-- QUEUE_GRANT gives a LIVE context of the port the lowest free queue; QUEUE_RELEASE begins its release, and QUEUE_RELEASE_DONE, with no command of it
left and no event of one undelivered, resets it; before that it does nothing (R299, R301). -/
def Obligations.AQueueIsGrantedAndReleased : Prop :=
  (∀ (s : State) (a p : Fin 4), s.letsWrite a (linkP p.val) = true →
    let c := s.f (linkP p.val) HptLink.QREQ_CTX
    let d := s.f (linkP p.val) HptLink.QREQ_DEPTH_LOG2
    (s.ctxState c = stLive → s.ctxPort c = p.val → (d = 0 ∨ (4 ≤ d ∧ d ≤ 12)) → ∀ q, q < 256 → s.queueOwned q = false →
      (∀ r, r < q → s.queueOwned r = true) →
      ∃ t, exec (.queueGrant (.port a) p) s = .next t ∧ t.f (linkP p.val) HptLink.QGRANT_QUEUE = q ∧ t.f (linkP p.val) HptLink.QGRANT_RESULT = 0 ∧
        t.queueOwned q = true ∧ t.queuePort q = p.val ∧ t.queueCtx q = c ∧ t.f (qdbP q) Qdb.DEPTH_LOG2 = d ∧ t.mem = s.mem ∧ t.ctxs = s.ctxs) ∧
    (s.ctxState c ≠ stLive →
      exec (.queueGrant (.port a) p) s =
        .next ((s.setF (linkP p.val) HptLink.QGRANT_QUEUE 0x1FF).setF (linkP p.val) HptLink.QGRANT_RESULT 2)) ∧
    ∀ q : BitVec 9, q.toNat < 256 → s.queueOwned q.toNat = true → s.queuePort q.toNat = p.val → s.hib.closing.contains q.toNat = false →
      exec (.queueRelease (.port a) p q) s = .next { s with hib := { s.hib with closing := s.hib.closing ++ [q.toNat] } }) ∧
  (∀ (s : State) (q : Fin 256), ((∃ c ∈ s.cmds, c.queue = q.val) ∨ s.eventsWait q.val = true) → exec (.queueReleaseDone q) s = .next s) ∧
  ∀ (s : State) (q : Fin 256), s.live = true → s.hib.closing.contains q.val = true → (∀ c ∈ s.cmds, c.queue ≠ q.val) → s.eventsWait q.val = false →
    ∃ t, exec (.queueReleaseDone q) s = .next t ∧ t.queueOwned q.val = false ∧ t.hib.closing.contains q.val = false ∧
      t.f (qdbP q.val) Qdb.HEAD = 0 ∧ t.f (qdbP q.val) Qdb.TAIL = 0 ∧ t.depth q.val = 0 ∧ t.isBusy (qdbP q.val) = true ∧ t.mem = s.mem

/-- CONTEXT_RESET and CONTEXT_RELEASE begin the teardown of a slot that is LIVE or DEAD: its commands that were fetched and not started are gone, and
with references of theirs to no object nothing else changes in memory or in a slice (R298, R321). -/
def Obligations.AContextTeardownBegins : Prop :=
  ∀ (s : State) (p : Fin 4) (c : Fin 64), s.letsWrite p (ctxP c.val) = true → (s.ctxState c.val = stLive ∨ s.ctxState c.val = stDead) →
    let begun := fun (t : State) (release : Bool) => t.ctxState c.val = stTear ∧ (t.cx c.val).tear = some s.time ∧
      (t.cx c.val).tearRelease = release ∧ t.cmds = s.cmds.filter (fun d => !(decide (d.ctx = c.val) && decide (d.st = .fetched))) ∧
      ((∀ d ∈ s.cmds, d.ctx = c.val → d.st = .fetched → d.refs = []) → t.mem = s.mem ∧ t.slices = s.slices)
    (∃ t, exec (.contextReset (.port p) c) s = .next t ∧ begun t false) ∧ ∃ t, exec (.contextRelease (.port p) c) s = .next t ∧ begun t true

/-- TRIP_CLEAR while no sensor reads above 100 °C, HLT_CLEAR, RESUME and PAIR_RESET; ANI_CTRL_WRITE sets the fields and restarts every slice's
selection (in the model's form, log 38); PAT_MIN_SERIAL_WRITE never lowers the number; FRU_HEAD_WRITE takes a head within 4,096 entries of the tail
(R358, R365, R372, R377, R382, R396, R403). -/
def Obligations.ClearsAndReliabilityWrites : Prop :=
  (∀ (s : State) (p : Fin 4) (v : W32), s.letsWrite p limP = true →
    exec (.tripClear (.port p) v) s = .next (if 800 < s.hottest then s
      else { s.setB limP MgtLimit.TRIPPED false with gov := { s.gov with tripStopped := false } })) ∧
  (∀ (s : State) (p : Fin 4) (v : W32), s.letsWrite p hltP = true →
    ∃ t, exec (.hltClear (.port p) v) s = .next t ∧ ∀ n, n < 16 →
      if v.getLsbD n then t.f (slhP n) SlcHealth.HSTATE = hlNormal ∧ t.f (slhP n) SlcHealth.LAST_ERR = 0 ∧ t.f (slhP n) SlcHealth.LAST_CONF = 0
      else t.f (slhP n) SlcHealth.HSTATE = s.f (slhP n) SlcHealth.HSTATE) ∧
  (∀ (s : State) (p : Fin 4) (c : Fin 64), s.letsWrite p (ctxP c.val) = true →
    (∀ g, (s.cx c.val).program = some g → ∀ n ∈ g.gang, s.f (slhP n) SlcHealth.HSTATE ≠ hlQuar) → s.on (ctxP c.val) Ctx.STREAM_HELD = true →
      exec (.resume (.port p) c) s = .next (s.modCx c.val fun x => { x with resumeReq := true })) ∧
  (∀ (s : State) (p : Fin 4), s.letsWrite p cloveP = true →
    ∃ t, exec (.pairReset (.port p)) s = .next t ∧ t.on cloveP Clove.A_FAILED = false ∧ t.on cloveP Clove.B_FAILED = false ∧
      t.on cloveP Clove.SCRUB_DEGRADED = false ∧ t.on cloveP Clove.SCRUB_FAULT = false ∧ t.f cloveP Clove.CAUSE_A = 0 ∧
      t.f cloveP Clove.CAUSE_B = 0 ∧ t.mem = s.mem ∧ t.slices = s.slices ∧ t.ctxs = s.ctxs) ∧
  (∀ (s : State) (p : Fin 4) (v : W32), s.letsWrite p aniP = true →
    ∃ t, exec (.aniCtrlWrite (.port p) v) s = .next t ∧ t.on aniP Anise.EN = v.getLsbD 0 ∧ t.f aniP Anise.SAMPLE_LOG2 = v.toNat / 2 % 16 ∧
      t.f aniP Anise.SUSPECT_LOG2 = v.toNat / 32 % 16 ∧ t.on aniP Anise.EXT_EN = v.getLsbD 9 ∧ t.f aniP Anise.SEED = v.toNat / 65536 ∧
      (∀ n, n < 16 → t.slice n = { s.slice n with sel := 0 }) ∧ t.mem = s.mem ∧ t.ctxs = s.ctxs) ∧
  (∀ (s : State) (p : Fin 4) (v : W64), s.letsWrite p patP = true →
    exec (.patMinSerialWrite (.port p) v) s = .next (if v.toNat < s.f patP Pattern.MIN_SERIAL then s else s.setF patP Pattern.MIN_SERIAL v.toNat)) ∧
  ∀ (s : State) (p : Fin 4) (v : W32), s.letsWrite p fruP = true →
    exec (.fruHeadWrite (.port p) v) s = .next (if 4096 < (s.f fruP Fru.TAIL + 2 ^ 16 - v.toNat % 2 ^ 16) % 2 ^ 16 then s
      else s.setF fruP Fru.HEAD v.toNat)

/-- HALT_ARM arms a channel at an address of the named context's program whose dump range is mapped, and copies its count; with no program there it
sets `ARM_BAD` and stays disarmed (R289). -/
def Obligations.AHaltChannelArmsOnlyAtAProgram : Prop :=
  ∀ (s : State) (p : Fin 4) (h : Fin 4) (v : W32), s.letsWrite p plvP = true →
    let c := v.toNat / 4 % 64
    let pc := v.toNat / 4096 % 2 ^ 14
    ((s.cx c).program = none →
      ∃ t, exec (.haltArm (.port p) h v) s = .next t ∧ t.on plvP (Plv.HALT_ARM.at h.val) = false ∧ t.on plvP (Plv.HALT_ARM_BAD.at h.val) = true ∧
        t.f plvP (Plv.HALT_ADDR.at h.val) = pc ∧ t.mem = s.mem ∧ t.slices = s.slices ∧ t.ctxs = s.ctxs) ∧
    ∀ g, (s.cx c).program = some g → g.base ≤ pc → pc < g.base + g.count →
      s.unmapped c (s.f plvP (Plv.HALT_DUMP.at h.val) * 256) (g.gang.length * 0x2200) = none →
      ∃ t, exec (.haltArm (.port p) h v) s = .next t ∧ t.on plvP (Plv.HALT_ARM.at h.val) = true ∧ t.f plvP (Plv.HALT_CTX.at h.val) = c ∧
        t.f plvP (Plv.HALT_REMAIN.at h.val) = s.f plvP (Plv.HALT_COUNT.at h.val) ∧ t.on plvP (Plv.HALT_DUMPED.at h.val) = false ∧
        t.mem = s.mem ∧ t.slices = s.slices ∧ t.ctxs = s.ctxs

/-! ## The tick -/

/-- While `RUN` stands, an edge begins the next tick: the first takes `TKG_TICK_START`, later ones count on and wrap at 64 bits; an external edge is
at the time it comes and one that the generator makes at the time it is due, and an armed relock takes an early edge of the host window, none a late
one; the internal period count, an edge in tolerance and the first edge lock the
generator, and a synthetic edge is counted; without `RUN` the edge stops the generator and keeps the number (R49, R50, R51, R52, R53, R54). -/
def Obligations.AnEdgeBeginsTheNextTick : Prop :=
  (∀ s : State, s.live = true → s.on carveP GlbCarve.MEM_INIT_DONE = true → s.tkg.phase = .armed → s.on srcP TkgSrc.RUN = true →
    s.tkg.armAt + (if s.tkg.internal then 1000 else 100) ≤ s.time →
    ∃ t, exec .firstTick s = .next t ∧
      t.began (s.f srcP TkgSrc.TICK_START) (if s.tkg.internal then s.tkg.armAt + 1000 else s.time) = true ∧ t.on srcP TkgSrc.LOCKED = true ∧
      t.f srcP TkgSrc.SYNTH_RUN = 0 ∧ t.time = s.time ∧ sameObjects s t) ∧
  (∀ s : State, s.live = true → s.tkg.internal = true → s.tkg.phase = .host → s.tkg.edgeAt + s.sched.period ≤ s.time →
    ∃ t, exec .internalTick s = .next t ∧ t.time = s.time ∧ sameObjects s t ∧
      (s.on srcP TkgSrc.RUN = true → t.began ((s.tickNum + 1) % 2 ^ 64) (s.tkg.edgeAt + s.sched.period) = true ∧ t.on srcP TkgSrc.LOCKED = true) ∧
      (s.on srcP TkgSrc.RUN = false → t.tkg.phase = .stopped ∧ t.on srcP TkgSrc.RUNNING = false ∧ t.tickNum = s.tickNum)) ∧
  (∀ s : State, s.live = true → s.tkg.internal = false → s.tkg.phase = .host → s.on srcP TkgSrc.RUN = true →
    s.tkg.edgeAt + s.sched.period ≤ s.time + s.sched.tol → s.time ≤ s.tkg.edgeAt + s.sched.period + s.sched.tol →
    ∃ t, exec .tickInEdge s = .next t ∧ t.began ((s.tickNum + 1) % 2 ^ 64) s.time = true ∧ t.on srcP TkgSrc.LOCKED = true ∧
      t.f srcP TkgSrc.SYNTH_RUN = 0 ∧ t.time = s.time ∧ sameObjects s t) ∧
  (∀ s : State, s.live = true → s.tkg.internal = false → s.tkg.phase = .host → s.on srcP TkgSrc.RUN = true →
    s.on srcP TkgSrc.RELOCK_ARMED = true → s.time ≤ s.tkg.edgeAt + s.sched.period + s.sched.tol →
    ∃ t, exec .tickInEdge s = .next t ∧ t.began ((s.tickNum + 1) % 2 ^ 64) s.time = true ∧ t.on srcP TkgSrc.LOCKED = true ∧
      t.on srcP TkgSrc.RELOCK_ARMED = false ∧ t.time = s.time ∧ sameObjects s t) ∧
  (∀ s : State, s.tkg.edgeAt + s.sched.period + s.sched.tol < s.time → exec .tickInEdge s = .next s) ∧
  (∀ s : State, s.live = true → s.tkg.internal = false → s.ticking = true → s.on srcP TkgSrc.RELOCK_ARMED = false →
    s.time + s.sched.tol < s.tkg.edgeAt + s.sched.period →
    ∃ t, exec .tickInEdge s = .next t ∧ t.f srcP TkgSrc.STRAY_CNT = satN 16 (s.f srcP TkgSrc.STRAY_CNT + 1) ∧ t.tkg = s.tkg ∧
      t.tickNum = s.tickNum ∧ (t.f srcP Hdr.IRQ_STAT).testBit 3 = true ∧ t.mem = s.mem ∧ t.slices = s.slices ∧ t.ctxs = s.ctxs) ∧
  ∀ s : State, s.live = true → s.tkg.internal = false → s.tkg.phase = .host → s.on srcP TkgSrc.RUN = true →
    s.tkg.edgeAt + s.sched.period + s.sched.tol ≤ s.time →
    ∃ t, exec .syntheticEdge s = .next t ∧
      t.began ((s.tickNum + 1) % 2 ^ 64) (s.tkg.edgeAt + s.sched.period + s.sched.tol) = true ∧
      t.f srcP TkgSrc.SYNTH_CNT = satN 16 (s.f srcP TkgSrc.SYNTH_CNT + 1) ∧ (t.f srcP Hdr.IRQ_STAT).testBit 2 = true ∧
      (s.f srcP TkgSrc.SYNTH_RUN = 7 → t.on srcP TkgSrc.LOCKED = false ∧ t.on srcP TkgSrc.TICK_LOST = true) ∧
      (s.f srcP TkgSrc.SYNTH_RUN < 7 → t.f srcP TkgSrc.SYNTH_RUN = s.f srcP TkgSrc.SYNTH_RUN + 1 ∧
        t.on srcP TkgSrc.LOCKED = s.on srcP TkgSrc.LOCKED ∧ t.on srcP TkgSrc.TICK_LOST = s.on srcP TkgSrc.TICK_LOST) ∧
      t.time = s.time ∧ sameObjects s t


/-- COMPUTE_START opens the compute window and starts the stream program of a group whose closed frame is to be computed, on its gang; COMPUTE_END cuts a
program that has not ended, counts the overrun and closes every row; GAP_END opens the host window, past the points that ended in the gap, and
REFRESH_POINT begins the next refresh point; the slots that so open, and a segment's end, are offered to the free gangs; a host
segment cut at its slot end will run again from its start; of a program that faulted in that cycle the cut is counted beside the fault; while no tick runs a change of band acts at once, and TICK_OUT falls when its pulse has lasted
(R54, R55, R57, R58, R63, R64, R65, R66, R67, R70, R387). -/
def Obligations.TheWindowsOfATick : Prop :=
  (∀ s : State, s.live = true → s.tkg.phase = .beforeCompute → s.tkg.edgeAt + s.sched.cstart ≤ s.time →
    ∃ t, exec .computeStart s = .next t ∧ t.tkg = { s.tkg with phase := .compute, offerAt := some s.time } ∧ t.mem = s.mem ∧ t.time = s.time ∧ sameObjects s t ∧
      ((∀ c, c < 4 → (s.cx c).program = none) → t.slices = s.slices ∧ t.regs = s.regs ∧ t.ctxs = s.ctxs) ∧
      ∀ c g k, c < 4 → (s.cx c).program = some g → g.stream = true → s.clocked = true → s.attached c = true → s.ctxRuns c = true →
        (s.grp c).computing = some k → (k.missing && (s.grp c).missAct) = false → (s.cx c).tick.held = false → (s.cx c).tick.shed = false →
        (t.cx c).started = true ∧ t.f (ctxP c) Ctx.RUNNING = 1 ∧
        ((∀ d, d < 4 → d ≠ c → (s.cx d).program = none) → g.gang.Nodup → ∀ i (h : i < g.gang.length),
          (t.slice g.gang[i]).run = true ∧ (t.slice g.gang[i]).ctx = c ∧ (t.slice g.gang[i]).member = i ∧
          (t.slice g.gang[i]).pc = g.base + g.entry)) ∧
  (∀ s : State, s.live = true → s.tkg.phase = .compute → s.tkg.edgeAt + s.sched.cend ≤ s.time → (∀ c, c < 64 → s.cuts c = false) →
    ∃ t, exec .computeEnd s = .next t ∧ t.tkg = { s.tkg with phase := .gap } ∧ t.time = s.time ∧ (∀ k, (spGet {} t.buSt k).row = none) ∧
      sameObjects s t ∧ ((∀ c, c < 4 → s.overruns c = false) → (∀ n, n < 16 → (s.slice n).staging = none) → t.mem = s.mem ∧ t.regs = s.regs ∧ t.slices = s.slices ∧ t.ctxs = s.ctxs) ∧
      ∀ c, c < 4 → s.overruns c = true → (t.cx c).tick.ovr = true ∧ (t.cx c).tick.fault = (s.cx c).tick.fault ∧ (t.cx c).tick.payload = none ∧
        t.running c = [] ∧ t.f ovrP (TkgOvr.OVR_CNT.at c) = satN 32 (s.f ovrP (TkgOvr.OVR_CNT.at c) + 1) ∧
        t.f ovrP (TkgOvr.OVR_TICK.at c) = s.tickNum % 2 ^ 32 ∧ (s.streamBusy c = true → t.f (ctxP c) Ctx.RUNNING = 0)) ∧
  (∀ s : State, s.live = true → s.tkg.phase = .gap → s.tkg.edgeAt + s.tkg.gapEndAt ≤ s.time → (∀ c, s.cuts c = false) →
    let past := (s.sched.points.filter fun o => decide (o + pointLen ≤ s.tkg.gapEndAt)).length
    exec .gapEnd s =
      .next { s with tkg := { s.tkg with phase := .host, offerAt := some s.time, pointsDone := max s.tkg.pointsDone past } }) ∧
  (∀ (s : State) (o : Nat), s.live = true → s.tkg.phase = .host → s.sched.points[s.tkg.pointsDone]? = some o → s.tkg.edgeAt + o ≤ s.time →
    (∀ c, s.cuts c = false) → (∀ n, n < 16 → (s.slice n).staging = none) →
    exec .refreshPoint s =
      .next { s with tkg := { s.tkg with pointsDone := s.tkg.pointsDone + 1, refreshEndsAt := s.tkg.edgeAt + o + pointLen } }) ∧
  (∀ (s : State) (c : Fin 64) (h : HostRun), s.live = true → s.isStream c.val = false → s.running c.val ≠ [] → s.slotEnd = none →
    (s.cx c.val).halting = [] → (s.cx c.val).host = some h →
    ∃ t, exec (.hostCut c) s = .next t ∧ t.running c.val = [] ∧ (t.cx c.val).host = some { h with active := false } ∧
      t.f (ctxP c.val) Ctx.RUNNING = 0 ∧ t.f ovrP TkgOvr.HOST_CUT_CNT = satN 16 (s.f ovrP TkgOvr.HOST_CUT_CNT + 1) ∧
      t.tkg = { s.tkg with offerAt := some s.time } ∧ t.time = s.time ∧ sameObjects s t) ∧
  (∀ (s : State) (c : Fin 64), s.live = true → s.isStream c.val = false → s.faultedNow c.val = true → s.slotEnd = none →
    ∃ t, exec (.hostCut c) s = .next t ∧ t.faultedNow c.val = false ∧ (t.cx c.val).host = (s.cx c.val).host ∧ t.slices = s.slices ∧ t.mem = s.mem ∧
      t.f ovrP TkgOvr.HOST_CUT_CNT = satN 16 (s.f ovrP TkgOvr.HOST_CUT_CNT + 1) ∧ t.time = s.time ∧ sameObjects s t) ∧
  (∀ (s : State) (b : Nat), s.live = true → s.ticking = false → s.tkg.pendBand = some b →
    ∃ t, exec .bandChange s = .next t ∧ t.f winP TkgWin.BAND = b % 2 ∧ t.tkg.pendBand = none ∧ t.tkg.phase = s.tkg.phase ∧ t.mem = s.mem ∧
      t.slices = s.slices ∧ t.ctxs = s.ctxs ∧ t.time = s.time) ∧
  ∀ s : State, s.pins.tickOut = true → s.pins.tickOutFallAt ≤ s.time →
    exec .tickOutFall s = .next { s with pins := { s.pins with tickOut := false } }

/-! ## Memory -/

/-- The two views of memory are one to one: a linear address has the stack, channel, bank and offset that R91 gives it, and each way undoes the other on
the 32 GiB. -/
def Obligations.TheTwoViewsAreOneToOne : Prop :=
  (∀ a, a < 2 ^ 35 → linToBank a < 2 ^ 35 ∧ bankToLin (linToBank a) = a ∧ fld (linToBank a) 34 33 = fld a 13 12 ∧
    fld (linToBank a) 32 29 = fld a 11 8 ∧
    fld (linToBank a) 28 25 = fld a 17 14 ^^^ fld a 21 18 ^^^ fld a 25 22 ^^^ fld a 29 26 ^^^ fld a 33 30 ∧
    fld (linToBank a) 24 8 = fld a 34 18 ∧ fld (linToBank a) 7 0 = fld a 7 0) ∧
  ∀ b, b < 2 ^ 35 → bankToLin b < 2 ^ 35 ∧ linToBank (bankToLin b) = b

/-- The fill of memory: after training it begins on every trained stack; a stack that completes is zero and nothing else changes; after the fourth,
memory is in use and what was held has been answered; a stack that fails answers what was held without touching memory (R98, R100, R101, R414; what memory reads as before a fill is log 4). -/
def Obligations.TheFillLeavesMemoryZero : Prop :=
  (∀ (s : State) (u : BitVec 4), s.live = true → s.power.locked = true → 2000000 ≤ s.time → s.power.initAt = none →
    ∃ t, exec (.memInitStart u) s = .next t ∧ t.power.initAt = some s.time ∧ t.mem = s.mem ∧ t.syn = s.syn ∧ t.slices = s.slices ∧
      t.ctxs = s.ctxs ∧ (u ≠ 0 → t.held = []) ∧ (u = 0 → t.held = s.held ∧ t.out = s.out) ∧
      ∀ k : Fin 4, if u.getLsbD k then t.on (mcrP k) StkMcr.INIT_FAIL = true else t.on (mcrP k) StkMcr.INIT_BUSY = true) ∧
  (∀ (s : State) (k : Fin 4) (i : Nat), s.wf = true → s.live = true → s.power.initAt = some i → s.on (mcrP k) StkMcr.INIT_BUSY = true →
    s.tkg.debt = 0 → s.time < s.tkg.accruedAt + s.interval → i + 2097152 + tRef * s.power.fillRefs ≤ s.time →
    ∃ t, exec (.stackInitDone k) s = .next t ∧ t.on (mcrP k) StkMcr.INIT_DONE = true ∧ t.on (mcrP k) StkMcr.INIT_BUSY = false ∧
      (∀ a, t.peek true a 1 = if a / 2 ^ 33 = k.val then [0] else s.peek true a 1) ∧
      (∀ b, spGet 0 t.syn b = if b / 2 ^ 28 = k.val then 0 else spGet 0 s.syn b) ∧
      sameRegs s t [(mcrP k, StkMcr.INIT_DONE), (mcrP k, StkMcr.INIT_BUSY)] ∧ t.slices = s.slices ∧ t.ctxs = s.ctxs) ∧
  (∀ s : State, s.live = true → s.on carveP GlbCarve.MEM_INIT_DONE = false → (∀ k, k < 4 → s.on (mcrP k) StkMcr.INIT_DONE = true) →
    ∃ t, exec .memInitDone s = .next t ∧ t.on carveP GlbCarve.MEM_INIT_DONE = true ∧ t.held = [] ∧ t.tkg = { s.tkg with armAt := s.time } ∧
      (s.held = [] → t.mem = s.mem ∧ t.out = s.out ∧ t.slices = s.slices ∧ t.ctxs = s.ctxs)) ∧
  ∀ (s : State) (k : Fin 4), s.live = true → s.on (mcrP k) StkMcr.INIT_BUSY = true →
    ∃ t, exec (.initFail k) s = .next t ∧ t.on (mcrP k) StkMcr.INIT_FAIL = true ∧ t.on (mcrP k) StkMcr.INIT_BUSY = false ∧ t.held = [] ∧
      t.mem = s.mem ∧ t.syn = s.syn ∧ t.slices = s.slices ∧ t.ctxs = s.ctxs ∧
      sameRegs s t [(mcrP k, StkMcr.INIT_FAIL), (mcrP k, StkMcr.INIT_BUSY)]

/-- The refresh debt rises by one an interval and falls by one a refresh, which closes every row; a repair, outside a refresh and one at a time in a
channel, writes its corrected beat and no other byte, and may take its 40 ns (R55, R105, R109). -/
def Obligations.RefreshAndRepair : Prop :=
  (∀ s : State, s.live = true → s.power.initAt.isSome = true → s.tkg.accruedAt + s.interval ≤ s.time →
    ∃ t, exec .refreshDebtAccrue s = .next t ∧ t.tkg = { s.tkg with debt := s.tkg.debt + 1, accruedAt := s.tkg.accruedAt + s.interval } ∧
      (∀ k, k < 4 → t.f (refP k) StkRefresh.DEBT_NOW = satN 4 (s.tkg.debt + 1)) ∧ t.mem = s.mem ∧ t.slices = s.slices ∧ t.buSt = s.buSt) ∧
  (∀ s : State, s.live = true → s.power.initAt.isSome = true → 0 < s.tkg.debt → s.refreshRoom tRef = true → s.tkg.refFree ≤ s.time →
    (∀ e ∈ s.tkg.repFree, e.2 ≤ s.time) →
    ∃ t, exec .refresh s = .next t ∧ t.tkg = { s.tkg with debt := s.tkg.debt - 1, refFree := s.time + tRef } ∧
      (∀ k, k < 4 → t.f (refP k) StkRefresh.REF_CNT = satN 32 (s.f (refP k) StkRefresh.REF_CNT + 1)) ∧
      (∀ u, (spGet {} t.buSt u).row = none) ∧ t.mem = s.mem ∧ t.syn = s.syn ∧ t.slices = s.slices ∧ t.ctxs = s.ctxs) ∧
  ∀ (s : State) (k : Fin 4) (c : Fin 16) (r : Repair) (l : List Repair), s.wf = true → s.live = true →
    spGet [] s.repairs (k.val * 16 + c.val) = r :: l → r.bytes.length = 32 → (s.tkg.debt = 0 ∨ s.refreshRoom tRef = false) →
    s.refreshRoom 40 = true → s.tkg.refFree ≤ s.time → spGet 0 s.tkg.repFree (k.val * 16 + c.val) ≤ s.time →
    ∃ t, exec (.repairWrite k c) s = .next t ∧ spGet 0 t.tkg.repFree (k.val * 16 + c.val) = s.time + 40 ∧ spGet 0 t.syn (r.addr / 32) = 0 ∧
      (∀ a, t.peek true a 1 = if a / 32 = r.addr / 32 then [r.bytes.getD (a % 32) 0] else s.peek true a 1) ∧
      t.f (mcrP k) StkMcr.REPAIR_CNT = satN 16 (s.f (mcrP k) StkMcr.REPAIR_CNT + 1) ∧ t.ctxs = s.ctxs

/-- A host write to clean memory, with clean table entries, every granule of which the port may reach outside the carve-out, stores its bytes at the addresses named in the view
named, and changes no other byte, unless the port has written the beat through the other aperture since its latest read; of two such writes of a whole
beat one stands whole; a write that the port may not make is counted and stores nothing, and one of carve-out bytes is counted as such
(R89, R97, R107, R113, R296). -/
def Obligations.AHostWriteStoresItsBytes : Prop :=
  (∀ (s : State) (p : Fin 4) (ap : Aperture) (addr : Nat) (bytes : List Byte) (bad : Bool), s.wf = true → s.reaches (.port p) = true →
    s.on (linkP p) HptLink.TEARDOWN_BUSY = false → s.on carveP GlbCarve.MEM_INIT_DONE = true → s.initFailed = false → bytes ≠ [] →
    addr + bytes.length ≤ 2 ^ 35 →
    (∀ g ∈ hostGranules (ap = .bank) addr bytes.length, inCarve g.1 = false ∧ s.portFrame p (frameOf (s.zoneBank (zoneOf g.1)) g.1) = true) →
    (∀ a, addr ≤ a → a < addr + bytes.length → spGet 0 s.syn (viewAddr (ap = .bank) a / 32) = 0) →
    (∀ a, addr ≤ a → a < addr + bytes.length → s.crossed p ap (viewAddr (ap = .bank) a / 32) = 0) →
    s.tablesClean (hostGranules (ap = .bank) addr bytes.length) →
    ∃ t, exec (.hostMemoryWrite p ap addr bytes bad) s = .next t ∧ t.ctxs = s.ctxs ∧ t.out = s.out ∧ t.time = s.time ∧
      ∀ a, a < 2 ^ 35 → t.peek (ap = .bank) a 1 = if addr ≤ a ∧ a < addr + bytes.length then [bytes.getD (a - addr) 0] else s.peek (ap = .bank) a 1) ∧
  (∀ (s : State) (p : Fin 4) (ap : Aperture) (addr : Nat) (bytes : List Byte) (bad : Bool), s.wf = true → s.reaches (.port p) = true →
    s.on (linkP p) HptLink.TEARDOWN_BUSY = false → s.on carveP GlbCarve.MEM_INIT_DONE = true → s.initFailed = false → bytes.length = 32 →
    addr % 32 = 0 → addr + 32 ≤ 2 ^ 35 → inCarve (viewAddr (ap = .bank) addr) = false →
    s.portFrame p (frameOf (s.zoneBank (zoneOf (viewAddr (ap = .bank) addr))) (viewAddr (ap = .bank) addr)) = true →
    s.crossed p ap (viewAddr (ap = .bank) addr / 32) = 2 ^ 32 - 1 → s.tablesClean (hostGranules (ap = .bank) addr 32) →
    ∃ t, exec (.hostMemoryWrite p ap addr bytes bad) s = .next t ∧
      (t.peek (ap = .bank) addr 32 = bytes ∨ t.peek (ap = .bank) addr 32 = s.peek (ap = .bank) addr 32)) ∧
  ∀ (s : State) (p : Fin 4) (ap : Aperture) (addr : Nat) (bytes : List Byte) (bad : Bool), s.reaches (.port p) = true →
    s.on (linkP p) HptLink.TEARDOWN_BUSY = false → s.on carveP GlbCarve.MEM_INIT_DONE = true → s.initFailed = false →
    addr + bytes.length ≤ 2 ^ 35 → s.barOk p (hostGranules (ap = .bank) addr bytes.length) = false →
    s.tablesClean (hostGranules (ap = .bank) addr bytes.length) →
    let u := if (hostGranules (ap = .bank) addr bytes.length).any (fun g => inCarve g.1) then
      (s.bump carveP GlbCarve.CARVE_WR_CNT).setF carveP GlbCarve.CARVE_WR_PORT p else s
    exec (.hostMemoryWrite p ap addr bytes bad) s = .next (u.bump (xlP p) HptXlate.BAR_DENY_CNT)

/-- A host read of clean memory that the port may reach answers its bytes and changes nothing else, but that the port's later writes follow
its earlier ones; one that it may not make is counted and answers zeros, but for what the admin port reads of the carve-out (R89, R97, R113, R296). -/
def Obligations.AHostReadAnswersTheBytes : Prop :=
  ∀ (s : State) (p : Fin 4) (ap : Aperture) (addr len : Nat), s.reaches (.port p) = true →
    s.on (linkP p) HptLink.TEARDOWN_BUSY = false → s.on carveP GlbCarve.MEM_INIT_DONE = true → s.initFailed = false → 1 ≤ len →
    addr + len ≤ 2 ^ 35 → s.tablesClean (hostGranules (ap = .bank) addr len) →
    ((∀ g ∈ hostGranules (ap = .bank) addr len, inCarve g.1 = false ∧ s.portFrame p (frameOf (s.zoneBank (zoneOf g.1)) g.1) = true) →
      (∀ a, addr ≤ a → a < addr + len → spGet 0 s.syn (viewAddr (ap = .bank) a / 32) = 0) →
      exec (.hostMemoryRead p ap addr len []) s = .next { s.readDone p with out := s.out ++ [.completion p.val (s.peek (ap = .bank) addr len) false] }) ∧
    (s.barOk p (hostGranules (ap = .bank) addr len) = false →
      (p.val ≠ s.admin ∨ ∀ g ∈ hostGranules (ap = .bank) addr len, inCarve g.1 = false) →
      exec (.hostMemoryRead p ap addr len []) s =
        .next { (s.bump (xlP p) HptXlate.BAR_DENY_CNT).readDone p with out := s.out ++ [.completion p.val (zeros len) false] })

/-- The code of a beat: one flipped bit, of data or of check bits, is corrected, counted and queued for repair, and two are found and poison the
completion (R103, R104, R105, R106). -/
def Obligations.OneFlipIsCorrectedAndTwoAreFound : Prop :=
  ∀ (s : State) (p : Fin 4) (b i : Nat), s.reaches (.port p) = true → s.on (linkP p) HptLink.TEARDOWN_BUSY = false →
    s.on carveP GlbCarve.MEM_INIT_DONE = true → s.initFailed = false → b < 2 ^ 30 → i < 272 → inCarve (b * 32) = false →
    s.portFrame p (frameOf (s.zoneBank (zoneOf (b * 32))) (b * 32)) = true → s.wf = true → spGet 0 s.syn b = 0 →
    s.tablesClean (hostGranules true (b * 32) 32) →
    let pg : Page := ⟨.stkEcc, b / 2 ^ 28, 0⟩
    (∃ t, exec (.hostMemoryRead p .bank (b * 32) 32 [⟨b, i⟩]) s = .next t ∧
      t.out.getLast? = some (.completion p.val (s.peek true (b * 32) 32) false) ∧
      t.f pg StkEcc.CE_CNT = satN 32 (s.f pg StkEcc.CE_CNT + 1) ∧ t.f pg StkEcc.LAST_ADDR = b * 32 ∧
      t.f pg StkEcc.UE_CNT = s.f pg StkEcc.UE_CNT ∧
      ((spGet [] s.repairs (b / 2 ^ 24)).length < 16 →
        ⟨b * 32, s.peek true (b * 32) 32⟩ ∈ spGet [] t.repairs (b / 2 ^ 24))) ∧
    ∀ j, j < 272 → j ≠ i →
      ∃ t bytes, exec (.hostMemoryRead p .bank (b * 32) 32 [⟨b, i⟩, ⟨b, j⟩]) s = .next t ∧
        t.out.getLast? = some (.completion p.val bytes true) ∧ t.f pg StkEcc.UE_CNT = satN 32 (s.f pg StkEcc.UE_CNT + 1) ∧
        t.f pg StkEcc.CE_CNT = s.f pg StkEcc.CE_CNT

/-! ## Bank units -/

/-- NOP completes at once; an engine command starts when no other command is at work in its bank units and waits while one runs there, and a command of
the host or the HIB starts or resumes in each bank unit that lets it; a RUN enters its program; a part at its cycle limit ends with `LIMIT`, with a DOT
every part and its flits, and a run-ahead DOT is dropped; a command whose parts have ended frees its place, is counted, gives its slice its flags, and
ends the queue command that issued it (R115, R120, R121, R123, R126, R127, R133, R349). -/
def Obligations.BankUnitCommandsStartAndEnd : Prop :=
  (∀ (s : State) (id : Nat) (c : BuCmd), s.clocked = true → s.findBu id = some c → c.op = 0 → c.st = .queued →
    exec (.buNop id) s = .next { s with bus := s.bus.map fun d => if d.id = id then { c with st := .done, status := 0 } else d }) ∧
  (∀ (s : State) (id : Nat) (c : BuCmd), s.clocked = true → s.findBu id = some c → c.op ≠ 0 → c.st = .queued → c.issuer.isEngine = true →
    ((∀ d ∈ s.bus, d.id ≠ id → ∀ p ∈ c.parts, d.busyAt (c.key p) = false) →
      ∃ t, exec (.buCommandStart id) s = .next t ∧
        t.findBu id = some { c with st := .running, parts := c.parts.map fun p => { p with yielded := false, started := true } } ∧
        (c.op ≠ 5 → ∀ p ∈ c.parts, p.fin = false → (t.bu (c.key p)).cmd = some id ∧ (t.bu (c.key p)).flags = 0) ∧
        t.mem = s.mem ∧ t.regs = s.regs ∧ t.ctxs = s.ctxs ∧ ∀ n, { t.slice n with opened := [] } = { s.slice n with opened := [] }) ∧
    ((∃ d ∈ s.bus, d.id ≠ id ∧ d.st = .running ∧ ∃ p ∈ c.parts, ∃ q ∈ d.parts, d.key q = c.key p ∧ q.fin = false ∧ q.yielded = false) →
      exec (.buCommandStart id) s = .next s)) ∧
  (∀ (s : State) (id : Nat) (c : BuCmd), s.clocked = true → s.findBu id = some c → c.op ≠ 0 → c.st = .queued ∨ c.st = .running →
    c.issuer.isEngine = false → (∃ p ∈ c.parts, p.yielded = true ∧ p.fin = false ∧ s.hostPartOk id (c.key p) p = true) →
    let go := fun (p : BuPart) => if s.hostPartOk id (c.key p) p then { p with yielded := false, started := true } else p
    ∃ t, exec (.buCommandStart id) s = .next t ∧ t.findBu id = some { c with st := .running, parts := c.parts.map go } ∧
      t.mem = s.mem ∧ t.regs = s.regs ∧ t.ctxs = s.ctxs ∧ t.slices = s.slices) ∧
  (∀ (s : State) (id : Nat) (c : BuCmd), s.clocked = true → s.findBu id = some c → c.op = 5 → c.st = .running → (c.parts.map c.key).Nodup →
    ∃ t, exec (.buRun id) s = .next t ∧ t.mem = s.mem ∧ t.regs = s.regs ∧ t.slices = s.slices ∧ t.bus = s.bus ∧
      ∀ j p, c.parts[j]? = some p → p.fin = false → (s.bu (c.key p)).cmd ≠ some id →
        let b := t.bu (c.key p)
        b.cmd = some id ∧ b.pc = c.entry ∧ b.flags = 0 ∧ b.bad = [] ∧ b.reg 1 = c.srcOff % 2 ^ 32 ∧ b.reg 2 = c.dstOff % 2 ^ 32 ∧
        b.reg 3 = c.word3 % 2 ^ 32 ∧ b.reg 4 = c.count % 2 ^ 32 ∧ b.reg 5 = j % 2 ^ 32 ∧ b.reg 6 = c.parts.length % 2 ^ 32) ∧
  (∀ (s : State) (id : Nat) (c : BuCmd), s.clocked = true → s.findBu id = some c → c.st = .running → c.limit ≠ 0 →
    (∃ p ∈ c.parts, p.fin = false ∧ c.limit ≤ p.cyc) →
    let ended := fun (p : BuPart) => { p with fin := true, own := [], fault := if p.fault = 0 then 0x15 else p.fault }
    (c.runahead = false → c.op ≠ 1 →
      exec (.cycleLimit id) s = .next (s.putBu { c with parts := c.parts.map fun p => if p.fin = false ∧ c.limit ≤ p.cyc then ended p else p })) ∧
    (c.runahead = false → c.op = 1 →
      ∃ t, exec (.cycleLimit id) s = .next t ∧
        t.findBu id = some { c with parts := c.parts.map fun p => if p.fin then p else ended p } ∧
        (∀ k, k < 16 → ∀ f ∈ (t.bu (buKey c.stack c.chan k)).link, f.cmd ≠ id) ∧ t.mem = s.mem ∧ t.regs = s.regs ∧ t.slices = s.slices) ∧
    (c.runahead = true →
      ∃ t, exec (.cycleLimit id) s = .next t ∧ t.findBu id = none ∧ t.mem = s.mem ∧ t.slices = s.slices ∧
        t.f (perfP c.slice) SlcPerf.RA_DROPPED = satN SlcPerf.RA_DROPPED.width (s.f (perfP c.slice) SlcPerf.RA_DROPPED + 1))) ∧
  ∀ (s : State) (id : Nat) (c : BuCmd), s.clocked = true → s.findBu id = some c → c.stack < 4 → c.ready = true → s.hib.jobs = [] →
    let st := if c.st = .done then c.status else c.partStatus.1
    ∃ t, exec (.buCommandComplete id) s = .next t ∧ t.findBu id = none ∧
      t.f (buP c.stack) StkBu.BU_CMD_CNT = satN 32 (s.f (buP c.stack) StkBu.BU_CMD_CNT + 1) ∧
      (0x10 ≤ st → t.f (buP c.stack) StkBu.BU_FAULT_CNT = satN 32 (s.f (buP c.stack) StkBu.BU_FAULT_CNT + 1) ∧
        t.f (buP c.stack) StkBu.LF_STATUS = st % 256) ∧
      (st < 0x10 → t.mem = s.mem ∧ t.ctxs = s.ctxs ∧
        ∀ n, c.issuer = .engine n → c.abandoned = false → t.slice n = (s.slice n).flag (sliceFlags c.stickyFlags)) ∧
      ∀ q, c.issuer = .host q → st = 0 → t.cmds = (s.finishCmd q stDone 0).cmds

/-- Any number of beats of a FILL, COPY or DIGEST and of rows of a DOT advance each part that runs, as far as its limit lets it; the bytes that they
write are the pattern, the source's beat, in the order of the beats, and the digest of all that the parts read; a row of a DOT adds its products to the
partials of its bank unit; nothing else of memory changes, and a run-ahead writes nothing (R118, R120, R123, R124, R128, R136, R137). -/
def Obligations.BankUnitCommandsMoveBeats : Prop :=
  ∀ (s : State) (id : Nat) (c : BuCmd), s.wf = true → s.clocked = true → s.findBu id = some c → c.st = .running → c.stack < 4 → c.chan < 16 →
    (∀ p ∈ c.parts, p.bank < 16) → (c.parts.map (·.bank)).Nodup →
    let at_ := fun (p : BuPart) (o : Nat) => bankAddr c.stack c.chan p.bank o
    let src := fun (p : BuPart) => at_ p (c.srcOff + 32 * p.at_)
    let dst := fun (p : BuPart) => at_ p (c.dstOff + 32 * p.at_)
    let opens := fun (p : BuPart) => if (s.bu (c.key p)).row = some ((c.srcOff + 32 * p.at_) / 1024) then 0 else 4
    let clean := fun (o n : Nat) => ∀ p ∈ c.parts, c.canStep p = true → ∀ i, i < n → spGet 0 s.syn (at_ p (o + 32 * i) / 32) = 0
    (∀ n, (c.op = 2 → ∃ t d, exec (.buFill id n) s = .next t ∧ t.findBu id = some d ∧ c.progress d n n) ∧
      (c.op = 3 → ∃ t d, exec (.buCopy id n) s = .next t ∧ t.findBu id = some d ∧ c.progress d n (6 * n)) ∧
      (c.op = 4 → ∃ t d, exec (.buDigest id n) s = .next t ∧ t.findBu id = some d ∧ c.progress d n (5 * n)) ∧
      (c.op = 1 → c.runahead = false → ∃ t d, exec (.buDot id n) s = .next t ∧ t.findBu id = some d ∧
        c.progress d n ((n + 1) * (6 * c.kcBeats * (c.batch + 1) + 4))) ∧
      (c.op = 1 → c.runahead = true → ∃ t, exec (.buDot id n) s = .next t ∧ t.mem = s.mem ∧ t.syn = s.syn ∧ t.slices = s.slices ∧
        t.ctxs = s.ctxs)) ∧
    (∀ n, c.op = 2 → 1 ≤ n → c.dstOff % 32 = 0 → c.dstOff + 32 * c.count ≤ 2 ^ 25 →
      (∀ p ∈ c.parts, c.canStep p = true → p.at_ + n ≤ c.count ∧ (c.limit = 0 ∨ p.cyc + n ≤ c.limit)) →
      let go := fun (p : BuPart) => if c.canStep p then { p with at_ := p.at_ + n, cyc := p.cyc + n, fin := p.at_ + n = c.count } else p
      ∃ t, exec (.buFill id n) s = .next t ∧ t.findBu id = some { c with parts := c.parts.map go } ∧
        ∀ a, t.peek true a 1 =
          if c.parts.any fun p => c.canStep p && decide (dst p ≤ a) && decide (a < dst p + 32 * n) then [BitVec.ofNat 8 (c.word3 >>> (8 * (a % 4)))]
          else s.peek true a 1) ∧
    ((∀ p ∈ c.parts, c.canStep p = true → p.at_ < c.count ∧ spGet 0 s.syn (src p / 32) = 0) →
      (c.op = 3 → c.srcOff % 32 = 0 → c.dstOff % 32 = 0 → c.srcOff + 32 * c.count ≤ 2 ^ 25 → c.dstOff + 32 * c.count ≤ 2 ^ 25 →
        let go := fun (p : BuPart) =>
          if c.canStep p then { p with at_ := p.at_ + 1, cyc := p.cyc + 2 + opens p, fin := p.at_ + 1 = c.count } else p
        ∃ t, exec (.buCopy id 1) s = .next t ∧ t.findBu id = some { c with parts := c.parts.map go } ∧
          (∀ p ∈ c.parts, c.canStep p = true → t.peek true (dst p) 32 = s.peek true (src p) 32) ∧
          ∀ a, (∀ p ∈ c.parts, c.canStep p = true → a < dst p ∨ dst p + 32 ≤ a) → t.peek true a 1 = s.peek true a 1) ∧
      (c.op = 4 → c.srcOff % 32 = 0 → c.srcOff + 32 * c.count ≤ 2 ^ 25 →
        let ps := c.parts.map fun p => if c.canStep p then
          { p with at_ := p.at_ + 1, cyc := p.cyc + 1 + opens p, fin := p.at_ + 1 = c.count, acc := p.acc ++ s.peek true (src p) 32 } else p
        ∃ t, exec (.buDigest id 1) s = .next t ∧ t.findBu id = some { c with parts := ps } ∧
          ((∃ p ∈ ps, p.at_ < c.count) → t.mem = s.mem ∧ t.regs = s.regs) ∧
          ∀ p, c.parts.head? = some p → (∀ p ∈ ps, c.count ≤ p.at_ ∧ p.accBad = false) → (∃ p ∈ c.parts, p.at_ < c.count) → c.dstOff % 8 = 0 →
            c.dstOff < 2 ^ 25 → spGet 0 s.syn (at_ p c.dstOff / 32) = 0 →
            t.peek true (at_ p c.dstOff) 8 = leBytes 8 (mace (ps.flatMap (·.acc))) ∧
            ∀ a, a < at_ p c.dstOff ∨ at_ p c.dstOff + 8 ≤ a → t.peek true a 1 = s.peek true a 1)) ∧
    (c.op = 1 → c.digestEn = false → c.runahead = false → c.destBank = false → c.srcOff % 32 = 0 → c.word3 % 32 = 0 →
      c.word3 % 2 ^ 25 + c.batch * c.kc ≤ 2 ^ 25 → c.srcOff + c.count * c.kc ≤ 2 ^ 25 → (∀ p ∈ c.parts, c.canStep p = true → p.at_ < c.count) →
      clean (c.word3 % 2 ^ 25) (c.batch * c.kcBeats) → clean c.srcOff (c.count * c.kcBeats) →
      ∃ t d, exec (.buDot id 1) s = .next t ∧ t.findBu id = some d ∧ t.mem = s.mem ∧ t.regs = s.regs ∧ t.slices = s.slices ∧
        ∀ (j : Nat) (p q : BuPart), c.parts[j]? = some p → d.parts[j]? = some q → c.canStep p = true →
          q.at_ = p.at_ + 1 ∧ q.fault = p.fault ∧ q.sent + q.own.length = p.sent + p.own.length + c.batch ∧
          (j + 1 < c.parts.length → (p.at_ = 0 ∨ p.actsBad = List.replicate (c.batch * c.kcBeats) false) →
            q.own = p.own ++ (dotRow c (if p.at_ = 0 then s.peek true (at_ p (c.word3 % 2 ^ 25)) (c.batch * c.kc) else p.acts)
              (List.replicate (c.batch * c.kcBeats) false)
              ((List.range c.kcBeats).map fun i => (s.peek true (at_ p (c.srcOff + p.at_ * c.kc + 32 * i)) 32, false))).1))

/-- A flit that no command of the receiver takes passes down the chain, poisoned and counted where its parity fails; one for the receiver's DOT is joined
with its own partials on the way, and that part ends with `CHAIN_PAR` where the parity fails; and the chain head gives a DOT's results to the chain
plane of its slice, in order (R129, R130, R176, R360). -/
def Obligations.TheChainCarriesPartials : Prop :=
  (∀ (s : State) (u : BuId) (f : Flit) (rest : List Flit), s.clocked = true → u.bank.val < 15 → (s.bu (buIdKey u + 1)).link = f :: rest →
    (s.dotPart u f.cmd = none → (s.bu (buIdKey u)).cmd = none →
      ∃ t, exec (.chainFlit u false) s = .next t ∧ (t.bu (buIdKey u + 1)).link = rest ∧
        (t.bu (buIdKey u)).link = (s.bu (buIdKey u)).link ++ [f] ∧ t.mem = s.mem ∧ t.regs = s.regs ∧ t.slices = s.slices ∧ t.bus = s.bus) ∧
    (s.dotPart u f.cmd = none → (s.bu (buIdKey u)).cmd = none → f.poison = false →
      ∃ t, exec (.chainFlit u true) s = .next t ∧ (t.bu (buIdKey u + 1)).link = rest ∧
        (t.bu (buIdKey u)).link = (s.bu (buIdKey u)).link ++ [{ f with poison := true }] ∧
        t.f (buP u.stack.val) StkBu.CHAIN_PAR_CNT = satN StkBu.CHAIN_PAR_CNT.width (s.f (buP u.stack.val) StkBu.CHAIN_PAR_CNT + 1)) ∧
    (∀ c p, s.dotPart u f.cmd = some (c, p) → f.vals.length ≤ p.own.length → c.destBank = false → c.runahead = false → f.poison = false → p.fault = 0 →
      ∃ t d q, exec (.chainFlit u true) s = .next t ∧ (t.bu (buIdKey u)).link = (s.bu (buIdKey u)).link ++ [(joinFlit c p.own { f with poison := true }).1] ∧
        t.findBu c.id = some d ∧ q ∈ d.parts ∧ q.bank = p.bank ∧ q.fault = 0x11) ∧
    ∀ c p, s.dotPart u f.cmd = some (c, p) → f.vals.length ≤ p.own.length → c.destBank = false →
      ∃ t, exec (.chainFlit u false) s = .next t ∧ (t.bu (buIdKey u + 1)).link = rest ∧
        (t.bu (buIdKey u)).link = (s.bu (buIdKey u)).link ++ [(joinFlit c p.own f).1] ∧ t.mem = s.mem ∧ t.regs = s.regs ∧ t.slices = s.slices) ∧
  ∀ (s : State) (id : Nat) (c : BuCmd) (f : Flit) (rest : List Flit), s.clocked = true → s.findBu id = some c →
    (s.bu (buKey c.stack c.chan 0)).link = f :: rest → f.cmd = id → c.op = 1 → c.destBank = false →
    ∃ t, exec (.chainResultDelivery id) s = .next t ∧ (t.bu (buKey c.stack c.chan 0)).link = rest ∧
      t.findBu id = some { c with delivered := c.delivered + f.vals.length } ∧ t.mem = s.mem ∧ t.regs = s.regs ∧
      (c.abandoned = true → t.slices = s.slices) ∧
      (c.abandoned = false → ∃ l, (t.slice c.slice) = { s.slice c.slice with plane := (s.slice c.slice).plane ++ l } ∧ l.length = f.vals.length ∧
        ∀ i e, l[i]? = some e → e.1 = c.zbank ∧ e.2.val = f.vals.getD i 0 ∧ e.2.poison = f.poison ∧ e.2.row = (c.delivered + i) / c.batch ∧
          e.2.col = (c.delivered + i) % c.batch)

/-! ## Micro-programs -/

/-- The integer words of a micro-program give rd the exact result, wrapped or brought into range as R211 says, with DIVZ (bit 0) or saturation (bit 2)
in `FLAGS`, and touch nothing else (R127, R211, R212). -/
def Obligations.IntegerWordsGiveTheExactResult : Prop :=
  ∀ (s : State) (u : BuId) (x : UCtx) (w : UWord) (b : BuState) (op : Nat), s.atWord u op x w b →
    let a := spGet 0 b.scr w.ra
    let c := spGet 0 b.scr w.rb
    let ans := fun (v : W32) (fl n : Nat) => (.next (s.afterWord u x w { b with scr := spPut 0 b.scr w.rd v, pc := b.pc + 1, flags := b.flags ||| fl } n)
      : Host.Outcome State Fault Refusal)
    let sat := fun (v : Int) => ans (BitVec.ofInt 32 (clamp32 v)) (if v = clamp32 v then 0 else 4)
    (op = 0x04 → exec (.uAdd u) s = ans (a + c) 0 1) ∧ (op = 0x05 → exec (.uAdds u) s = sat (a.toInt + c.toInt) 1) ∧
    (op = 0x06 → exec (.uSub u) s = ans (a - c) 0 1) ∧ (op = 0x07 → exec (.uSubs u) s = sat (a.toInt - c.toInt) 1) ∧
    (op = 0x08 → exec (.uMul u) s = ans (a * c) 0 1) ∧ (op = 0x09 → exec (.uMuls u) s = sat (a.toInt * c.toInt) 1) ∧
    (op = 0x0A → exec (.uDiv u) s =
      if c = 0 then ans (if 0 ≤ a.toInt then 0x7FFFFFFF#32 else 0x80000000#32) 1 8 else sat (a.toInt.tdiv c.toInt) 8) ∧
    (op = 0x0B → exec (.uRem u) s = if c = 0 then ans a 1 8 else ans (BitVec.ofInt 32 (a.toInt.tmod c.toInt)) 0 8) ∧
    (op = 0x0C → exec (.uNeg u) s = sat (-a.toInt) 1) ∧ (op = 0x0D → exec (.uAbs u) s = sat (if a.toInt < 0 then -a.toInt else a.toInt) 1) ∧
    (op = 0x0E → exec (.uAnd u) s = ans (a &&& c) 0 1) ∧ (op = 0x0F → exec (.uOr u) s = ans (a ||| c) 0 1) ∧
    (op = 0x10 → exec (.uXor u) s = ans (a ^^^ c) 0 1) ∧ (op = 0x11 → exec (.uShl u) s = ans (a <<< c.toNat) 0 1) ∧
    (op = 0x12 → exec (.uShls u) s = sat (a.toInt * 2 ^ c.toNat) 1) ∧ (op = 0x13 → exec (.uShr u) s = ans (a >>> c.toNat) 0 1) ∧
    (op = 0x14 → exec (.uSar u) s = ans (a.sshiftRight c.toNat) 0 1) ∧
    (op = 0x15 → exec (.uMin u) s = ans (if a.toInt ≤ c.toInt then a else c) 0 1) ∧
    (op = 0x16 → exec (.uMax u) s = ans (if a.toInt ≤ c.toInt then c else a) 0 1) ∧
    (op = 0x17 → exec (.uAddi u) s = ans (a + BitVec.ofNat 32 w.imm) 0 1)

/-- The words that move a value between registers, and the branches, which go to their target in 2 cycles when taken and end the part with `BAD_OP`
where the target lies outside the program; END ends the part (R121, R127). -/
def Obligations.MovesAndBranches : Prop :=
  ∀ (s : State) (u : BuId) (x : UCtx) (w : UWord) (b : BuState) (op : Nat), s.atWord u op x w b →
    let next := fun (b' : BuState) => (.next (s.afterWord u x w { b' with pc := b.pc + 1 } 1) : Host.Outcome State Fault Refusal)
    let rd := fun (v : W32) => next { b with scr := spPut 0 b.scr w.rd v }
    let goes := fun (b' : BuState) => (.next (s.afterWord u x w { b' with pc := w.imm % 1024 } 2) : Host.Outcome State Fault Refusal)
    let inside := x.lo ≤ w.imm % 1024 ∧ w.imm % 1024 < x.hi
    let ra := spGet 0 b.scr w.ra
    (op = 0x00 → exec (.uNop u) s = next b) ∧ (op = 0x02 → exec (.uLdi u) s = rd (BitVec.ofNat 32 w.imm)) ∧
    (op = 0x03 → exec (.uMov u) s = rd ra) ∧
    (op = 0x24 → exec (.uXw u) s = rd (BitVec.ofNat 32 (leAt (b.beat w.bsel) (4 * (w.imm % 8)) 4))) ∧
    (op = 0x25 → exec (.uIw u) s = next (b.setBeat w.bsel (bytesPut (b.beat w.bsel) (4 * (w.imm % 8)) (leBytes 4 ra.toNat)))) ∧
    (op = 0x38 → exec (.uFlags u) s = rd (BitVec.ofNat 32 (b.flags % 8))) ∧
    (op = 0x01 → ∃ t, exec (.uEnd u) s = .next t ∧
      t.bus = (s.putPart x.c { x.p with fin := true, cyc := x.p.cyc + 1 }).bus ∧ t.mem = s.mem ∧ t.regs = s.regs ∧ t.slices = s.slices) ∧
    (inside →
      (op = 0x18 → exec (.uBr u) s = goes b) ∧
      (op = 0x19 → exec (.uBz u) s = if ra = 0 then goes b else next b) ∧
      (op = 0x1A → exec (.uBnz u) s = if ra = 0 then next b else goes b) ∧
      (op = 0x1B → exec (.uBlt u) s = if ra.toInt < (spGet 0 b.scr w.rb).toInt then goes b else next b) ∧
      (op = 0x1C → exec (.uLoop u) s =
        if spGet 0 b.scr w.rd = 0 then next b else goes { b with scr := spPut 0 b.scr w.rd (spGet 0 b.scr w.rd - 1) })) ∧
    (¬ inside → op = 0x18 → ∃ t, exec (.uBr u) s = .next t ∧
      t.bus = (s.putPart x.c { x.p with fin := true, cyc := x.p.cyc + 2, flags := x.p.flags ||| b.flags, fault := if x.p.fault = 0 then 0x17 else x.p.fault }).bus ∧
      t.mem = s.mem ∧ t.regs = s.regs)

/-- The memory words read or write at ra + IMM in the bank, opening its row for 4 cycles where it is not open; a misaligned address or one outside the
context's frames ends the part with its fault, and nothing is written (R118, R126, R127, R137). -/
def Obligations.MemoryWordsReachTheirBank : Prop :=
  ∀ (s : State) (u : BuId) (x : UCtx) (w : UWord) (b : BuState) (op : Nat), s.wf = true → s.atWord u op x w b →
    let off := ((spGet 0 b.scr w.ra).toNat + w.imm) % 2 ^ 25
    let a := bankAddr u.stack.val u.chan.val u.bank.val off
    let row := if b.row = some (off / 1024) then 0 else 4
    let got := fun (n : Nat) => BitVec.ofNat 32 (leNat (s.peek true a n))
    let cyc := fun n => (s.putPart x.c { x.p with cyc := x.p.cyc + n, flags := x.p.flags ||| b.flags }).bus
    (s.uCheck x off 32 = 0 →
      (op = 0x20 → spGet 0 s.syn (a / 32) = 0 → ∃ t, exec (.uLdb u) s = .next t ∧ t.bus = cyc (1 + row) ∧
        t.bu (buIdKey u) = { b.setBeat w.bsel (s.peek true a 32) with row := some (off / 1024), pc := b.pc + 1, bad := b.taint w } ∧
        t.mem = s.mem ∧ t.regs = s.regs ∧ t.slices = s.slices) ∧
      (op = 0x21 → ∃ t, exec (.uStb u) s = .next t ∧ (t.bu (buIdKey u)) = { b with row := some (off / 1024), pc := b.pc + 1 } ∧ t.ctxs = s.ctxs ∧
        ∀ k, t.peek true k 1 = if a ≤ k ∧ k < a + 32 then [(b.beat w.bsel).getD (k - a) 0] else s.peek true k 1)) ∧
    (s.uCheck x off 4 = 0 → spGet 0 s.syn (a / 32) = 0 →
      (op = 0x22 → ∃ t, exec (.uLdw u) s = .next t ∧ t.bus = cyc (1 + row) ∧
        t.bu (buIdKey u) = { b with scr := spPut 0 b.scr w.rd (got 4), row := some (off / 1024), pc := b.pc + 1, bad := b.taint w } ∧
        t.mem = s.mem ∧ t.regs = s.regs ∧ t.slices = s.slices) ∧
      (op = 0x23 → ∃ t, exec (.uStw u) s = .next t ∧ (t.bu (buIdKey u)) = { b with row := some (off / 1024), pc := b.pc + 1 } ∧ t.ctxs = s.ctxs ∧
        ∀ k, t.peek true k 1 = if a ≤ k ∧ k < a + 4 then [(leBytes 4 (spGet 0 b.scr w.rd).toNat).getD (k - a) 0] else s.peek true k 1)) ∧
    ∀ e ∈ [(Instr.uLdb u, 0x20, 32, 1), (.uStb u, 0x21, 32, 1), (.uLdw u, 0x22, 4, 1), (.uStw u, 0x23, 4, 2)], op = e.2.1 →
      s.uCheck x off e.2.2.1 ≠ 0 → ∃ t, exec e.1 s = .next t ∧ t.mem = s.mem ∧ t.regs = s.regs ∧
        t.bus = (s.putPart x.c { x.p with fin := true, cyc := x.p.cyc + e.2.2.2, flags := x.p.flags ||| b.flags,
                                          fault := if x.p.fault = 0 then s.uCheck x off e.2.2.1 else x.p.fault }).bus

/-- Dot products, elementwise operations and chain words: what they leave in rd, in beat register 0 and on the chain; a reserved format ends the part
with `BAD_OP`; a receive with nothing to receive waits a cycle (R127, R128, R129). -/
def Obligations.BeatAndChainWords : Prop :=
  ∀ (s : State) (u : BuId) (x : UCtx) (w : UWord) (b : BuState) (op : Nat), s.atWord u op x w b →
    let dot := fun (p q : List Byte) => dotBeat w.fmt (b.reg w.rd) p q
    let long := if w.fmt = 2 then 1 else 0
    let off := ((spGet 0 b.scr w.ra).toNat + w.imm) % 2 ^ 25
    let a := bankAddr u.stack.val u.chan.val u.bank.val off
    (w.fmt ≤ 4 →
      (op = 0x28 → ∃ t, exec (.uDotb u) s = .next t ∧
        t.bus = (s.putPart x.c { x.p with cyc := x.p.cyc + 1 + long, flags := x.p.flags ||| (t.bu (buIdKey u)).flags }).bus ∧
        (t.bu (buIdKey u)).reg w.rd = (dot (b.beat false) (b.beat true)).1 % 2 ^ 32 ∧ (t.bu (buIdKey u)).pc = b.pc + 1 ∧ t.mem = s.mem ∧
        t.regs = s.regs ∧ t.slices = s.slices) ∧
      (op = 0x29 → s.uCheck x off 32 = 0 → spGet 0 s.syn (a / 32) = 0 → ∃ t, exec (.uDotm u) s = .next t ∧
        (t.bu (buIdKey u)).reg w.rd = (dot (b.beat w.bsel) (s.peek true a 32)).1 % 2 ^ 32 ∧ (t.bu (buIdKey u)).pc = b.pc + 1 ∧ t.mem = s.mem ∧
        t.regs = s.regs ∧ t.slices = s.slices)) ∧
    (w.fmt ≤ 5 → ∀ e ∈ [(Instr.uBadd u, 0x2A, IOp.adds, Fv.add), (.uBmul u, 0x2B, .muls, Fv.mul), (.uBmax u, 0x2C, .max, Fv.max),
        (.uBmin u, 0x2D, .min, Fv.min)], op = e.2.1 →
      ∃ t, exec e.1 s = .next t ∧ t.bus = (s.putPart x.c { x.p with cyc := x.p.cyc + 1, flags := x.p.flags ||| (t.bu (buIdKey u)).flags }).bus ∧
        (t.bu (buIdKey u)).pc = b.pc + 1 ∧
        (t.bu (buIdKey u)).scr = b.scr ∧ (t.bu (buIdKey u)).beat1 = b.beat1 ∧ t.mem = s.mem ∧ t.regs = s.regs ∧ t.slices = s.slices ∧
        (t.bu (buIdKey u)).beat0 = pack w.fmt ((List.zip (unpack w.fmt (b.beat false)) (unpack w.fmt (b.beat true))).map fun (p, q) =>
          (elemOp w.fmt e.2.2.1 e.2.2.2 p q).v)) ∧
    (op = 0x28 → 4 < w.fmt → ∃ t, exec (.uDotb u) s = .next t ∧ t.mem = s.mem ∧
      t.bus = (s.putPart x.c { x.p with fin := true, cyc := x.p.cyc + 1, flags := x.p.flags ||| b.flags, fault := if x.p.fault = 0 then 0x17 else x.p.fault }).bus) ∧
    (∀ q rest, b.input = q :: rest →
      (op = 0x30 → ∃ t, exec (.uCrecv u) s = .next t ∧
        t.bu (buIdKey u) = { b with scr := spPut 0 b.scr w.rd q.val, input := rest, pc := b.pc + 1, bad := b.taint w q.poison } ∧ t.mem = s.mem ∧ t.regs = s.regs) ∧
      (op = 0x32 → ∀ h, b.half = some h → ∃ t, exec (.uCadd u) s = .next t ∧ (t.bu (buIdKey u)).input = rest ∧ (t.bu (buIdKey u)).half = none ∧
        (t.bu (buIdKey u)).link = b.link ++ [⟨x.c.id, [h.val, BitVec.ofNat 32 (chainAdd x.c.fmt (b.reg w.ra) q.val.toNat).1],
          h.poison || (q.poison || b.tainted w)⟩] ∧ t.mem = s.mem ∧ t.regs = s.regs)) ∧
    (b.input = [] → op = 0x30 → exec (.uCrecv u) s = .next (s.putPart x.c { x.p with cyc := x.p.cyc + 1 })) ∧
    (op = 0x31 → exec (.uCsend u) s = .next (s.afterWord u x w
      (match b.half with
        | none => { b with half := some ⟨spGet 0 b.scr w.ra, b.tainted w⟩, pc := b.pc + 1 }
        | some h => { b with half := none, pc := b.pc + 1,
                             link := b.link ++ [⟨x.c.id, [h.val, spGet 0 b.scr w.ra], h.poison || b.tainted w⟩] }) 1))

/-! ## The matrix array -/

/-- A pass of the array: the fill reads the stationary operand into the shadow, a broadcast swap with no row in a stage makes the shadow active, and a
ripple swap behind a row of the same format enters the pass stage by stage; in a cycle the feeder reads a weight row or counts a bubble, each stage adds
its products to the row that has reached it, a row leaves the last stage for the skid queue, and the oldest row there is added to its accumulator
entries, brought into range for integers; the stages together give the exact integer sum; with the skid queue full the array holds; a product with
nothing left completes, and a merge adds one chain result to its entry; memory is not touched (R159, R160, R161, R162, R163, R164, R167, R171, R172,
R173, R176, R177). -/
def Obligations.TheArrayRunsAPass : Prop :=
  (∀ (s : State) (n : Fin 16) (q : Product), s.clocked = true → (s.slice n).run = true → (s.slice n).cur = some q →
    let x := s.slice n
    let kph := s.kphys n
    let nph := s.nphys n
    (q.swapped = false → q.filled = false → x.front = none → s.spanPending n q = false →
      ∃ t, exec (.shadowFill n false) s = .next t ∧ (t.slice n).shadow = (x.fillData q kph nph q.group q.pass).1 ∧
        (t.slice n).fillLeft = q.fillCycles kph nph q.group q.pass + 1 ∧ (t.slice n).cur = some { q with filled := true, touched := false } ∧
        (t.slice n).active = x.active ∧ (t.slice n).z = x.z ∧ t.mem = s.mem ∧ t.ctxs = s.ctxs) ∧
    (∀ g p, q.filled = true → x.front = none →
      ((q.swapped = false ∧ g = q.group ∧ p = q.pass) ∨ (q.swapped = true ∧ q.row = q.m ∧ q.after kph nph = some (g, p))) →
      let cur := some { q with swapped := true, filled := false, group := g, pass := p, row := 0 }
      let y := { x with lastFmt := some q.fmt, passNo := x.passNo + 1, operands := x.operands ++ [(x.passNo + 1, x.shadow)], waited := 0, cur := cur }
      (x.fillLeft = 0 → x.ripple = false → (∀ r ∈ x.pipe, r = none) →
        ∃ t r, exec (.broadcastSwap n) s = .next t ∧ t.slice n = { y with active := x.shadow, shadow := {}, resident := r } ∧
          t.f (perfP n) SlcPerf.BCAST = satN 16 (s.f (perfP n) SlcPerf.BCAST + 1) ∧ t.mem = s.mem ∧ t.ctxs = s.ctxs) ∧
      ((∃ r ∈ x.pipe, r ≠ none) → exec (.broadcastSwap n) s = .next s) ∧
      (x.lastFmt = some q.fmt →
        ((x.fillLeft ≤ 1 ∧ x.ripple = true) ∨
          (2 ≤ x.fillLeft ∧ x.fillLeft ≤ 3 ∧ ∃ i r, i + x.fillLeft ≤ stages kph + 2 ∧ x.pipe[i]? = some (some r))) →
        ∃ t r, exec (.rippleSwap n) s = .next t ∧ t.slice n = { y with front := some 0, resident := r } ∧
          t.f (perfP n) SlcPerf.RIPPLE = satN 16 (s.f (perfP n) SlcPerf.RIPPLE + 1) ∧
          t.f (perfP n) SlcPerf.ARR_BUBBLES = satN 32 (s.f (perfP n) SlcPerf.ARR_BUBBLES + x.waited) ∧ t.mem = s.mem ∧ t.ctxs = s.ctxs) ∧
      (x.lastFmt ≠ some q.fmt → exec (.rippleSwap n) s = .next s)) ∧
    (q.swapped = true → q.row < q.m → x.arrAt ≠ x.cyc + 1 →
      ∃ t, exec (.weightRowRead n false) s = .next t ∧ t.mem = s.mem ∧ t.ctxs = s.ctxs ∧
        (x.skid = [] → (t.slice n).z = x.z ∧ (t.slice n).zPoison = x.zPoison) ∧
        (∀ k rest, x.skid = k :: rest → x.portTaken k = false → k.fmt ≤ 2 →
          (∀ c, c < k.sums.length →
            let key := zKey k.z k.row (k.col0 + c)
            spGet 0 (t.slice n).z key =
              BitVec.ofInt 32 (clamp32 ((if k.fresh then 0 else (spGet 0 x.z key).toInt) + (k.sums.getD c 0).toInt)) ∧
            spGet false (t.slice n).zPoison key = (k.poison || (!k.fresh && spGet false x.zPoison key))) ∧
          ∀ key, (∀ c, c < k.sums.length → key ≠ zKey k.z k.row (k.col0 + c)) →
            spGet 0 (t.slice n).z key = spGet 0 x.z key ∧ spGet false (t.slice n).zPoison key = spGet false x.zPoison key) ∧
        (4 ≤ x.skid.length → (t.slice n).pipe = x.pipe ∧ (t.slice n).fifo = x.fifo ∧
          t.f (perfP n) SlcPerf.ARR_HOLDS = satN 32 (s.f (perfP n) SlcPerf.ARR_HOLDS + 1)) ∧
        (x.skid.length < 4 →
          (x.fifo = [] → (t.slice n).fifo = [] ∧ (t.slice n).pipe.head? = some none ∧
            t.f (perfP n) SlcPerf.ARR_BUBBLES = satN 32 (s.f (perfP n) SlcPerf.ARR_BUBBLES + 1)) ∧
          (∀ r rest, x.fifo = r :: rest → (t.slice n).fifo = rest ∧
            ∃ a, (t.slice n).pipe.head? = some (some a) ∧ a.row = q.row ∧ a.z = q.z ∧ a.col0 = q.group * nph ∧ a.fmt = q.fmt ∧
              a.fresh = (q.clear && q.pass = 0) ∧ a.poison = r.poison ∧ a.k = min (q.kIn kph q.pass) r.elems ∧
              a.w = bytesAt r.bytes 0 (rowBytes kph q.fmt) ∧ a.sums = List.replicate (q.colsIn nph q.group) 0) ∧
          (∀ r, x.pipe[0]? = some (some r) → (t.slice n).pipe[1]? = some (some r)) ∧
          (∀ k r, k < stages kph → x.pipe[k + 1]? = some (some r) → (t.slice n).pipe[k + 2]? = some (some (r.meet k (x.stageOperand k)))) ∧
          ∀ r, x.pipe[stages kph + 1]? = some (some r) → r ∈ (t.slice n).skid)) ∧
    ∀ o rest, x.done = o :: rest → o.opened = true → (o.bank = false ∨ o.m * o.n ≤ o.merged) → (∀ p ∈ rest, p.issued ≠ o.issued) →
      (∀ k ∈ x.skid, k.prod ≠ o.issued) → (∀ k, some k ∈ x.pipe → k.prod ≠ o.issued) →
      ∃ t, exec (.productComplete n) s = .next t ∧ (t.slice n).done = rest ∧ (t.slice n).z = x.z ∧ t.mem = s.mem ∧ t.ctxs = s.ctxs) ∧
  (∀ (fmt kph k : Nat) (w st : List Byte), fmt ≤ 2 → kph % 32 = 0 → k ≤ kpass kph fmt →
    let we := unpack fmt (bytesAt w 0 (rowBytes kph fmt))
    let se := unpack fmt (bytesAt st 0 (rowBytes kph fmt))
    colSum fmt kph k w st =
      BitVec.ofInt 64 ((List.range k).foldl (fun (a : Int) e => a + sgn (fmtBits fmt) (we.getD e 0) * sgn (fmtBits fmt) (se.getD e 0)) 0)) ∧
  ∀ (s : State) (n : Fin 16) (z : Fin 4) (c : ChainRes) (o : Option Product), s.clocked = true →
    (s.slice n).mergeNext (s.kphys n) (s.nphys n) z = some (c, o) → (s.slice n).portUsed (4 + z.val) = false →
    let x := s.slice n
    let key := zKey z c.row c.col
    ∃ t, exec (.chainMerge n z false) s = .next t ∧
      spGet 0 (t.slice n).z key = BitVec.ofNat 32 (chainAdd c.fmt (spGet 0 x.z key).toNat c.val.toNat).1 ∧
      (∀ k, k ≠ key → spGet 0 (t.slice n).z k = spGet 0 x.z k ∧ spGet false (t.slice n).zPoison k = spGet false x.zPoison k) ∧
      spGet false (t.slice n).zPoison key = (spGet false x.zPoison key || c.poison) ∧ (t.slice n).plane.length + 1 = x.plane.length ∧
      t.f (perfP n) SlcPerf.ARR_MERGES = satN 32 (s.f (perfP n) SlcPerf.ARR_MERGES + 1) ∧ t.mem = s.mem ∧ t.ctxs = s.ctxs

/-! ## The sequencer -/

/-- A bundle whose only operation is a scalar one: the arithmetic on counters gives the exact result, wrapped or brought into range with its sticky
flag, MOV, LDI, ADD, SUB and ADDI reach A and C registers, and the next repetition or bundle follows; nothing else of the slice that a program sees
changes (R211, R222, R225, R226). -/
def Obligations.TheScalarSlotComputes : Prop :=
  ∀ (s : State) (n : Fin 16) (b : Bundle), s.atBundle n b → b.ve = 0 → b.mx = 0 → b.ld = 0 → b.st = 0 → b.sy = 0 →
    let x := s.slice n
    let a := spGet 0 x.c (b.ra - 16)
    let c := spGet 0 x.c (b.rb - 16)
    let ran := fun (y : Slice) => ∃ t, exec (.bundle n {}) s = .next t ∧
      (t.slice n).a = y.a ∧ (t.slice n).c = y.c ∧ (t.slice n).k = x.k ∧ (t.slice n).v = x.v ∧ (t.slice n).z = x.z ∧ (t.slice n).tb = x.tb ∧
      (t.slice n).flags = y.flags ∧ ((t.slice n).pc, (t.slice n).rep) = nextRep x b ∧ (t.slice n).cyc = x.cyc + 1 ∧ (t.slice n).run = true ∧
      (t.slice n).wait = none ∧ t.mem = s.mem ∧ t.ctxs = s.ctxs ∧ t.bus = s.bus
    let toC := fun (v : W32) (fl : Nat) => ran { x with c := spPut 0 x.c (b.rd - 16) v, flags := x.flags ||| BitVec.ofNat 4 fl }
    let sat := fun (v : Int) => toC (BitVec.ofInt 32 (clamp32 v)) (if v = clamp32 v then 0 else 2)
    let toAC := fun (v : Int) =>
      if b.rd < 16 then ran { x with a := spPut 0 x.a b.rd (BitVec.ofInt 40 v) } else ran { x with c := spPut 0 x.c (b.rd - 16) (BitVec.ofInt 32 v) }
    (b.scOp = 0x00 → ran x) ∧ (b.scOp = 0x01 → toAC b.simm) ∧ (b.scOp = 0x03 → toAC (x.wide b.ra)) ∧
    (b.scOp = 0x04 → toAC (x.wide b.ra + x.wide b.rb)) ∧ (b.scOp = 0x06 → toAC (x.wide b.ra - x.wide b.rb)) ∧
    (b.scOp = 0x0A → toAC (x.wide b.ra + b.simm)) ∧ (b.scOp = 0x0B → sat (a.toInt + b.simm)) ∧
    (b.scOp = 0x05 → sat (a.toInt + c.toInt)) ∧ (b.scOp = 0x07 → sat (a.toInt - c.toInt)) ∧ (b.scOp = 0x08 → toC (a * c) 0) ∧
    (b.scOp = 0x09 → sat (a.toInt * c.toInt)) ∧ (b.scOp = 0x0E → sat (-a.toInt)) ∧
    (b.scOp = 0x0F → sat (if a.toInt < 0 then -a.toInt else a.toInt)) ∧ (b.scOp = 0x10 → toC (a &&& c) 0) ∧ (b.scOp = 0x11 → toC (a ||| c) 0) ∧
    (b.scOp = 0x12 → toC (a ^^^ c) 0) ∧ (b.scOp = 0x13 → toC (a <<< c.toNat) 0) ∧ (b.scOp = 0x14 → sat (a.toInt * 2 ^ c.toNat)) ∧
    (b.scOp = 0x15 → toC (a >>> c.toNat) 0) ∧ (b.scOp = 0x16 → toC (a.sshiftRight c.toNat) 0) ∧
    (b.scOp = 0x17 → toC (if a.toInt ≤ c.toInt then a else c) 0) ∧ (b.scOp = 0x18 → toC (if a.toInt ≤ c.toInt then c else a) 0)

/-- How a slice goes through its program: a taken branch costs a cycle more and goes to its target, a backward one that has met its bound faults with
LOOP_BOUND, a bundle whose predicate fails or that repeats 0 times is passed over, and one that is no legal encoding faults with SEQ_ILLEGAL; a fault
stops the gang and says its cause in `LAST_CAUSE` (R218, R222, R226, R245, R274, R385, R386). -/
def Obligations.TheSequencerFollowsTheProgram : Prop :=
  (∀ (s : State) (n : Fin 16) (b : Bundle), s.atBundle n b → b.ve = 0 → b.mx = 0 → b.ld = 0 → b.st = 0 → b.sy = 0 → (s.slice n).ctx < 64 →
    (b.scOp = 0x20 ∨ (b.scOp = 0x21 ∧ (s.slice n).pred (b.ra - 24) = true) ∨ (b.scOp = 0x22 ∧ (s.slice n).pred (b.ra - 24) = false)) →
    let x := s.slice n
    let aim := b.imm % 2 ^ 14
    ((x.pc < aim ∨ ∀ k, s.boundAt n x.ctx 0 x.pc = some k → spGet 0 x.brCount x.pc < k) →
      ∃ t, exec (.bundle n {}) s = .next t ∧ (t.slice n).pc = aim ∧ (t.slice n).rep = 0 ∧ (t.slice n).cyc = x.cyc + 2 ∧ (t.slice n).a = x.a ∧
        (t.slice n).c = x.c ∧ (t.slice n).k = x.k ∧ t.mem = s.mem ∧ t.ctxs = s.ctxs) ∧
    ∀ k, aim ≤ x.pc → s.boundAt n x.ctx 0 x.pc = some k → k ≤ spGet 0 x.brCount x.pc →
      ∃ t, exec (.bundle n {}) s = .next t ∧ t.f (ctxP x.ctx) Ctx.LAST_CAUSE = 3 ∧ t.f (ctxP x.ctx) Ctx.RUNNING = 0 ∧ t.running x.ctx = []) ∧
  (∀ (s : State) (n : Fin 16), s.clocked = true → (s.slice n).run = true → (s.slice n).halted = false → (s.slice n).wait = none →
    (s.cx (s.slice n).ctx).halting = [] → (s.slice n).pend = [] → (s.slice n).xfers = [] → (s.slice n).ext = [] →
    ((s.slice n).begun = true ∨ ((∀ h, h < 4 → s.on plvP (Plv.HALT_ARM.at h) = false) ∧ s.descsClean n)) →
    let x := s.slice n
    let b := x.fetch
    ((b.rept = 0 ∨ (b.pen = true ∧ x.pred b.pk = b.pneg)) →
      ∃ t, exec (.bundle n {}) s = .next t ∧ (t.slice n).pc = (x.pc + 1) % 2 ^ 14 ∧ (t.slice n).rep = 0 ∧ (t.slice n).cyc = x.cyc + 1 ∧
        (t.slice n).a = x.a ∧ (t.slice n).c = x.c ∧ (t.slice n).v = x.v ∧ t.mem = s.mem ∧ t.ctxs = s.ctxs ∧ t.bus = s.bus) ∧
    (x.ctx < 64 → 1 ≤ b.rept → b.pen = false → b.bad ≠ none →
      ∃ t, exec (.bundle n {}) s = .next t ∧ t.f (ctxP x.ctx) Ctx.LAST_CAUSE = 1 ∧ t.f (ctxP x.ctx) Ctx.RUNNING = 0 ∧ t.running x.ctx = [])) ∧
  ∀ (s : State) (n : Fin 16), s.clocked = true → (s.slice n).run = true → (s.slice n).halted = false → (s.slice n).wait = none →
    (s.cx (s.slice n).ctx).halting = [] → (s.slice n).begun = true → (∀ z, (s.slice n).zrdNext z = none) →
    let x := s.slice n
    let b := x.fetch
    1 ≤ b.rept → b.pen = false → b.bad = none → (vSlot b.ve).op < 0xE0 → x.blocks (b.reads (fun h => s.desc x.ctx h) x) b.writes = true →
    ∃ t, exec (.bundle n {}) s = .next t ∧ (t.slice n) = { x with cyc := x.cyc + 1, total := x.total + 1, stalled := true } ∧
      t.f (perfP n) SlcPerf.STALLS = satN 32 (s.f (perfP n) SlcPerf.STALLS + 1) ∧ t.mem = s.mem ∧ t.ctxs = s.ctxs

/-- A result waits until its latency has passed and is then written; a load brings its word, a store writes its bytes and no others, and one at an address
that is not mapped faults with XLATE (R225, R237, R240, R253, R314, R385). -/
def Obligations.ResultsAndTransfersComplete : Prop :=
  (∀ (s : State) (n : Fin 16) (p : PendWrite), s.clocked = true → (s.slice n).pend.find? (fun q => q.id = p.id) = some p →
    let x := { s.slice n with pend := (s.slice n).pend.filter fun q => q.id ≠ p.id }
    ((s.slice n).cyc + 1 < p.ready → exec (.opResultWrite n p.id) s = .next s) ∧
    (p.ready ≤ (s.slice n).cyc + 1 →
      (∀ r z row m bad got, p.dst = .zrd r z row m bad got → got.length < 64 → exec (.opResultWrite n p.id) s = .next s) ∧
      (∀ r z row m bad got, p.dst = .zrd r z row m bad got → got.length = 64 → m.Nodup → (∀ l ∈ m, l < 64) →
        (spGet (0, 0, []) x.vlast r).1 ≠ x.cyc →
        ∃ t, exec (.opResultWrite n p.id) s = .next t ∧ (t.slice n).pend = x.pend ∧
          (∀ l ∈ m, (t.slice n).lane r l = (got.getD l (0, false)).1.toNat ∧ (t.slice n).laneBad r l = (got.getD l (0, false)).2) ∧
          (∀ l, l < 64 → l ∉ m → (t.slice n).lane r l = x.lane r l) ∧ t.mem = s.mem ∧ t.regs = s.regs) ∧
      (∀ r v, p.dst = .a r v → exec (.opResultWrite n p.id) s = .next (s.setSlice n { x with a := spPut 0 x.a r v })) ∧
      (∀ r v, p.dst = .c r v → exec (.opResultWrite n p.id) s = .next (s.setSlice n { x with c := spPut 0 x.c r v })) ∧
      (∀ r vals, p.dst = .lanes r vals → (vals.map (·.1)).Nodup → (spGet (0, 0, []) x.vlast r).1 ≠ x.cyc → (∀ e ∈ vals, e.1 < 64) →
        ∃ t, exec (.opResultWrite n p.id) s = .next t ∧ (t.slice n).pend = x.pend ∧ (t.slice n).a = x.a ∧ (t.slice n).c = x.c ∧
          (∀ e ∈ vals, (t.slice n).lane r e.1 = e.2.1.toNat ∧ (t.slice n).laneBad r e.1 = e.2.2) ∧
          (∀ r' l, l < 64 → (r' ≠ r ∨ l ∉ vals.map (·.1)) → (t.slice n).lane r' l = x.lane r' l) ∧ t.mem = s.mem ∧ t.regs = s.regs))) ∧
  ∀ (s : State) (n : Fin 16) (t0 : Xfer), s.wf = true → s.clocked = true → (s.slice n).run = true → (s.slice n).ctx < 64 →
    (s.slice n).stale.find? (fun u => u.id = t0.id) = none → (s.slice n).xfers.find? (fun u => u.id = t0.id) = some t0 →
    (s.slice n).xferBlocked (fun h => s.desc (s.slice n).ctx h) t0 = false →
    let x := { s.slice n with xfers := (s.slice n).xfers.filter fun u => u.id ≠ t0.id }
    (∀ rows, t0.op = .claim rows → exec (.transferComplete n t0.id false) s = .next (s.setSlice n { x with fifo := x.fifo ++ rows })) ∧
    (∀ buf off l, t0.op = .stv buf off l →
      exec (.transferComplete n t0.id false) s = .next (s.setSlice n { (s.slice n).tbWrite buf off l with xfers := x.xfers })) ∧
    (∀ va d, (t0.op = .lds d va ∨ ∃ w, t0.op = .store w [] ∧ s.storeMiss x.ctx w = some va) → va % 4 = 0 → s.walk x.ctx va = none →
      ∃ t, exec (.transferComplete n t0.id false) s = .next t ∧ t.f (ctxP x.ctx) Ctx.LAST_CAUSE = 4 ∧ t.running x.ctx = []) ∧
    (∀ va r v a, t0.op = .lds (.c r) va → va % 4 = 0 → s.xlate x.ctx va = some (v, a) → s.walkClean x.ctx va → a < 2 ^ 35 → spGet 0 s.syn (viewAddr v a / 32) = 0 →
      ∃ t, exec (.transferComplete n t0.id false) s = .next t ∧ (t.slice n).c = spPut 0 x.c r (BitVec.ofNat 32 (leNat (s.peek v a 4))) ∧
        (t.slice n).xfers = x.xfers ∧ (t.slice n).a = x.a ∧ (t.slice n).pc = x.pc ∧ t.mem = s.mem ∧ t.regs = s.regs ∧ t.ctxs = s.ctxs) ∧
    ∀ va val v a, t0.op = .store [⟨va, val, 0, false⟩] [] → s.xlate x.ctx va = some (v, a) → s.walkClean x.ctx (va / 65536 * 65536) → a < 2 ^ 35 → spGet 0 s.syn (viewAddr v a / 32) = 0 →
      ∃ t, exec (.transferComplete n t0.id false) s = .next t ∧ (t.slice n).xfers = x.xfers ∧ t.ctxs = s.ctxs ∧
        ∀ k, k < 2 ^ 35 → t.peek v k 1 = if k = a then [val] else s.peek v k 1

/-- An extension response that passes its checks writes its lanes and ends its request; one that fails a check faults the program, and one that does not
come by its deadline cuts it (R148, R149). -/
def Obligations.TheExtensionUnitAnswersOrTheProgramStops : Prop :=
  (∀ (s : State) (n : Fin 16) (r : ExtRsp), s.clocked = true → (s.slice n).run = true → (s.slice n).ctx < 64 →
    let x := s.slice n
    let q := x.ext.find? fun q => q.tag = r.tag.toNat
    let ctl := r.cpar = parity (r.tag.toNat + 16 * r.lanes.toNat) 68
    let data := ∀ l, l < 64 → r.lanes.getLsbD l = true → r.par.getD l 0 = bytePar (r.data.getD l 0)
    (∀ e, q = some e → e.deadline < x.cyc → exec (.extResponse n r) s = .next s) ∧
    (∀ e, q = some e → x.cyc ≤ e.deadline → ctl → r.err = false → r.lanes = e.required → data → e.tile = none →
      (spGet (0, 0, []) x.vlast e.vd).1 ≠ x.cyc →
      ∃ t, exec (.extResponse n r) s = .next t ∧ (t.slice n).ext = x.ext.filter (fun u => u.tag ≠ e.tag) ∧
        (∀ l, l < 64 → (t.slice n).lane e.vd l = if r.lanes.getLsbD l then (r.data.getD l 0).toNat else x.lane e.vd l) ∧
        (t.slice n).pc = x.pc ∧ t.mem = s.mem ∧ t.regs = s.regs ∧ t.ctxs = s.ctxs) ∧
    ((∀ e, q = some e → x.cyc ≤ e.deadline) → (q = none ∨ ¬ ctl ∨ r.err = true ∨ ¬ data ∨ ∃ e, q = some e ∧ r.lanes ≠ e.required) →
      ∃ t, exec (.extResponse n r) s = .next t ∧ t.f (extP n) SlcExt.FAULT_CNT = satN 16 (s.f (extP n) SlcExt.FAULT_CNT + 1) ∧
        (¬ ctl → t.f (ctxP x.ctx) Ctx.LAST_CAUSE = 7) ∧
        (ctl → t.f (ctxP x.ctx) Ctx.LAST_CAUSE = (match q with
          | none => 8
          | some e => if r.err = true then 7 else if r.lanes ≠ e.required then 8 else 7)) ∧ t.running x.ctx = [])) ∧
  ∀ (s : State) (n : Fin 16) (tag : BitVec 4) (q : ExtReq), s.clocked = true → (s.slice n).run = true → (s.slice n).ctx < 64 →
    (s.slice n).ext.find? (fun e => e.tag = tag.toNat) = some q → q.deadline < (s.slice n).cyc →
    ∃ t, exec (.extWatchdog n tag) s = .next t ∧ t.f (extP n) SlcExt.TIMEOUT_CNT = satN 16 (s.f (extP n) SlcExt.TIMEOUT_CNT + 1) ∧
      t.running (s.slice n).ctx = []

/-! ## Programs -/

/-- A program whose gang waits at END ends: the stream program for its tick, which clears the count of fault ticks where no fault came, the host program
with its command `DONE`; at SEGEND or TBAR each member's record is written and the next segment waits to be dispatched; where the free gang is offered, a
dispatch starts a fresh segment at its entry, and a resumed one at the bundle and with the registers of its record; and a captured dump is written once
where its frames are mapped, and lost where they are not (R66, R67, R68, R241, R291, R304, R395). -/
def Obligations.ProgramsAndSegmentsStartAndEnd : Prop :=
  (∀ (s : State) (c : Fin 64), s.clocked = true → s.gangAt c (fun w => w = .finish) = true →
    ∃ t, exec (.programEnd c) s = .next t ∧ t.running c = [] ∧ t.f (ctxP c) Ctx.RUNNING = 0 ∧ t.mem = s.mem ∧ t.bus = s.bus ∧ t.time = s.time ∧
      (s.isStream c = true → (t.cx c).tick.ended = true ∧ t.cmds = s.cmds ∧ ((s.cx c).tick.fault = false → t.f (ctxP c) Ctx.CONSEC = 0)) ∧
      (s.isStream c = false → ∀ h, (s.cx c).host = some h → (t.cx c).host = none ∧ t.cmds = (s.finishCmd h.cmd stDone).cmds)) ∧
  (∀ (s : State) (c : Fin 64) (h : HostRun), s.wf = true → s.clocked = true → s.gangAt c (fun w => w = .segend || w = .tbar) = true →
    (s.cx c).host = some h →
    ∃ t, exec (.segmentEnd c) s = .next t ∧ t.running c = [] ∧ t.f (ctxP c) Ctx.RUNNING = 0 ∧ t.cmds = s.cmds ∧
      (t.cx c).host = some { h with seg := h.seg + 1, fresh := false, active := false,
                                    waitTick := (s.running c).any fun n => (s.slice n).wait = some .tbar } ∧
      ∀ n, s.running c = [n] → (s.slice n).member < 16 →
        t.peek false (saveAddr c + (s.slice n).member * 0x1100) 0x1100 =
          ((s.slice n).saveRecord n (((s.slice n).pc + 1) % 2 ^ 14) ((s.slice n).seg + 1)).map (·.1) ∧
        ∀ a, a < 2 ^ 35 → (a < saveAddr c + (s.slice n).member * 0x1100 ∨ saveAddr c + ((s.slice n).member + 1) * 0x1100 ≤ a) →
          t.peek false a 1 = s.peek false a 1) ∧
  (∀ (s : State) (c : Fin 64) (p : Program) (h : HostRun), s.clocked = true → (s.cx c).program = some p → (s.cx c).host = some h → h.fresh = true →
    s.offering = true → s.canDispatch c = true → s.offered c = true → p.gang.Nodup →
    ∃ t, exec (.hostSegmentDispatch c) s = .next t ∧ t.f (ctxP c) Ctx.RUNNING = 1 ∧ (t.cx c).host = some { h with active := true } ∧
      (t.cx c).tokens = [] ∧ t.ctxLast = c.val ∧ t.mem = s.mem ∧ t.cmds = s.cmds ∧ t.time = s.time ∧
      ∀ i (hi : i < p.gang.length), let x := t.slice p.gang[i]
        x.run = true ∧ x.ctx = c.val ∧ x.member = i ∧ x.pc = p.base + p.entry ∧ x.rep = 0 ∧ x.wait = none ∧ x.c = [] ∧ x.v = [] ∧ x.flags = 0 ∧
        x.slotAt = s.time ∧ ∀ r, r < 4 → x.aReg r = h.a0.getD r 0 % 2 ^ 40) ∧
  (∀ (s : State) (c : Fin 64) (p : Program) (h : HostRun), s.clocked = true → (s.cx c).program = some p → (s.cx c).host = some h → h.fresh = false →
    s.offering = true → s.canDispatch c = true → s.offered c = true → p.gang.Nodup → p.gang.length ≤ 16 →
    (∀ i, i < p.gang.length → s.cleanAt false (saveAddr c + i * 0x1100) 0x1100) →
    ∃ t, exec (.hostSegmentDispatch c) s = .next t ∧ t.f (ctxP c) Ctx.RUNNING = 1 ∧ (t.cx c).host = some { h with active := true } ∧
      (t.cx c).tokens = [] ∧ t.ctxLast = c.val ∧ t.mem = s.mem ∧ t.cmds = s.cmds ∧ t.time = s.time ∧
      ∀ i (hi : i < p.gang.length), let x := t.slice p.gang[i]
        let l := s.peek false (saveAddr c + i * 0x1100) 0x1100
        x.run = true ∧ x.ctx = c.val ∧ x.member = i ∧ x.pc = leAt l 0 2 ∧ x.seg = leAt l 2 4 ∧ x.rep = 0 ∧ x.wait = none ∧ x.flags = BitVec.ofNat 4 (leAt l 8 8) ∧
        x.slotAt = s.time ∧ (∀ r, r < 16 → x.aReg r = leAt l (0x40 + 8 * r) 8 % 2 ^ 40) ∧ (∀ r, r < 8 → x.cReg r = leAt l (0xC0 + 4 * r) 4) ∧
        ∀ r j, r < 16 → j < 64 → x.lane r j = leAt l (0x100 + 256 * r + 4 * j) 4 ∧ x.laneBad r j = false) ∧
  ∀ (s : State) (h : Fin 4) (n : Fin 16) (d : Dump), s.live = true → (s.slice n).dumps = [d] → d.chan = h.val →
    (d.late = false ∨ s.tkg.phase = .host ∨ s.tkg.phase = .stopped) → (∀ m, m < 16 → m ≠ n.val → (s.slice m).dumps = []) →
    (s.unmapped d.ctx d.va d.bytes.length = none →
      ∃ t, exec (.haltDump h) s = .next t ∧ t.on plvP (Plv.HALT_DUMPED.at h) = true ∧ (t.slice n).dumps = [] ∧ t.ctxs = s.ctxs ∧
        t.time = s.time ∧ t.mem = ((s.modSlice n fun x => { x with dumps := [] }).writeVaMarked d.ctx d.va d.bytes).mem) ∧
    (s.unmapped d.ctx d.va d.bytes.length ≠ none →
      ∃ t, exec (.haltDump h) s = .next t ∧ t.on plvP (Plv.HALT_DUMP_LOST.at h) = true ∧ (t.slice n).dumps = [] ∧ t.mem = s.mem ∧ t.ctxs = s.ctxs)

/-! ## Queue commands -/

/-- NOP ends `DONE`; OBJ_CREATE takes the lowest free identifier and fills its frames, and ends with it and one reference of the queue's port once the last
FILL has completed, or ends with the code of the first check that fails and changes no memory; OBJ_IMPORT maps an object or is refused likewise; OBJ_UNMAP refuses an object that the context does not map; DESC_WRITE puts a descriptor that passes in its
place and no other byte of memory, or names the handle that it refuses (R260, R304, R311, R312, R313, R318). -/
def Obligations.ObjectCommandsTakeEffectOrAreRefused : Prop :=
  (∀ (s : State) (id : Nat) (c : Cmd), s.ready id 0x00 c → ∃ t, exec (.queueNop id) s = .next t ∧ t.ended id 0 0 0 ∧ t.mem = s.mem ∧
    t.regs = s.regs ∧ t.slices = s.slices ∧ t.ctxs = s.ctxs) ∧
  (∀ (s : State) (id : Nat) (c : Cmd) (l : List Byte), s.wf = true → s.ready id 0x01 c → c.ctx < 64 → c.port < 4 →
    s.hostOk c.port (c.fld 0x20 8) (4 * c.len) = true → l.length = 4 * c.len →
    let code := s.createCheck c.ctx (c.fld 0x18 8) c.len (bitOf (c.fld 0x28 1) 0) true (pfnsOf l c.len)
    (s.creating = true → exec (.objCreate id (some l)) s = .next s) ∧
    (s.creating = false → code = 0 → ∃ t o, exec (.objCreate id (some l)) s = .next t ∧ s.freeObj = some o ∧ t.started id ∧
      (spGet {} t.objInfo o).frames = pfnsOf l c.len ∧ (∃ j ∈ t.hib.jobs, j.obj = o ∧ j.why = .create id) ∧ t.cmdNext = s.cmdNext ∧ t.time = s.time) ∧
    (s.creating = false → code ≠ 0 → ∃ t, exec (.objCreate id (some l)) s = .next t ∧ t.ended id 2 code 0 ∧ t.mem = s.mem ∧ t.regs = s.regs ∧ t.objInfo = s.objInfo ∧
      t.tpages = s.tpages ∧ t.zoneCount = s.zoneCount)) ∧
  (∀ (s : State) (id : Nat) (b : BuCmd) (j : FillJob) (c : Cmd), s.wf = true → s.clocked = true → s.findBu id = some b → b.ready = true →
    b.issuer = .hib j.obj → (∀ d ∈ s.bus, d.issuer = .hib j.obj → d.id = id) → s.hib.jobs = [j] → j.why = .create c.id → s.jobFills j ≤ j.next →
    s.findCmd c.id = some c → c.st = .started → c.port < 4 → j.obj < 65536 →
    ∃ t, exec (.buCommandComplete id) s = .next t ∧ t.ended c.id 0 0 j.obj ∧ t.refs j.obj = 2 ^ (12 * c.port) ∧ t.hib.jobs = [] ∧
      t.objInfo = s.objInfo ∧ t.time = s.time) ∧
  (∀ (s : State) (id : Nat) (c : Cmd), s.ready id 0x02 c → s.creating = false →
    let o := c.fld 0x18 2
    s.cleanAt false (objAddr o) 32 →
    let code := s.importCheck c.ctx o (c.fld 0x2C 4)
    (code = 0 → ∃ t, exec (.objImport id) s = .next t ∧ t.ended id 0 0 0 ∧ t.mem = (s.importObj c.ctx c.port o).mem ∧ t.time = s.time) ∧
    (code ≠ 0 → ∃ t, exec (.objImport id) s = .next t ∧ t.ended id 2 code 0 ∧ t.mem = s.mem ∧ t.regs = s.regs ∧ t.tpages = s.tpages)) ∧
  (∀ (s : State) (id : Nat) (c : Cmd), s.ready id 0x03 c →
    let o := c.fld 0x18 2
    s.cleanAt false (objAddr o) 32 →
    (s.maps c.ctx o = false → ∃ t, exec (.objUnmap id) s = .next t ∧ t.ended id 2 0x09 0 ∧ t.mem = s.mem ∧ t.regs = s.regs) ∧
    (s.maps c.ctx o = true → ((∃ d ∈ s.cmds, d.id ≠ id ∧ d.ctx = c.ctx ∧ o ∈ d.refs) ∨ s.spannedBy c.ctx o = true) →
      ∃ t, exec (.objUnmap id) s = .next t ∧ t.ended id 2 0x0B 0 ∧ t.mem = s.mem ∧ t.regs = s.regs) ∧
    (s.maps c.ctx o = true → (∀ d ∈ s.cmds, d.id ≠ id → d.ctx = c.ctx → o ∉ d.refs) → s.spannedBy c.ctx o = false →
      ∃ t, exec (.objUnmap id) s = .next t ∧ t.ended id 0 0 0 ∧ t.time = s.time)) ∧
  ∀ (s : State) (id : Nat) (c : Cmd) (l : List Byte), s.wf = true → s.ready id 0x04 c → c.ctx < 64 →
    let h := c.fld 0x20 2 % 1024
    (1024 < h + c.len → ∃ t, exec (.descWrite id (some l)) s = .next t ∧ t.ended id 2 0x0C 0 ∧ t.mem = s.mem ∧ t.regs = s.regs) ∧
    (h + c.len ≤ 1024 → c.len = 1 → s.hostOk c.port (c.fld 0x18 8) 64 = true → l.length = 64 →
      let code := s.descCheck c.ctx h (Desc.ofBytes l)
      (code = 0 → ∃ t, exec (.descWrite id (some l)) s = .next t ∧ t.ended id 0 0 0 ∧ t.peek false (descAddr c.ctx h) 64 = l ∧
        ∀ a, a < 2 ^ 35 → (a < descAddr c.ctx h ∨ descAddr c.ctx h + 64 ≤ a) → t.peek false a 1 = s.peek false a 1) ∧
      (code ≠ 0 → ∃ t, exec (.descWrite id (some l)) s = .next t ∧ t.ended id 2 code h ∧ t.mem = s.mem ∧ t.regs = s.regs))

/-- BU_CMD puts its command in the router's order, which answers an `OP` it does not allow; QUERY sends the first bytes of the snapshot; PROG_RUN lets the
admitted host program run; RELEASE frees a program, a micro-program or a routine that does not run, and waits for one that does; an attach or detach
waits for its tick edge; FABRIC_LOAD begins a load or is refused while anything uses the fabric; PATTERN_LOAD takes a package that passes; the last two
hold a reference to the object they read (R81, R120, R133, R304, R318, R336, R337, R382). -/
def Obligations.OtherQueueCommandsTakeEffectOrAreRefused : Prop :=
  (∀ (s : State) (id : Nat) (c : Cmd), s.ready id 0x05 c →
    let op := c.fld 0x18 1
    let src := s.bankSpan c.ctx (c.fld (if op = 3 ∨ op = 4 then 0x20 else 0x28) 8) (32 * c.len)
    let dst := s.bankSpan c.ctx (c.fld 0x28 8) (if op = 4 then 8 else 32 * c.len)
    (2048 < c.len ∨ src = none ∨ dst = none ∨ (∃ a b, src = some a ∧ dst = some b ∧ a >>> 25 ≠ b >>> 25) →
      ∃ t, exec (.buCmd id) s = .next t ∧ t.ended id 2 0x0D 0 ∧ t.bus = s.bus ∧ t.mem = s.mem ∧ t.regs = s.regs) ∧
    ∀ a b, c.len ≤ 2048 → src = some a → dst = some b → a >>> 25 = b >>> 25 →
      let p : BuPart := { bank := fld b 28 25, slot := 16, yielded := true }
      let x : BuCmd := { id := s.buNext, issuer := .host id, op := op, ctx := c.ctx, stack := b >>> 33, chan := fld b 32 29, parts := [p],
                         srcOff := if op = 3 ∨ op = 4 then a % 2 ^ 25 else 0, dstOff := b % 2 ^ 25, word3 := c.fld 0x1C 4, count := c.len,
                         limit := 3 * c.len + 64 }
      (op = 2 ∨ op = 3 ∨ op = 4 → x.aligned = true → s.partInside x p = true → (∃ i, i < 16 ∧ i ∉ s.slotsUsed (x.key p)) →
        ∃ t i, exec (.buCmd id) s = .next t ∧ t.started id ∧ i < 16 ∧ i ∉ s.slotsUsed (x.key p) ∧
          t.bus = s.bus ++ [{ x with parts := [{ p with slot := i }] }] ∧ t.mem = s.mem ∧ t.regs = s.regs ∧ t.slices = s.slices ∧ t.ctxs = s.ctxs) ∧
      (op = 2 ∨ op = 3 ∨ op = 4 → x.aligned = true → s.partInside x p = true → (∀ i, i < 16 → i ∈ s.slotsUsed (x.key p)) →
        exec (.buCmd id) s = .next s) ∧
      (op = 0 → ∃ t, exec (.buCmd id) s = .next t ∧ t.started id ∧ t.bus = s.bus ++ [{ x with parts := [{ p with fin := true }] }] ∧ t.mem = s.mem) ∧
      (op ≠ 0 → op ≠ 2 → op ≠ 3 → op ≠ 4 → ∃ t, exec (.buCmd id) s = .next t ∧ t.started id ∧ t.mem = s.mem ∧
        t.bus = s.bus ++ [{ x with st := .done, status := 0x16, parts := [{ p with fault := 0x16 }] }])) ∧
  (∀ (s : State) (id : Nat) (c : Cmd), s.ready id 0x14 c → s.hostOk c.port (c.fld 0x18 8) c.len = true →
    (128 < c.len → ∃ t, exec (.query id) s = .next t ∧ t.ended id 2 0x0D 0 ∧ t.out = s.out) ∧
    (c.len ≤ 128 → ∃ t, exec (.query id) s = .next t ∧ t.ended id 0 0 0 ∧
      t.out = s.out ++ [.hostWrite c.port (c.fld 0x18 8) (s.snapshot.take c.len)] ∧ t.mem = s.mem ∧ t.regs = s.regs)) ∧
  (∀ (s : State) (id : Nat) (c : Cmd), s.ready id 0x0C c → c.len = 1 →
    (∀ p, (s.cx c.ctx).program = some p → p.stream = false → (s.cx c.ctx).host = none →
      ∃ t, exec (.progRun id) s = .next t ∧ t.started id ∧ t.mem = s.mem ∧ t.regs = s.regs ∧ t.slices = s.slices ∧
        (t.cx c.ctx).host = some { cmd := id, a0 := (List.range 4).map fun i => c.fld (0x18 + 8 * i) 8 % 2 ^ 40 }) ∧
    ((∀ p, (s.cx c.ctx).program = some p → p.stream = true) → ∃ t, exec (.progRun id) s = .next t ∧ t.ended id 2 raNoProgram 0 ∧
      t.ctxs = s.ctxs ∧ t.mem = s.mem)) ∧
  (∀ (s : State) (id : Nat) (c : Cmd), (s.ready id 0x0B c ∨ (s.live = true ∧ s.findCmd id = some c ∧ c.opcode = 0x0B ∧ c.st = .started)) →
    let idx := c.fld 0x1C 4
    (c.fld 0x18 1 % 4 = 0 →
      ((s.cx c.ctx).program = none → ∃ t, exec (.release id) s = .next t ∧ t.ended id 2 raNoProgram 0 ∧ t.ctxs = s.ctxs ∧ t.mem = s.mem) ∧
      (∀ p, (s.cx c.ctx).program = some p →
        (p.stream = true → s.attached c.ctx = true ∨ (s.grp c.ctx).attachCmd ≠ [] →
          ∃ t, exec (.release id) s = .next t ∧ t.ended id 2 raAttached 0 ∧ t.ctxs = s.ctxs ∧ t.mem = s.mem) ∧
        ((p.stream = true → s.attached c.ctx = false ∧ (s.grp c.ctx).attachCmd = []) →
          ((s.cx c.ctx).host = none →
            ∃ t, exec (.release id) s = .next t ∧ t.ended id 0 0 0 ∧ (t.cx c.ctx).program = none ∧ t.time = s.time) ∧
          ((s.cx c.ctx).host ≠ none →
            ∃ t, exec (.release id) s = .next t ∧ t.started id ∧ t.ctxs = s.ctxs ∧ t.mem = s.mem)))) ∧
    (c.fld 0x18 1 % 4 = 1 →
      let is := fun (u : Uprog) => decide (u.ctx = c.ctx ∧ u.base = idx ∧ u.stackMask = c.fld 0x20 1 % 16 ∧ u.chans = c.fld 0x24 2 ∧ u.banks = c.fld 0x26 2)
      (s.plv.uprogs.any is = false → ∃ t, exec (.release id) s = .next t ∧ t.ended id 2 raNoProgram 0 ∧ t.plv = s.plv) ∧
      (∀ u, s.plv.uprogs.find? is = some u →
        (s.uprogBusy u = true → ∃ t, exec (.release id) s = .next t ∧ t.started id ∧ t.plv = s.plv) ∧
        (s.uprogBusy u = false → ∃ t, exec (.release id) s = .next t ∧ t.ended id 0 0 0 ∧ t.plv = { s.plv with uprogs := s.plv.uprogs.filter (· ≠ u) } ∧
          t.mem = s.mem ∧ t.slices = s.slices))) ∧
    (c.fld 0x18 1 % 4 = 2 →
      let is := fun (r : Routine) => decide (r.idx = idx ∧ r.slices = c.fld 0x20 2)
      (s.plv.routines.any is = false → ∃ t, exec (.release id) s = .next t ∧ t.ended id 2 raNoProgram 0 ∧ t.plv = s.plv) ∧
      (∀ r, s.plv.routines.find? is = some r →
        (s.calls idx = true → ∃ t, exec (.release id) s = .next t ∧ t.ended id 2 0x0B 0 ∧ t.plv = s.plv) ∧
        (s.calls idx = false → ∃ t, exec (.release id) s = .next t ∧ t.ended id 0 0 0 ∧
          t.plv = { s.plv with routines := s.plv.routines.filter (· ≠ r) } ∧ t.mem = s.mem ∧ t.slices = s.slices)))) ∧
  (∀ (s : State) (id : Nat) (c : Cmd), s.ready id 0x11 c →
    let g := c.fld 0x18 1 % 4
    (s.attachCheck g = 0 → ∃ t, exec (.streamAttach id) s = .next t ∧ t.started id ∧ (t.grp g).attachCmd = (s.grp g).attachCmd ++ [id] ∧ t.mem = s.mem ∧ t.regs = s.regs) ∧
    (s.attachCheck g ≠ 0 → ∃ t, exec (.streamAttach id) s = .next t ∧ t.ended id 2 (s.attachCheck g) 0 ∧ t.grps = s.grps ∧ t.mem = s.mem)) ∧
  (∀ (s : State) (id : Nat) (c : Cmd), s.ready id 0x12 c →
    let g := c.fld 0x18 1 % 4
    (s.attached g = true → (s.grp g).detachCmd = none →
      ∃ t, exec (.streamDetach id) s = .next t ∧ t.started id ∧ (t.grp g).detachCmd = some id ∧ t.mem = s.mem ∧ t.regs = s.regs) ∧
    (s.attached g = false → ∃ t, exec (.streamDetach id) s = .next t ∧ t.ended id 0 0 0 ∧ t.grps = s.grps ∧ t.mem = s.mem)) ∧
  (∀ (s : State) (id : Nat) (c : Cmd), s.wf = true → s.ready id 0x10 c →
    let busy := s.on glbP GlbCtrl.LOADING = true ∨ (∃ i, i < 64 ∧ (s.cx i).program ≠ none) ∨
      ∃ g, g < 4 ∧ (s.attached g = true ∨ (s.grp g).attachCmd ≠ [])
    let o := s.objOf c.ctx (c.fld 0x18 8)
    (busy → ∃ t, exec (.fabricLoad id) s = .next t ∧ t.ended id 0x0A 0 0 ∧ t.slices = s.slices ∧ t.regs = s.regs ∧ t.mem = s.mem) ∧
    (¬ busy → s.refsFit o = false → exec (.fabricLoad id) s = .next s) ∧
    (¬ busy → s.refsFit o = true →
      ∃ t, exec (.fabricLoad id) s = .next t ∧ t.started id ∧ t.on glbP GlbCtrl.LOADING = true ∧ t.on glbP GlbCtrl.LOADED = false ∧
        (∀ n, t.slice n = { sel := (t.slice n).sel, testAt := (t.slice n).testAt, testing := (t.slice n).testing }) ∧
        t.fab.cmd = some id ∧ t.fab.startAt = s.time ∧ t.fab.imageVa = c.fld 0x18 8 ∧ t.fab.passMask = 0 ∧ t.pins.io = List.replicate 8 .hiz ∧
        t.plv.routines = [] ∧ s.holds t o ∧ (o = [] → t.mem = s.mem ∧ t.out = s.out ++ (List.range 16).map fun n => .extRst n true) ∧
        (∀ n, n < 16 → t.isBusy (seqP n) = true))) ∧
  ∀ (s : State) (id : Nat) (c : Cmd), s.ready id 0x13 c →
    let va := c.fld 0x18 8
    let o := s.objOf c.ctx va
    let u := s.takeRefs o
    (s.refsFit o = false → exec (.patternLoad id) s = .next s) ∧
    (s.refsFit o = true → 1048576 < c.len ∨ u.unmapped c.ctx va c.len ≠ none →
      ∃ t, exec (.patternLoad id) s = .next t ∧ t.ended id 2 0x40 0 ∧ t.f patP Pattern.LAST_RESULT = 0x40 ∧ t.rel.package = s.rel.package) ∧
    ∀ l, s.refsFit o = true → c.len ≤ 1048576 → l.length = c.len → u.bytesAt c.ctx va l →
      let code := s.packageCheck l c.len
      ∃ t, exec (.patternLoad id) s = .next t ∧ t.f patP Pattern.LAST_RESULT = code ∧
        (code = 0 → t.ended id 0 0 0 ∧ t.on patP Pattern.LOADED = true ∧ t.f patP Pattern.SERIAL = leAt l 0x10 8 ∧
          t.f patP Pattern.MIN_SERIAL = leAt l 0x10 8 ∧ t.rel.package = l) ∧
        (code ≠ 0 → t.ended id 2 code 0 ∧ t.rel.package = s.rel.package ∧ t.f patP Pattern.SERIAL = s.f patP Pattern.SERIAL ∧
          t.f patP Pattern.MIN_SERIAL = s.f patP Pattern.MIN_SERIAL)

/-- An admission holds a reference to the object of its image and waits for the PLV, which ends the oldest one: an image that cannot be read, or that
fails a check, `REJECTED` with the first code, and one that passes every check on a gang and finds room in the stores and for its references `DONE`
with its base, the program, micro-program or routine then being admitted; `LAST_CODE` holds the code, and the end is counted; an admission of a bundle
program alone may have to wait (R270, R271, R276, R286, R318). -/
def Obligations.AdmissionsEndInOrder : Prop :=
  (∀ (s : State) (id : Nat) (c : Cmd),
    let o := s.objOf c.ctx (c.fld 0x18 8)
    ∀ e ∈ [(Instr.admitProgram id, 0x08), (.admitUprog id, 0x09), (.admitRoutine id, 0x0A)], s.ready id e.2 c →
      (s.refsFit o = false → exec e.1 s = .next s) ∧
      (s.refsFit o = true → ∃ t, exec e.1 s = .next t ∧ t.started id ∧ t.plv = { s.plv with queue := s.plv.queue ++ [id] } ∧ t.ctxs = s.ctxs ∧
        s.holds t o ∧ (o = [] → t.mem = s.mem ∧ t.regs = s.regs ∧ t.slices = s.slices))) ∧
  (∀ (s : State) (id : Nat) (rest : List Nat) (c : Cmd), s.live = true → s.plv.queue = id :: rest → s.plv.reverify = [] → s.findCmd id = some c →
    c.isDone = false →
    let ended := fun (t : State) (code detail : Nat) =>
      t.ended id (if code = 0 then 0 else 2) code detail ∧ t.f plvP Plv.LAST_CODE = code % 256 ∧ t.plv.queue = rest.filter (· ≠ id)
    let image := s.fetchImage c.ctx (c.fld 0x18 8) c.len 36 imageLen
    let words := s.fetchImage c.ctx (c.fld 0x18 8) c.len 16 uimageLen
    let mask := c.fld 0x20 2
    ((if c.opcode = 9 then words else image).2 = none → ∃ t, exec .admissionComplete s = .next t ∧ ended t 0x01 0 ∧ t.ctxs = s.ctxs) ∧
    (∀ l, c.opcode = 9 → words = (s, some l) →
      let m := UImage.ofBytes l
      let e := firstFail (s.uprogChecks m)
      (e.1 ≠ 0 → ∃ t, exec .admissionComplete s = .next t ∧ ended t e.1 e.2 ∧ t.plv.uprogs = s.plv.uprogs ∧ t.ustore = s.ustore ∧ t.mem = s.mem) ∧
      (e = (0, 0) → ∃ t, exec .admissionComplete s = .next t ∧ t.mem = s.mem ∧ t.ctxs = s.ctxs ∧
        ((ended t 0x1A 0 ∧ t.plv.uprogs = s.plv.uprogs ∧ t.ustore = s.ustore) ∨
          ∃ u, ended t 0 u.base ∧ t.plv.uprogs = s.plv.uprogs ++ [u] ∧ u.ctx = c.ctx ∧ u.count = m.count ∧ u.base + u.count ≤ 1024 ∧
            u.stackMask = c.fld 0x20 1 % 16 ∧ u.chans = c.fld 0x24 2 ∧ u.banks = c.fld 0x26 2 ∧ u.bounds = m.bounds))) ∧
    (∀ l, c.opcode = 8 ∨ c.opcode = 0x0A → image = (s, some l) →
      let m := Image.ofBytes l
      let e := firstFail (s.headerChecks m c.ctx (c.opcode = 0x0A) (s.on (qdbP c.queue) Qdb.VALIDATED) ++ m.encodingChecks ++
        s.flowChecks m (if m.kind = 1 then [] else bitsOf mask 16))
      let u := s.noteImage c.ctx m
      (e.1 ≠ 0 → ∃ t, exec .admissionComplete s = .next t ∧ ended t e.1 e.2 ∧ t.ctxs = s.ctxs ∧ t.mem = s.mem ∧ t.slices = s.slices) ∧
      (∀ code off, e.1 = 0 → u.pickGang c.ctx m mask true = .error (code, off) → code ≠ 0 →
        ∃ t, exec .admissionComplete s = .next t ∧ ended t code off ∧ t.plv.routines = s.plv.routines ∧
          (t.cx c.ctx).program = (s.cx c.ctx).program) ∧
      (∀ gang base, e.1 = 0 → c.opcode = 8 → u.pickGang c.ctx m mask true = .ok gang →
        lowestExtent 0 8192 m.count (gang.flatMap u.extents) = some base →
        let p := u.programOf c.ctx m gang base (u.certOf c.ctx m gang)
        (u.refsFit p.objs = false → exec .admissionComplete s = .next u) ∧
        (u.refsFit p.objs = true → ∃ t, exec .admissionComplete s = .next t ∧ ended t 0 base ∧ (t.cx c.ctx).program = some p ∧
          (t.cx c.ctx).host = none ∧ (t.cx c.ctx).started = false)) ∧
      (∀ gang, e.1 = 0 → c.opcode = 0x0A → u.pickGang c.ctx m mask true = .ok gang →
        ∃ t, exec .admissionComplete s = .next t ∧ (t.cx c.ctx).program = (s.cx c.ctx).program ∧
          ((ended t 0x1A 0 ∧ t.plv.routines = s.plv.routines) ∨
            ∃ r ∈ t.plv.routines, ended t 0 r.base ∧ r.idx = m.idx ∧ r.count = m.count ∧ r.entry = m.entry ∧ r.slices = maskOf gang ∧
              8192 ≤ r.base ∧ r.base + r.count ≤ 10240 ∧ r.bounds = m.bounds)))) ∧
  ∀ (s : State) (id : Nat) (rest : List Nat) (c : Cmd), s.live = true → s.plv.queue = id :: rest → s.plv.reverify = [] → s.findCmd id = some c →
    c.isDone = false →
    ∃ t, exec .admissionComplete s = .next t ∧
      ((c.opcode ≠ 0x09 ∧ c.opcode ≠ 0x0A ∧ t.plv.queue = s.plv.queue) ∨
        (t.plv.queue = rest.filter (· ≠ id) ∧
          ((∃ d, t.ended id 0 0 d ∧ t.f plvP Plv.LAST_CODE = 0 ∧ t.f plvP Plv.ADMITTED = satN 16 (s.f plvP Plv.ADMITTED + 1)) ∨
           ∃ code d, t.ended id 2 code d ∧ code ≠ 0 ∧ t.f plvP Plv.LAST_CODE = code % 256 ∧
             t.f plvP Plv.REJECTED = satN 16 (s.f plvP Plv.REJECTED + 1))))

/-- The entry at the head of the queue whose turn it is is fetched and counted, and one that no window reaches disables its queue; an ended command leaves
with its event, when it asks for one, and so does one whose `LEN` is 0, `DONE_ZERO`, once it may start, while no other leaves before it has ended; the
oldest event goes to the host ring (R295, R300, R303, R306, R307, R316, R317). -/
def Obligations.EntriesComeInAndEventsGoOut : Prop :=
  (∀ (s : State) (p : Fin 4) (q : Fin 256) (e : List Byte), s.live = true → s.hasEntry p q = true → s.nextFetch = (some (p.val, q.val), []) →
    let a := spGet 0 s.hib.rings q + s.f (qdbP q) Qdb.HEAD % s.depth q * 64
    (s.hostOk p a 64 = true →
      let c := s.cmdOf p q e
      let held := s.takesRefs c
      ∃ t, exec (.entryFetch p q (some e)) s = .next t ∧ t.cmds = s.cmds ++ [{ c with refs := if held then c.objs else [] }] ∧
        t.cmdNext = s.cmdNext + 1 ∧
        t.f (qdbP q) Qdb.HEAD = (s.f (qdbP q) Qdb.HEAD + 1) % 2 ^ 16 ∧ t.f (paceP p) HptPace.FETCH_CNT = satN 32 (s.f (paceP p) HptPace.FETCH_CNT + 1) ∧
        (held = false ∨ c.objs = [] → t.mem = s.mem ∧ t.slices = s.slices ∧ t.ctxs = s.ctxs)) ∧
    (s.hostOk p a 64 = false →
      ∃ t, exec (.entryFetch p q (some e)) s = .next t ∧ t.cmds = s.cmds ∧ t.depth q = 0 ∧ t.on (qdbP q) Qdb.FETCH_ERR = true ∧
        t.f (xlP p) HptXlate.HOST_DENY_CNT = satN 16 (s.f (xlP p) HptXlate.HOST_DENY_CNT + 1) ∧ t.mem = s.mem)) ∧
  (∀ (s : State) (id st r d : Nat) (c : Cmd), s.live = true → s.findCmd id = some c → c.ctx < 64 → c.refs = [] →
    (c.st = .done st r d ∨ (c.st = .fetched ∧ c.len = 0 ∧ s.mayStart c = true ∧ s.ctxState c.ctx ≠ stDead ∧ c.objs = [] ∧ st = 1 ∧ r = 0 ∧ d = 0)) →
    (c.ev = false → exec (.commandComplete id) s = .next { s with cmds := s.cmds.filter fun e => e.id ≠ id }) ∧
    (c.ev = true → (s.cx c.ctx).lostEv = 0 → s.f (ctxP c.ctx) Ctx.EV_BACKLOG < 16384 → s.wf = true →
      ∃ t, exec (.commandComplete id) s = .next t ∧ t.cmds = s.cmds.filter (fun e => e.id ≠ id) ∧
        t.f (ctxP c.ctx) Ctx.EV_BACKLOG = s.f (ctxP c.ctx) Ctx.EV_BACKLOG + 1 ∧
        t.peek false (backAddr c.ctx (s.f (ctxP c.ctx) Ctx.EVQ_TAIL + s.f (ctxP c.ctx) Ctx.EV_BACKLOG)) 16 =
          ({ cookie := c.cookie, type := 1, status := st, result := r, detail := d % 65536, queue := c.queue } : Event).bytes c.ctx)) ∧
  (∀ (s : State) (id : Nat) (c : Cmd), s.findCmd id = some c → c.st = .started ∨ (c.st = .fetched ∧ (c.len ≠ 0 ∨ s.mayStart c = false)) →
    exec (.commandComplete id) s = .next s) ∧
  ∀ (s : State) (c : Fin 64) (l : Nat), s.evRing c = some l → s.live = true → s.ctxState c ≠ stTear →
    s.cleanAt false (backAddr c (s.f (ctxP c) Ctx.EVQ_TAIL)) 16 →
    let pg := ctxP c
    let n := s.f pg Ctx.EV_BACKLOG
    let t0 := s.f pg Ctx.EVQ_TAIL
    let p := s.ctxPort c
    let a := s.f pg Ctx.EVQ_BASE * 4096 + t0 % 2 ^ l * 16
    n ≠ 0 → s.portUp p = true → s.pins.d3hot.getD p false = false → (t0 + 2 ^ 17 - s.f pg Ctx.EVQ_HEAD) % 2 ^ 17 < 2 ^ l →
    s.hostOk p a 16 = true → (s.cx c).lostHost = 0 → s.on pg Ctx.EVQ_IRQ_EN = false →
    ∃ t, exec (.eventDelivery c) s = .next t ∧ t.f pg Ctx.EV_BACKLOG = n - 1 ∧ t.f pg Ctx.EVQ_TAIL = (t0 + 1) % 2 ^ 17 ∧
      t.out = s.out ++ [.hostWrite p a ((s.peek false (backAddr c t0) 16).take 15 ++ [if bitOf t0 l then 0 else 1])] ∧ t.mem = s.mem ∧
      t.slices = s.slices ∧ t.ctxs = s.ctxs

/-! ## Ports and contexts -/

/-- A port that is lost begins the teardown of its contexts, and drops their commands that have not started; a link comes up at its rate and width;
a function moves between D0 and D3hot; PERST# rises; the edge of a teardown releases the programs, and its end, once every command has completed, resets the contexts and
queues, of which a context that was only reset is LIVE again (R292, R294, R298, R321, R410, R413; log 18). -/
def Obligations.PortsAndContextsComeAndGo : Prop :=
  (∀ (s : State) (p : Fin 4) (why : Loss), s.live = true → s.on (linkP p) HptLink.UP = true → s.on (linkP p) HptLink.TEARDOWN_BUSY = false →
    ∃ t, exec (.portLoss p why) s = .next t ∧ t.on (linkP p) HptLink.TEARDOWN_BUSY = true ∧ t.on (linkP p) HptLink.UP = decide (why = .flr) ∧
      (why = .flr → t.f (linkP p) HptLink.FLR_CNT = satN HptLink.FLR_CNT.width (s.f (linkP p) HptLink.FLR_CNT + 1)) ∧
      (why ≠ .flr → t.f (linkP p) HptLink.DOWN_CNT = satN HptLink.DOWN_CNT.width (s.f (linkP p) HptLink.DOWN_CNT + 1)) ∧
      (∀ c ∈ s.portCtxs p, t.ctxState c = stTear) ∧ (∀ d ∈ t.cmds, d.ctx ∈ s.portCtxs p → d.st ≠ .fetched) ∧ (t.port p).since = some s.time ∧
      ((∀ d ∈ s.cmds, d.ctx ∈ s.portCtxs p → d.st = .fetched → d.refs = []) → t.slices = s.slices) ∧ t.time = s.time) ∧
  (∀ (s : State) (p : Fin 4) (d3 : Bool), s.live = true → s.on (linkP p) HptLink.UP = true →
    exec (.powerStateChange p d3) s = .next { s with pins := { s.pins with d3hot := mapAt s.pins.d3hot p fun _ => d3 } }) ∧
  (∀ (s : State) (p : Fin 4) (rate : Fin 6), s.live = true → s.power.locked = true → s.pins.perst.getD p false = true →
    s.pins.clkGone.testBit (4 + p) = false → s.portWidth p ≠ 0 → s.on (linkP p) HptLink.UP = false →
    ∃ t, exec (.linkUp p rate) s = .next t ∧ t.on (linkP p) HptLink.UP = true ∧ t.f (linkP p) HptLink.RATE = rate ∧
      t.f (linkP p) HptLink.WIDTH = s.portWidth p ∧ t.mem = s.mem ∧ t.ctxs = s.ctxs ∧ t.slices = s.slices ∧
      sameRegs s t [(linkP p, HptLink.UP), (linkP p, HptLink.RATE), (linkP p, HptLink.WIDTH)]) ∧
  (∀ (s : State) (p : Fin 4), exec (.perstRelease p) s = .next { s with pins := { s.pins with perst := mapAt s.pins.perst p fun _ => true } }) ∧
  (∀ (s : State) (p : Fin 4) (at_ : Nat), s.live = true → (s.port p).since = some at_ → (s.port p).torn = false → s.tearDue at_ = true →
    ∃ t, exec (.teardownEdge (.port p)) s = .next t ∧ t.port p = { since := some at_, torn := true } ∧
      (∀ c ∈ s.tearCtxs p, (t.cx c).program = none ∧ (t.cx c).torn = true) ∧ t.time = s.time) ∧
  (∀ (s : State) (c : Fin 64) (at_ : Nat), s.live = true → (s.cx c).tear = some at_ → (s.cx c).torn = false →
    s.on (linkP (s.ctxPort c)) HptLink.TEARDOWN_BUSY = false → s.tearDue at_ = true →
    ∃ t, exec (.teardownEdge (.slot c)) s = .next t ∧ (t.cx c).program = none ∧ (t.cx c).torn = true ∧ t.time = s.time) ∧
  (∀ (s : State) (p : Fin 4), s.live = true → (s.port p).torn = true →
    (s.quietCmds (s.tearCtxs p) = false → exec (.teardownDone (.port p)) s = .next s) ∧
    (s.quietCmds (s.tearCtxs p) = true → ∃ t, exec (.teardownDone (.port p)) s = .next t ∧ t.port p = {} ∧ t.on (linkP p) HptLink.TEARDOWN_BUSY = false ∧
      (∀ c ∈ s.tearCtxs p, t.ctxState c = stFree ∧ ∀ d ∈ t.cmds, d.ctx ≠ c) ∧
      (∀ q, q < 256 → s.queueOwned q = true → s.queueCtx q ∈ s.tearCtxs p → t.queueOwned q = false) ∧ t.time = s.time)) ∧
  ∀ (s : State) (c : Fin 64), s.live = true → (s.cx c).torn = true → s.on (linkP (s.ctxPort c)) HptLink.TEARDOWN_BUSY = false →
    (s.quietCmds [c.val] = false → exec (.teardownDone (.slot c)) s = .next s) ∧
    (s.quietCmds [c.val] = true → ∃ t, exec (.teardownDone (.slot c)) s = .next t ∧ (∀ d ∈ t.cmds, d.ctx ≠ c.val) ∧
      t.ctxState c = (if (s.cx c).tearRelease then stFree else stLive) ∧ ((s.cx c).tearRelease = false → t.owner (ctxP c) = some (s.ctxPort c)) ∧
      (∀ q, q < 256 → s.queueOwned q = true → s.queueCtx q = c.val → t.queueOwned q = false) ∧ t.time = s.time)

/-! ## The stream link -/

/-- A lane locks after 64 valid headers and loses its lock at 16 bad ones of 64; two ALIGN blocks in their places with consecutive counts align it, two
missed ones end that, and one out of its place changes nothing; blocks of an open frame set its header, open a segment, store its data and no other
byte, and close it as good or bad; IDLE does nothing and a reserved block is counted; at the output moment each enabled line takes its bit of the
decision word, the word's four blocks leave striped over the group's lanes, and a pulse ends at `INVERT` (R325, R326, R327, R331, R332, R340, R341,
R342; the ALIGN block out of its place is the model's reading, log 45). -/
def Obligations.TheStreamLinkReceivesAndDecides : Prop :=
  (∀ (s : State) (l : Fin 32), s.live = true → s.rxRuns l = true →
    (s.on rxP (SibRx.BLOCK_LOCK.at l) = false → (s.lane l).window = List.replicate 64 true →
      ∃ t, exec (.blockLock l) s = .next t ∧ t.on rxP (SibRx.BLOCK_LOCK.at l) = true ∧ t.lanes = s.lanes ∧ t.mem = s.mem ∧ sameBeside s t) ∧
    ((s.lane l).window ≠ List.replicate 64 true → exec (.blockLock l) s = .next s) ∧
    (let bad := ((false :: (s.lane l).window).take 64).filter (!·)
     ∃ t, exec (.invalidSyncHeader l) s = .next t ∧
      t.f rxP (SibRx.SYNC_ERR_CNT.at l) = satN SibRx.SYNC_ERR_CNT.width (s.f rxP (SibRx.SYNC_ERR_CNT.at l) + 1) ∧
      (16 ≤ bad.length → t.on rxP (SibRx.BLOCK_LOCK.at l) = false) ∧
      (bad.length < 16 → t.on rxP (SibRx.BLOCK_LOCK.at l) = s.on rxP (SibRx.BLOCK_LOCK.at l) ∧ t.rxAligned l = s.rxAligned l) ∧ t.mem = s.mem ∧
      sameBeside s t)) ∧
  (∀ (s : State) (l : Fin 32), s.live = true → s.rxAligned l = true →
    (2 ≤ (s.lane l).missed → ∃ t, exec (.alignMissed l) s = .next t ∧ t.rxAligned l = false ∧ t.mem = s.mem ∧ sameBeside s t) ∧
    ((s.lane l).missed < 2 → exec (.alignMissed l) s = .next s)) ∧
  (∀ (s : State) (l : Fin 32) (p : BitVec 56), s.live = true → s.rxRuns l = true → s.on rxP (SibRx.BLOCK_LOCK.at l) = true →
    fld p.toNat 55 32 = 0x3C96A5 → fld p.toNat 15 12 = 0 →
    (s.rxAligned l = false ∨ (s.lane l).due = true →
      ∃ t, exec (.rxAlignBlock l p) s = .next t ∧ t.f rxP (SibRx.LOGICAL.at l) = fld p.toNat 4 0 ∧ t.f rxP (SibRx.LGROUP.at l) = fld p.toNat 11 10 ∧
        (t.lane l).marker = some (fld p.toNat 31 16) ∧ (t.lane l).lanes = fld p.toNat 9 5 ∧ (t.lane l).since = 0 ∧ (t.lane l).missed = 0 ∧
        ((s.lane l).due = true → (s.lane l).missed = 0 → (s.lane l).marker = some ((fld p.toNat 31 16 + 2 ^ 16 - 1) % 2 ^ 16) →
          t.rxAligned l = true) ∧ t.mem = s.mem ∧ sameBeside s t) ∧
    (s.rxAligned l = true → (s.lane l).due = false →
      ∃ t, exec (.rxAlignBlock l p) s = .next t ∧ t.rxAligned l = true ∧ (t.lane l).marker = (s.lane l).marker ∧ t.regs = s.regs ∧ t.mem = s.mem ∧
        sameBeside s t)) ∧
  (∀ (s : State) (l : Fin 32) (g : Nat), s.atLane l g →
    let f := (s.grp g).frame
    (∃ t, exec (.rxIdleBlock l) s = .next t ∧ (let x := s.lane l; t.lane l = ({ x with window := (true :: x.window).take 64 } : Lane).pass s.time) ∧
      t.regs = s.regs ∧ t.grps = s.grps ∧ t.mem = s.mem ∧ sameBeside s t) ∧
    (∀ ty : Byte, ty.toNat ∉ [0x1E, 0x4B, 0x55, 0x66, 0x99] → ∃ t, exec (.rxReservedBlock l ty) s = .next t ∧
      t.f (grpP g) SibGrp.CTRL_ERR = satN SibGrp.CTRL_ERR.width (s.f (grpP g) SibGrp.CTRL_ERR + 1) ∧ t.mem = s.mem ∧ sameBeside s t) ∧
    (∀ p : BitVec 56, f.mode = .idle → checkOk p.toNat = true → fld p.toNat 39 0 = f.tick % 2 ^ 40 → f.header = none →
      ∃ t, exec (.rxFrameBlock l p) s = .next t ∧
        (t.grp g).frame = { f with header := some (fld p.toNat 47 40, s.time), rejected := false } ∧ t.mem = s.mem ∧ t.regs = s.regs ∧
        sameBeside s t) ∧
    (∀ (p : BitVec 56) (n at_ : Nat), f.mode = .idle → f.header = some (n, at_) → f.rejected = false → checkOk p.toNat = true →
      1 ≤ fld p.toNat 15 0 → fld p.toNat 15 0 ≤ 4096 → fld p.toNat 23 16 < n →
      fld p.toNat 47 24 * 8 + fld p.toNat 15 0 * 8 ≤ s.slotBytes g → spGet false f.good (fld p.toNat 23 16) = false →
      ∃ t, exec (.rxSegBlock l p) s = .next t ∧
        (t.grp g).frame = { f with mode := .seg { idx := fld p.toNat 23 16, len := fld p.toNat 15 0, off := fld p.toNat 47 24, got := 0, data := [] } } ∧
        t.mem = s.mem ∧ t.regs = s.regs ∧ sameBeside s t) ∧
    ∀ q, f.mode = .seg q →
      (∀ (d : W64) (v : Bool) (a : Nat), q.got < q.len → s.wf = true →
        s.xlate g (s.slotVa g f.tick + q.off * 8 + q.got * 8) = some (v, a) → s.walkClean g (s.slotVa g f.tick + q.off * 8 + q.got * 8) →
        spGet 0 s.syn (viewAddr v a / 32) = 0 →
        ∃ t, exec (.rxDataBlock l d) s = .next t ∧
          (t.grp g).frame = { f with mode := .seg { q with got := q.got + 1, data := q.data ++ leBytes 8 d.toNat } } ∧ t.peek v a 8 = leBytes 8 d.toNat ∧
          (∀ k, k < 2 ^ 35 → k < a ∨ a + 8 ≤ k → t.peek v k 1 = s.peek v k 1) ∧ t.ctxs = s.ctxs) ∧
      (∀ p : BitVec 56,
        let good := q.got = q.len ∧ fld p.toNat 47 32 = q.len ∧ crc32c q.data = fld p.toNat 31 0
        ∃ t, exec (.rxSegEndBlock l p) s = .next t ∧ (t.grp g).frame.mode = .idle ∧ t.mem = s.mem ∧ sameBeside s t ∧
          (good → t.f (grpP g) SibGrp.SEG_GOOD = satN SibGrp.SEG_GOOD.width (s.f (grpP g) SibGrp.SEG_GOOD + 1) ∧
            spGet false (t.grp g).frame.good q.idx = true ∧ (t.grp g).frame.bytes = f.bytes + 8 * q.len) ∧
          (¬ good → t.f (grpP g) SibGrp.SEG_CRC = satN SibGrp.SEG_CRC.width (s.f (grpP g) SibGrp.SEG_CRC + 1) ∧
            (t.grp g).frame.bad = f.bad + 1))) ∧
  (∀ (s : State) (at_ : Nat), s.live = true → s.tkg.decDue = some at_ → at_ ≤ s.time → s.pins.trig.length = 16 →
    ∃ t, exec .decisionOutput s = .next t ∧ t.tkg = { s.tkg with decDue := none } ∧ (∀ g, g < 4 → (t.grp g).deciding = none) ∧ t.mem = s.mem ∧
      t.regs = s.regs ∧ t.slices = s.slices ∧ t.ctxs = s.ctxs ∧
      (∀ g k w, g < 4 → (s.grp g).deciding = some (k, w) → let ls := (s.grp g).txAct
        ls ≠ [] → (∀ l ∈ ls, s.on txP (SibTx.TX_EN.at l) = true ∧ s.strefGone (l / 4) = false) →
        ∃ line, .txBlocks g ((List.range 4).map fun i => ls.getD (i % ls.length) 0) (decisionBlocks k w) line ∈ t.out) ∧
      ∀ j inv g b pulse k w, j < 16 → s.trigCfg j = (true, inv, g, b, pulse) → (s.grp g).deciding = some (k, w) →
        (t.pins.trig[j]?).map (·.level) = some (level (xor (w.getLsbD b) inv))) ∧
  ∀ (s : State) (j : Fin 16) (at_ : Nat), s.live = true → s.pins.trig[j.val]?.bind (·.pulseEnd) = some at_ → at_ ≤ s.time →
    exec (.trigPulseEnd j) s =
      .next { s with pins := { s.pins with trig := mapAt s.pins.trig j fun _ => { level := level (s.trigCfg j).2.1 } } }


/-! ## Sensors and the governor -/

/-- A sample shows every sensor, and the hottest of them in `TEMP_MAX`; out of reset 105 °C or a current limit begins protection, which ends below
100 °C with both currents below their throttle levels, and 110 °C trips the module; every 10 µs the governor shows the throttle condition and
takes the first step still available; a clock step moves the clock by at most 10 MHz towards its goal, to no less than 450 MHz while a live group is not shed, and changes
nothing else (R19, R354, R355, R356, R358, R430, R431). -/
def Obligations.TheGovernorFollowsItsSensors : Prop :=
  (∀ (s : State) (r : Sample), s.power.critical = false → s.power.inPower = false → (∀ v ∈ r.temps, -32768 ≤ v ∧ v < 32768) →
    ∃ t, exec (.sensorSample r) s = .next t ∧
      (∀ i, i < 41 → t.f senseP (MgtSense.TEMP.at i) = low 16 (r.temps.getD i 0) ∧ t.on senseP (MgtSense.TEMP_VALID.at i) = true ∧
        r.temps.getD i 0 ≤ t.hottest) ∧ (∃ i, i < 41 ∧ r.temps.getD i 0 = t.hottest) ∧
      t.iCore = r.deciAmps.getD 0 0 % 2 ^ 16 ∧ t.iBu = r.deciAmps.getD 1 0 % 2 ^ 16 ∧ t.f senseP MgtSense.V_CORE = r.milliVolts.getD 0 0 % 2 ^ 16 ∧
      (s.live = true → 840 ≤ t.hottest ∨ t.coreLimit ≤ t.iCore ∨ t.buLimit ≤ t.iBu → t.on govP MgtGov.PROTECT = true ∧
        (s.on govP MgtGov.PROTECT = false → t.f govP MgtGov.CLK_MHZ = 450 ∧ t.f govP MgtGov.BU_DUTY = 80 ∧ t.f govP MgtGov.HOST_DUTY = 0)) ∧
      (s.live = true → t.hottest < 800 → t.iCore < t.coreThrottle → t.iBu < t.buThrottle → t.on govP MgtGov.PROTECT = false) ∧
      (s.live = true → 880 ≤ t.hottest → t.gov.tripStopped = true ∧ (s.gov.tripStopped = false → t.on limP MgtLimit.TRIPPED = true)) ∧
      (s.live = false → t.slices = s.slices ∧ t.mem = s.mem ∧ t.gov = s.gov)) ∧
  (∀ s : State, s.live = true → s.gov.evalAt ≤ s.time →
    ∃ t, exec .governorEvaluation s = .next t ∧ t.gov.evalAt = s.time + 10000 ∧ t.on govP MgtGov.THROTTLE = s.throttles ∧
      t.f govP MgtGov.CLK_MHZ = s.f govP MgtGov.CLK_MHZ ∧ t.mem = s.mem ∧ t.slices = s.slices ∧ t.ctxs = s.ctxs ∧
      (s.on govP MgtGov.PROTECT = false →
        let clk := s.gov.clkGoal.getD (s.f govP MgtGov.CLK_MHZ)
        let bu := s.gov.pendBuDuty.getD (s.f govP MgtGov.BU_DUTY)
        let host := s.gov.pendHostDuty.getD (s.f govP MgtGov.HOST_DUTY)
        (s.throttles = true → s.floorMhz < clk → t.gov.clkGoal = some (max s.floorMhz (clk - 10)) ∧
          t.f govP MgtGov.STEP_CNT = satN MgtGov.STEP_CNT.width (s.f govP MgtGov.STEP_CNT + 1)) ∧
        (s.throttles = true → clk ≤ s.floorMhz → s.dutyMin < bu → s.ticking = true → t.gov.pendBuDuty = some (max s.dutyMin (bu - 5))) ∧
        (s.throttles = true → clk ≤ s.floorMhz → bu ≤ s.dutyMin → host ≠ 0 → s.ticking = true → t.gov.pendHostDuty = some (host - 1)) ∧
        (s.throttles = false → s.releases = true → host < 8 → s.ticking = true → t.gov.pendHostDuty = some (host + 1)) ∧
        (s.throttles = false → s.releases = true → 8 ≤ host → 100 ≤ bu → clk < s.targetMhz → t.gov.clkGoal = some (min s.targetMhz (clk + 10))) ∧
        (s.throttles = false → s.releases = false → t.gov = { s.gov with evalAt := s.time + 10000 }))) ∧
  ∀ (s : State) (goal : Nat), s.live = true → s.gov.clkGoal = some goal → goal < 1024 →
    ∃ t, exec .clockStep s = .next t ∧ sameRegs s t [(govP, MgtGov.CLK_MHZ)] ∧
      (let clk := s.f govP MgtGov.CLK_MHZ
       let goal := if s.unshedLive then max 450 goal else goal
       let new := t.f govP MgtGov.CLK_MHZ
       clk ≤ new + 10 ∧ new ≤ clk + 10 ∧ (clk ≤ goal + 10 → goal ≤ clk + 10 → new = goal ∧ t.gov.clkGoal = none) ∧
       (goal + 10 < clk → new = clk - 10 ∧ t.gov.clkGoal = some goal) ∧ (clk + 10 < goal → new = clk + 10 ∧ t.gov.clkGoal = some goal)) ∧
      t.mem = s.mem ∧ t.slices = s.slices ∧ t.ctxs = s.ctxs ∧ t.time = s.time


/-! ## Silent errors and scrubbing -/

/-- A sample is shipped or skipped, and skipped with a parity failure of the result path, which is counted; a replay on a free slice, computed from the
record's inputs, that agrees settles its record, one that differs keeps both results for a third, which
settles it whatever it says; a pattern item is run and counted; a record that waits 1,000 ms is given up; a SUSPECT slice recovers; a built-in
test ends, an entry of failed tiles counting as confirmed errors; a pattern round replaces the last; and a re-verification holds each stream
program that a quarantined slice runs (R287, R366, R368, R369, R370, R371, R372, R373, R383). -/
def Obligations.SilentErrorsAreSought : Prop :=
  (∀ (s : State) (n : Fin 16) (x : Tile), s.clocked = true → (s.slice n.val).staging = some x →
    (∀ done : Shipment, done ≠ .badParity → ∃ t, exec (.sampleShip n done) s = .next t ∧ (t.slice n.val).staging = none ∧ t.mem = s.mem ∧ t.ctxs = s.ctxs ∧
      (if done = .arrived ∧ s.rel.recs.length < 4 then
        t.rel.recs = s.rel.recs ++ [{ id := s.rel.nextId, tile := x, at_ := s.time }] ∧
        t.f aniP Anise.SAMPLED = satN Anise.SAMPLED.width (s.f aniP Anise.SAMPLED + 1)
      else t.rel.recs = s.rel.recs ∧ t.f aniP Anise.SKIPPED = satN Anise.SKIPPED.width (s.f aniP Anise.SKIPPED + 1))) ∧
    (∃ t, exec (.sampleShip n .badParity) s = .next t ∧ (t.slice n.val).staging = none ∧ t.rel.recs = s.rel.recs ∧ t.ctxs = s.ctxs ∧
      t.f (portP n.val) SlcPort.RES_PAR_CNT = satN SlcPort.RES_PAR_CNT.width (s.f (portP n.val) SlcPort.RES_PAR_CNT + 1) ∧
      t.f aniP Anise.SKIPPED = satN Anise.SKIPPED.width (s.f aniP Anise.SKIPPED + 1))) ∧
  (∀ (s : State) (n : Fin 16) (x : Replayed) (r : AniRec), s.live = true → s.wanted n.val = some r →
    let result := s.replay n.val r.tile.bytes x
    ∃ t, exec (.aniseReplay r.id n x) s = .next t ∧ (s.noneHeld → t.slices = s.slices) ∧ t.time = s.time ∧
      (r.first = none → result = r.tile.result → t.rel.recs = s.rel.recs.filter (·.id ≠ r.id) ∧ t.mem = s.mem ∧
        t.f aniP Anise.MATCH = satN Anise.MATCH.width (s.f aniP Anise.MATCH + 1)) ∧
      (r.first = none → result ≠ r.tile.result → t.f aniP Anise.DISAGREE = satN Anise.DISAGREE.width (s.f aniP Anise.DISAGREE + 1) ∧
        t.f aniP Anise.LAST_REPLAY = n.val ∧
        t.rel.recs = s.rel.recs.map fun q => if q.id = r.id then { q with first := some (n.val, result), at_ := s.time } else q) ∧
      (r.first ≠ none → t.rel.recs = s.rel.recs.filter (·.id ≠ r.id))) ∧
  (∀ (s : State) (n : Fin 16) (x : Replayed) (it : PatItem), s.live = true → s.wanted n.val = none →
    s.rel.items.find? (fun q => q.slice = n.val) = some it → s.sliceFree n.val = true → (s.slice n.val).testing = false →
    let result := s.replay n.val (s.itemBytes it) x
    ∃ t, exec (.aniseReplay it.id n x) s = .next t ∧ t.rel.items = s.rel.items.filter (·.id ≠ it.id) ∧
      (s.noneHeld → t.slices = s.slices) ∧
      t.f patP Pattern.RUNS = satN Pattern.RUNS.width (s.f patP Pattern.RUNS + 1) ∧
      t.f patP Pattern.FAILS =
        (if mace result = it.expect.toNat then s.f patP Pattern.FAILS else satN Pattern.FAILS.width (s.f patP Pattern.FAILS + 1))) ∧
  (∀ (s : State) (i : Nat) (r : AniRec), s.live = true → s.rel.recs.find? (fun q => q.id = i) = some r → r.at_ + 1000000000 ≤ s.time →
    ∃ t, exec (.sampleExpire i) s = .next t ∧ t.rel.recs = s.rel.recs.filter (·.id ≠ i) ∧ (s.noneHeld → t.slices = s.slices) ∧ t.ctxs = s.ctxs ∧
      (r.first = none → t.f aniP Anise.SKIPPED = satN Anise.SKIPPED.width (s.f aniP Anise.SKIPPED + 1) ∧ t.mem = s.mem)) ∧
  (∀ (s : State) (n : Fin 16), s.live = true → s.f (slhP n.val) SlcHealth.HSTATE = hlSuspect →
    s.f (slhP n.val) SlcHealth.LAST_ERR + s.f hltP Health.RECOVER_H * 3600000000000 ≤ s.time →
    ∃ t, exec (.healthRecover n) s = .next t ∧ t.f (slhP n.val) SlcHealth.HSTATE = hlNormal ∧ (t.f hltP Health.SUSPECT).testBit n.val = false ∧
      (s.noneHeld → t.slices = s.slices) ∧ t.ctxs = s.ctxs ∧ t.plv = s.plv) ∧
  (∀ (s : State) (n : Fin 16) (digests : List (Nat × W64)), s.live = true → s.time < 2 ^ 64 → s.loaded n.val = true →
    s.time < (s.slice n.val).testAt + s.testEvery n.val → (s.slice n.val).testing = true → s.sliceFree n.val = true → s.wanted n.val = none →
    ∃ t, exec (.builtInTest n digests true) s = .next t ∧ (t.slice n.val).testing = false ∧
      (s.noneHeld → t.slice n.val = { s.slice n.val with testing := false }) ∧
      t.f (slhP n.val) SlcHealth.TESTS_RUN = satN SlcHealth.TESTS_RUN.width (s.f (slhP n.val) SlcHealth.TESTS_RUN + 1) ∧
      t.on (slhP n.val) SlcHealth.TEST_LATE = false ∧ ((∃ d ∈ digests, d.1 < 16) → t.f (slhP n.val) SlcHealth.LAST_CONF = s.time) ∧
      (digests = [] → t.mem = s.mem)) ∧
  (∀ s : State, s.live = true → s.on patP Pattern.LOADED = true → s.rel.runAt + leAt s.rel.package 0x0E 2 * 1000000 ≤ s.time →
    ∃ t, exec .patternRun s = .next t ∧ t.rel.items = (s.patternRound.zipIdx.map fun (it, k) => { it with id := s.rel.nextId + k }) ∧
      t.f patP Pattern.LATE = satN Pattern.LATE.width (s.f patP Pattern.LATE + s.rel.items.length) ∧ t.mem = s.mem ∧ t.slices = s.slices ∧
      t.ctxs = s.ctxs) ∧
  ∀ (s : State) (n : Nat) (rest : List Nat), s.live = true → s.plv.reverify = n :: rest → (∀ c, s.isStream c = false → ¬ (s.cx c).host.any (·.active)) →
    ∃ t, exec .reverification s = .next t ∧ t.plv.reverify = rest ∧ t.time = s.time ∧
      ∀ c p, c < 64 → (s.cx c).program = some p → n ∈ p.gang → p.stream = true → (t.cx c).heldNext = true ∧ (t.cx c).program = some p

/-- A pass begins with the self-check of the engine whose turn it is, which a failed one ends; a clean frame advances the pass and leaves the
configuration as it is; a flip of one bit of a frame is put right and counted once; an engine without heartbeat or in an illegal state fails,
and with it the pair, while an outvoted upset is only counted (R399, R400, R401, R402). -/
def Obligations.CloveScrubsTheConfiguration : Prop :=
  (∀ (s : State) (ok : Bool), s.live = true → s.clove.stopped = false → s.on cloveP Clove.RUNNING = false →
    ¬ (s.engineFailed false = true ∧ s.engineFailed true = true) →
    let b := if s.engineFailed s.clove.nextB then !s.clove.nextB else s.clove.nextB
    ∃ t, exec (.scrubPass ok) s = .next t ∧ t.on cloveP Clove.RUNNING = ok ∧ t.fab = s.fab ∧ (s.noneHeld → t.slices = s.slices) ∧
      (ok = true → t.on cloveP Clove.ACTIVE = b ∧ t.clove.nextFrame = 0 ∧ t.clove.crc = 0 ∧ t.clove.passAt = s.time ∧ t.mem = s.mem) ∧
      (ok = false → t.engineFailed b = true ∧ t.f cloveP (if b then Clove.CAUSE_B else Clove.CAUSE_A) = 1)) ∧
  (∀ s : State, s.live = true → s.on cloveP Clove.RUNNING = true → s.clove.passAt + 440 * (s.clove.nextFrame + 1) ≤ s.time →
    s.clove.nextFrame + 1 < s.fab.frames → (∀ u, u < 128 → spGet 0 s.fab.cfgSyn (s.clove.nextFrame * 128 + u) = 0) →
    let i := s.clove.nextFrame
    let data := spVals 0 s.fab.cfg (4096 * i) 4096
    let after := { s.clove with nextFrame := i + 1, crc := BitVec.ofNat 64 (maceFrom s.clove.crc.toNat data) }
    exec (.scrubFrame []) s = .next { s with clove := after } ∧
    (spWf s.fab.cfg = true → s.on cloveP Clove.SCRUB_FAULT = false → ∀ f : Flip, f.unit < 128 → f.bit < 272 →
      ∃ t, exec (.scrubFrame [f]) s = .next t ∧ (∀ a, spGet 0 t.fab.cfg a = spGet 0 s.fab.cfg a) ∧
        (∀ k, spGet 0 t.fab.cfgSyn k = spGet 0 s.fab.cfgSyn k) ∧ t.clove = after ∧
        t.f cloveP Clove.CORRECTED = satN Clove.CORRECTED.width (s.f cloveP Clove.CORRECTED + 1) ∧ (s.noneHeld → t.slices = s.slices) ∧ t.ctxs = s.ctxs)) ∧
  ∀ (s : State) (b : Bool), s.live = true → s.engineFailed b = false →
    (s.clove.stopped = false → ∃ t, exec (.heartbeatTimeout b) s = .next t ∧ t.engineFailed b = true ∧
      t.f cloveP (if b then Clove.CAUSE_B else Clove.CAUSE_A) = 3 ∧ t.on cloveP (if s.engineFailed !b then Clove.SCRUB_FAULT else Clove.SCRUB_DEGRADED) = true ∧
      (s.noneHeld → t.slices = s.slices) ∧ t.fab = s.fab) ∧
    (∃ t, exec (.tripleLatchUpset b true) s = .next t ∧ t.engineFailed b = true ∧ t.f cloveP (if b then Clove.CAUSE_B else Clove.CAUSE_A) = 2 ∧
      (s.noneHeld → t.slices = s.slices) ∧ t.fab = s.fab) ∧
    exec (.tripleLatchUpset b false) s = .next (s.setF cloveP Clove.CLV_TMR (satN Clove.CLV_TMR.width (s.f cloveP Clove.CLV_TMR + 1)))


/-! ## Resets, rails and clocks -/

/-- VCC_AUX resets everything; 2 ms after it is in band the POWER reset ends and the address strap is sampled; SYS_RST#, a rail out of band and a lost
REFCLK_SYS start a cold reset, and the end of one samples the straps and begins start-up, whose timebase then counts from 0; a rail in band is
noted, out of its order as an error; a lost clock is marked and takes down what runs on it, and a returned one is unmarked; at 125 °C the module
stops and floats its pins (R407 to R418, R428). -/
def Obligations.ResetsRailsAndClocks : Prop :=
  (∀ s : State, ∃ t, exec .powerReset s = .next t ∧ t.power = { now := s.power.now, inPower := true, inCold := true, coldSince := s.power.now } ∧
    t.regs = [] ∧ t.mem = [] ∧ t.slices = [] ∧ t.ctxs = [] ∧ t.pins.railsIn = [] ∧ t.jtag = {} ∧ t.fuses = s.fuses) ∧
  (∀ (s : State) (a : BitVec 2) (at_ : Nat), s.power.auxAt = some at_ → s.power.inPower = true → s.power.critical = false → at_ + 2000000 ≤ s.power.now →
    ∃ t, exec (.powerResetEnd a) s = .next t ∧ t.power.inPower = false ∧ t.pins.smbAddr = a ∧
      (s.pins.sysRstLow = false → t.regs = s.regs ∧ t.power = { s.power with inPower := false, auxAt := none }) ∧
      (s.pins.sysRstLow = true → t.coldFor s 1)) ∧
  (∀ s : State, s.mayCold = true → ∃ t, exec .coldReset s = .next t ∧ t.coldFor s 1 ∧ t.pins.sysRstLow = true) ∧
  (∀ (s : State) (bifur admin : BitVec 2), s.coldOver = true →
    ∃ t, exec (.coldResetEnd bifur admin) s = .next t ∧ t.live = true ∧ t.power = { now := s.power.now, startAt := s.power.now } ∧
      t.pins.bifur = bifur ∧ t.admin = (if t.portWidth admin.toNat = 0 then 0 else admin.toNat) ∧ t.mem = s.mem ∧ t.slices = s.slices ∧
      sameRegs s t [(glbP, GlbCtrl.ADMIN_PORT)]) ∧
  (∀ s : State, s.live = true → s.power.locked = false → s.power.startAt + 200000 ≤ s.power.now →
    exec .timebaseLock s = .next { s with time := 0, power := { s.power with locked := true } }) ∧
  (∀ (s : State) (r : Rail), s.mayCold = true → r ≠ .aux → s.pins.sysRstLow = false →
    ∃ t, exec (.railFault r) s = .next t ∧ t.coldFor s 4 ∧ t.f senseP MgtSense.FAULT_RAIL = Rail.code r ∧ r ∉ t.pins.railsIn ∧
      t.power.faults = (r, none) :: s.power.faults.filter (·.1 ≠ r) ∧ t.coldOver = false) ∧
  (∀ (s : State) (r : Rail), s.power.critical = false →
    ∃ t, exec (.railInBand r) s = .next t ∧ r ∈ t.pins.railsIn ∧ (∀ q ∈ s.pins.railsIn, q ∈ t.pins.railsIn) ∧
      t.power.faults = (s.power.faults.map fun f => if f.1 = r then (r, some s.power.now) else f) ∧
      ((∃ q ∈ Rail.all, Rail.step q < Rail.step r ∧ q ∉ s.pins.railsIn) → t.on senseP MgtSense.SEQ_ERR = true) ∧
      ((∀ q ∈ Rail.all, Rail.step q < Rail.step r → q ∈ s.pins.railsIn) → t.regs = s.regs) ∧ t.mem = s.mem ∧ t.slices = s.slices ∧ t.ctxs = s.ctxs) ∧
  (∀ (s : State) (k : RefClk), s.mayCold = true →
    (s.pins.clkGone.testBit (RefClk.bit k) = false →
      ∃ t, exec (.clockLoss k) s = .next t ∧ t.pins.clkGone = s.pins.clkGone ||| 2 ^ RefClk.bit k ∧
        (match k with
         | .sys => t.coldFor s 5
         | .stref j => s.live = true → (t.f clkP MgtClk.CLK_LOST).testBit (RefClk.bit k) = true ∧
            ∀ l, 16 * j.val ≤ l → l < 16 * j.val + 16 → t.on rxP (SibRx.BLOCK_LOCK.at l) = false ∧ t.rxRuns l = false
         | .pcie p => s.live = true → (t.f clkP MgtClk.CLK_LOST).testBit (RefClk.bit k) = true ∧ t.on (linkP p.val) HptLink.UP = false)) ∧
    (s.pins.clkGone.testBit (RefClk.bit k) = true →
      ∃ t, exec (.clockReturn k) s = .next t ∧ t.pins.clkGone.testBit (RefClk.bit k) = false ∧
        (∀ j, j ≠ RefClk.bit k → t.pins.clkGone.testBit j = s.pins.clkGone.testBit j) ∧
        t.power.clkAt = (if k = .sys then some s.power.now else s.power.clkAt) ∧ t.regs = s.regs ∧ t.mem = s.mem ∧ t.slices = s.slices)) ∧
  ∀ s : State, s.mayCold = true →
    ∃ t, exec .criticalTemp s = .next t ∧ t.power = { s.power with critical := true } ∧ t.thermTrip = true ∧ t.live = false ∧
      (∀ l ∈ t.pins.trig, l.level = .z) ∧ t.pins.tickOut = false ∧ (∀ b ∈ t.pins.io, b = .hiz) ∧ t.regs = s.regs ∧ t.mem = s.mem ∧ t.slices = s.slices


/-! ## The sideband and the JTAG port -/

/-- A sideband write is a whole-word register write by the sideband; a sideband read returns the register with its count and, where the master used
one, the Packet Error Code; the keyed command starts a cold reset; a transaction that is none of these, or whose code fails, is counted and does
nothing else; and the alert response is the module's own address. The JTAG instructions: IDCODE shifts out 0x0102_4B6F, SAMPLE/PRELOAD the sampled
pins while it takes new cells, BYPASS nothing; EXTEST and CLAMP drive the pins from the cells and HIGHZ floats them while SYS_RST# is low, and each
acts as BYPASS otherwise; none touches a register, memory, the fabric or a slice (R429, R432; the parts that the specification leaves to
IEEE 1149.1 and to SMBus are the model's, log 16). -/
def Obligations.TheBoardPortsAnswer : Prop :=
  (∀ (s : State) (x : SbTxn), s.reaches .sideband = true →
    (sbOk x = true → x.pec ≠ some false →
      let u := s.setF sbP MgtSideband.SB_DONE_CNT (satN MgtSideband.SB_DONE_CNT.width (s.f sbP MgtSideband.SB_DONE_CNT + 1))
      let a := leAt x.body 0 4
      (x.code = 0x10 → ∃ t, exec (.sbWrite x) s = .next t ∧ exec (.registerWrite .sideband a (leBytes 4 (leAt x.body 4 4)) [true, true, true, true]) u = .next t) ∧
      (x.code = 0x11 → ∃ t, exec (.sbRead x) s = .next t ∧
        ∃ b pec, (u.busRead .sideband a 4).2 = b ∧ t.out = s.out ++ [.smb (4 :: b ++ pec)] ∧ pec.length = (if x.pec.isSome then 1 else 0) ∧
          ((∀ pg, s.pageAt a = some pg → counterAt pg.kind (a % 0x1000) true = false) → b = u.readBytes .sideband a 4) ∧
          t.mem = s.mem ∧ t.slices = s.slices ∧ t.ctxs = s.ctxs) ∧
      (x.code = 0x1F → ∃ t, exec (.sbColdReset x) s = .next t ∧ t.coldFor s 3)) ∧
    (sbOk x = false ∨ x.pec = some false → ∀ c ∈ [Instr.sbWrite x, .sbRead x, .sbColdReset x],
      ∃ t, exec c s = .next t ∧ (sbOk x = false → t.f sbP MgtSideband.SB_BAD_CNT = satN MgtSideband.SB_BAD_CNT.width (s.f sbP MgtSideband.SB_BAD_CNT + 1)) ∧
        (x.pec = some false → t.f sbP MgtSideband.SB_PEC_CNT = satN MgtSideband.SB_PEC_CNT.width (s.f sbP MgtSideband.SB_PEC_CNT + 1)) ∧
        sameRegs s t [(sbP, MgtSideband.SB_BAD_CNT), (sbP, MgtSideband.SB_PEC_CNT)] ∧ t.out = s.out ∧ t.mem = s.mem ∧ t.power = s.power)) ∧
  (∀ s : State, s.reaches .sideband = true → (∃ pg ∈ [senseP, clkP, govP, limP, sbP], s.irqOn pg = true) →
    exec .alertResponse s = .next { s with out := s.out ++ [.smb [BitVec.ofNat 8 (0x58 + s.pins.smbAddr.toNat)]] }) ∧
  ∀ (s : State) (levels cells : List Bool), s.mayCold = true →
    let port := fun (ir : Nat) (drive : Option (List Bool)) (floated : Bool) =>
      { s with jtag := { s.jtag with ir := ir, drive := drive, floated := floated } }
    exec .bypass s = .next (port jtBypass none false) ∧
    (∃ t, exec .idcode s = .next t ∧ t.jtag = { s.jtag with ir := jtIdcode, drive := none, floated := false } ∧
      ∃ bits, t = { s with jtag := t.jtag, out := s.out ++ [.jtag bits] } ∧ bits.length = 32 ∧
        (bits.zipIdx.map fun (b, i) => if b then 2 ^ i else 0).sum = 0x01024B6F) ∧
    (∃ t, exec (.samplePreload levels cells) s = .next t ∧ t.jtag = { ir := jtSample, cells := cells, drive := none, floated := false } ∧
      ∃ bits, t = { s with jtag := t.jtag, out := s.out ++ [.jtag bits] } ∧ bits.length = levels.length ∧
        (∀ i, i < 192 → bits[i]? = levels[i]?) ∧ (208 < levels.length → bits[208]? = some s.pins.tickOut) ∧
        (209 < levels.length → s.thermTrip = true → bits[209]? = some false)) ∧
    exec .extest s = .next (if s.pins.sysRstLow then port jtExtest (some s.jtag.cells) false else port jtBypass none false) ∧
    exec .clamp s = .next (if s.pins.sysRstLow then port jtClamp (some s.jtag.cells) false else port jtBypass none false) ∧
    exec .highz s = .next (if s.pins.sysRstLow then port jtHighz none true else port jtBypass none false)


/-! ## The fabric -/

/-- 2 µs after a load begins its header is read and, where it passes, names the frames and regions to come; a frame whose checks hold is written as it
stands and extends the signature; a port check that is not the last records its outcome, releases a passed region's extension unit and reads its manifest, and the last, passed, completes
the load, which fails where no region passes; 1 µs later each bank whose supply is within 5 % of its declaration is configured as its option words
say, and each other declared one is marked off (R82, R83, R85, R86, R87, R145). -/
def Obligations.AFabricLoadRuns : Prop :=
  (∀ (s : State) (id : Nat) (l : List Byte), s.live = true → s.fab.cmd = some id → s.fab.header = [] → s.fab.startAt + 2000 ≤ s.time → l.length = 64 →
    s.imageAt 0 l → leAt l 0 4 = 0x4C524C44 → leAt l 4 2 = 1 → leAt l 6 2 = 0x40 → leAt l 8 4 = 0x10240001 → leAt l 0x0E 2 = 0 → leAt l 0x10 4 ≠ 0 →
    leAt l 0x14 4 = 4100 → leAt l 0x18 8 = 64 + leAt l 0x10 4 * 4100 → (∀ c, s.findCmd id = some c → c.len = leAt l 0x18 8) →
    leAt l 0x0C 2 &&& s.fuses.sliceMask = leAt l 0x0C 2 →
    ∃ t, exec .fabricResetComplete s = .next t ∧ t.mem = s.mem ∧ t.regs = s.regs ∧ t.cmds = s.cmds ∧
      t.fab = { s.fab with header := l, mask := leAt l 0x0C 2, frames := leAt l 0x10 4, regionsLeft := bitsOf (leAt l 0x0C 2) 16 } ∧
      ∀ n, n < 16 → ∀ pg ∈ fabricPages n, t.isBusy pg = false) ∧
  (∀ (s : State) (l : List Byte), s.live = true → s.fab.cmd.isSome = true → s.fab.nextFrame + 1 < s.fab.frames →
    s.fab.startAt + 2000 + (64 + (s.fab.nextFrame + 1) * 4100) / 4 ≤ s.time → l.length = 4100 → s.imageAt (64 + s.fab.nextFrame * 4100) l →
    crc32c (l.take 4096) = leAt l 4096 4 → spWf s.fab.cfg = true →
    ∃ t, exec (.imageFrame false) s = .next t ∧ t.fab.nextFrame = s.fab.nextFrame + 1 ∧
      t.fab.crc = BitVec.ofNat 64 (maceFrom s.fab.crc.toNat (l.take 4096)) ∧ spVals 0 t.fab.cfg (4096 * s.fab.nextFrame) 4096 = l.take 4096 ∧
      (∀ a, a < 4096 * s.fab.nextFrame ∨ 4096 * (s.fab.nextFrame + 1) ≤ a → spGet 0 t.fab.cfg a = spGet 0 s.fab.cfg a) ∧ t.mem = s.mem ∧
      t.regs = s.regs ∧ t.slices = s.slices) ∧
  (∀ (s : State) (a : PortAnswer) (n : Fin 16) (rest : List Nat), s.live = true → s.fab.cmd.isSome = true → s.fab.header ≠ [] →
    s.fab.nextFrame = s.fab.frames → s.fab.checkAt ≤ s.time → s.fab.regionsLeft = n.val :: rest →
    let cause := portFail a (leAt s.fab.header 0x2C 1)
    ∃ t, exec (.portCheck a) s = .next t ∧ t.mem = s.mem ∧ t.ctxs = s.ctxs ∧
      (rest ≠ [] → t.fab.regionsLeft = rest ∧ t.fab.checkAt = s.fab.checkAt + 20000 ∧ t.on (portP n.val) SlcPort.CHECKED = true ∧
        t.on (portP n.val) SlcPort.PASSED = decide (cause = 0) ∧ t.f (portP n.val) SlcPort.PORT_CAUSE = cause ∧
        t.f (portP n.val) SlcPort.PORT_ID = a.ident.toNat ∧ t.fab.passMask = (if cause = 0 then s.fab.passMask ||| 2 ^ n.val else s.fab.passMask) ∧
        t.out = s.out ++ (if cause = 0 then .extRst n.val false :: (if a.ident.getLsbD 3 then (List.range 64).map (.extMan n.val) else []) else [])) ∧
      (rest = [] → cause ≠ 0 → s.fab.passMask = 0 → t.on glbP GlbCtrl.LOAD_FAILED = true ∧ t.f glbP GlbCtrl.LOAD_CAUSE = 7 ∧
        t.on glbP GlbCtrl.LOADING = false ∧ t.fab.cmd = none) ∧
      (rest = [] → cause = 0 → t.on glbP GlbCtrl.LOADED = true ∧ t.on glbP GlbCtrl.LOADING = false ∧ t.loaded n.val = true ∧
        t.f glbP GlbCtrl.FAB_SIG = s.fab.crc.toNat ∧ t.fab.cmd = none ∧ t.fab.doneAt = some s.time ∧ t.clove.stopped = false)) ∧
  ∀ (s : State) (options : List (List Byte)) (at_ : Nat), s.live = true → s.fab.doneAt = some at_ → at_ + 1000 ≤ s.time → s.pins.io.length = 8 →
    ∃ t, exec (.ioBankCheck options) s = .next t ∧ t.fab = { s.fab with doneAt := none } ∧ t.mem = s.mem ∧ t.slices = s.slices ∧
      sameRegs s t [(glbP, GlbCtrl.IO_BANK_OFF)] ∧
      ∀ b, b < 8 →
        let v := vccioMv (fld (leAt s.fab.header 0x28 4) (4 * b + 3) (4 * b))
        (v = 0 → t.pins.io[b]? = s.pins.io[b]?) ∧
        (v ≠ 0 → v * 95 ≤ s.vccio b * 100 → s.vccio b * 100 ≤ v * 105 → t.pins.io[b]? = some (.configured ((options.getD b []).map (ioCell (fld (leAt s.fab.header 0x28 4) (4 * b + 3) (4 * b)))))) ∧
        (v ≠ 0 → ¬ (v * 95 ≤ s.vccio b * 100 ∧ s.vccio b * 100 ≤ v * 105) → (t.f glbP GlbCtrl.IO_BANK_OFF).testBit b = true ∧ t.pins.io[b]? = s.pins.io[b]?)
end

