-- ==== Sys2Proof/Laws/Sparse.lean ====
section
/-! SUPPORT. Sparse tables: what a write reads back as, and that each operation keeps the canonical form. -/

namespace Sys2Proof.Laws
open Sys2Proof.Machine

variable {α : Type}

theorem spWfFrom_mono {n k : Nat} {t : Sp α} (h : spWfFrom n t = true) (hk : k ≤ n) : spWfFrom k t = true := by
  cases t with
  | nil => rfl
  | cons e t =>
    obtain ⟨j, v⟩ := e
    simp only [spWfFrom, Bool.and_eq_true, decide_eq_true_eq] at h ⊢
    exact ⟨by omega, h.2⟩

theorem spWfFrom_filter {n : Nat} {t : Sp α} (p : Nat × α → Bool) (h : spWfFrom n t = true) : spWfFrom n (t.filter p) = true := by
  induction t generalizing n with
  | nil => rfl
  | cons e t ih =>
    obtain ⟨j, v⟩ := e
    simp only [spWfFrom, Bool.and_eq_true, decide_eq_true_eq] at h
    rw [List.filter_cons]
    split
    · simp only [spWfFrom, Bool.and_eq_true, decide_eq_true_eq]; exact ⟨h.1, ih h.2⟩
    · exact spWfFrom_mono (ih h.2) (by omega)

theorem spWfFrom_ins {n : Nat} {t : Sp α} (h : spWfFrom n t = true) {k : Nat} (hk : n ≤ k) (v : α) : spWfFrom n (spIns t k v) = true := by
  induction t generalizing n with
  | nil => simp [spIns, spWfFrom, hk]
  | cons e t ih =>
    obtain ⟨j, w⟩ := e
    simp only [spWfFrom, Bool.and_eq_true, decide_eq_true_eq] at h
    rw [spIns]
    split
    · rename_i hj; subst hj
      simp only [spWfFrom, Bool.and_eq_true, decide_eq_true_eq]; exact ⟨hk, h.2⟩
    · split
      · simp only [spWfFrom, Bool.and_eq_true, decide_eq_true_eq]; exact ⟨hk, by omega, h.2⟩
      · simp only [spWfFrom, Bool.and_eq_true, decide_eq_true_eq]; exact ⟨h.1, ih h.2 (by omega)⟩

/-- A write keeps the canonical form. -/
theorem spPut_wf [DecidableEq α] {t : Sp α} (h : spWf t = true) (d : α) (k : Nat) (v : α) : spWf (spPut d t k v) = true := by
  unfold spWf spPut
  split
  · exact spWfFrom_filter _ h
  · exact spWfFrom_ins h (Nat.zero_le _) v

theorem spFilter_wf {t : Sp α} (h : spWf t = true) (p : Nat × α → Bool) : spWf (t.filter p) = true := spWfFrom_filter p h

/-- Dropping a range of keys keeps the canonical form. -/
theorem spDrop_wf {t : Sp α} (h : spWf t = true) (lo hi : Nat) : spWf (spDrop t lo hi) = true := spWfFrom_filter _ h

theorem spGet_ins (d : α) (t : Sp α) (k : Nat) (v : α) (i : Nat) :
    spGet d (spIns t k v) i = if i = k then v else spGet d t i := by
  induction t with
  | nil => simp only [spIns, spGet, eq_comm]
  | cons e t ih =>
    obtain ⟨j, w⟩ := e
    rw [spIns]
    split
    · rename_i hj; subst hj
      by_cases hi : i = j
      · simp [spGet, hi]
      · simp [spGet, hi, Ne.symm hi]
    · by_cases hi : i = k
      · subst hi; split <;> simp_all [spGet]
      · split
        · simp [spGet, Ne.symm hi]
        · rw [spGet, ih, spGet]; simp [hi]

theorem spGet_del (d : α) (t : Sp α) (k : Nat) (i : Nat) : spGet d (spDel t k) i = if i = k then d else spGet d t i := by
  unfold spDel
  induction t with
  | nil => simp [spGet]
  | cons e t ih =>
    obtain ⟨j, w⟩ := e
    rw [List.filter_cons]
    by_cases hj : j = k
    · subst hj
      simp only [ne_eq, not_true_eq_false, decide_false, Bool.false_eq_true, if_false, ih, spGet]
      by_cases hi : i = j
      · simp [hi]
      · simp [hi, Ne.symm hi]
    · simp only [ne_eq, hj, not_false_eq_true, decide_true, if_true, spGet, ih]
      by_cases hi : i = k
      · subst hi; simp [hj]
      · simp [hi]

/-- A key reads as what was written to it, and every other key as before. -/
@[simp] theorem spGet_put [DecidableEq α] (d : α) (t : Sp α) (k : Nat) (v : α) (i : Nat) :
    spGet d (spPut d t k v) i = if i = k then v else spGet d t i := by
  unfold spPut
  split
  · rename_i hv; subst hv; exact spGet_del v t k i
  · exact spGet_ins d t k v i

/-- A key other than the written one reads as before, whatever default it is read with. -/
theorem spGet_put_ne [DecidableEq α] (d e : α) (t : Sp α) {k i : Nat} (h : i ≠ k) (v : α) : spGet e (spPut d t k v) i = spGet e t i := by
  unfold spPut
  split
  · rw [spGet_del, if_neg h]
  · rw [spGet_ins, if_neg h]

end Sys2Proof.Laws
end

