-- ==== Sys2Proof/Laws/State.lean ====
section
/-! SUPPORT. What each named update of the state leaves alone, field by field, and what it reads back as. -/

namespace Sys2Proof.Laws
open Sys2Proof Sys2Proof.Machine

variable (s : State)

/-! ## `State.setF` changes `regs` -/

@[simp] theorem setF_pending (pg : Page) (f : Fld) (v : Nat) : (s.setF pg f v).pending = s.pending := rfl
@[simp] theorem setF_fuses (pg : Page) (f : Fld) (v : Nat) : (s.setF pg f v).fuses = s.fuses := rfl
@[simp] theorem setF_pins (pg : Page) (f : Fld) (v : Nat) : (s.setF pg f v).pins = s.pins := rfl
@[simp] theorem setF_power (pg : Page) (f : Fld) (v : Nat) : (s.setF pg f v).power = s.power := rfl
@[simp] theorem setF_time (pg : Page) (f : Fld) (v : Nat) : (s.setF pg f v).time = s.time := rfl
@[simp] theorem setF_shadows (pg : Page) (f : Fld) (v : Nat) : (s.setF pg f v).shadows = s.shadows := rfl
@[simp] theorem setF_busy (pg : Page) (f : Fld) (v : Nat) : (s.setF pg f v).busy = s.busy := rfl
@[simp] theorem setF_out (pg : Page) (f : Fld) (v : Nat) : (s.setF pg f v).out = s.out := rfl
@[simp] theorem setF_mem (pg : Page) (f : Fld) (v : Nat) : (s.setF pg f v).mem = s.mem := rfl
@[simp] theorem setF_syn (pg : Page) (f : Fld) (v : Nat) : (s.setF pg f v).syn = s.syn := rfl
@[simp] theorem setF_held (pg : Page) (f : Fld) (v : Nat) : (s.setF pg f v).held = s.held := rfl
@[simp] theorem setF_twoViews (pg : Page) (f : Fld) (v : Nat) : (s.setF pg f v).twoViews = s.twoViews := rfl
@[simp] theorem setF_repairs (pg : Page) (f : Fld) (v : Nat) : (s.setF pg f v).repairs = s.repairs := rfl
@[simp] theorem setF_zoneCount (pg : Page) (f : Fld) (v : Nat) : (s.setF pg f v).zoneCount = s.zoneCount := rfl
@[simp] theorem setF_tpages (pg : Page) (f : Fld) (v : Nat) : (s.setF pg f v).tpages = s.tpages := rfl
@[simp] theorem setF_objInfo (pg : Page) (f : Fld) (v : Nat) : (s.setF pg f v).objInfo = s.objInfo := rfl
@[simp] theorem setF_hib (pg : Page) (f : Fld) (v : Nat) : (s.setF pg f v).hib = s.hib := rfl
@[simp] theorem setF_ports (pg : Page) (f : Fld) (v : Nat) : (s.setF pg f v).ports = s.ports := rfl
@[simp] theorem setF_tkg (pg : Page) (f : Fld) (v : Nat) : (s.setF pg f v).tkg = s.tkg := rfl
@[simp] theorem setF_fab (pg : Page) (f : Fld) (v : Nat) : (s.setF pg f v).fab = s.fab := rfl
@[simp] theorem setF_clove (pg : Page) (f : Fld) (v : Nat) : (s.setF pg f v).clove = s.clove := rfl
@[simp] theorem setF_bus (pg : Page) (f : Fld) (v : Nat) : (s.setF pg f v).bus = s.bus := rfl
@[simp] theorem setF_buNext (pg : Page) (f : Fld) (v : Nat) : (s.setF pg f v).buNext = s.buNext := rfl
@[simp] theorem setF_buSt (pg : Page) (f : Fld) (v : Nat) : (s.setF pg f v).buSt = s.buSt := rfl
@[simp] theorem setF_ustore (pg : Page) (f : Fld) (v : Nat) : (s.setF pg f v).ustore = s.ustore := rfl
@[simp] theorem setF_slices (pg : Page) (f : Fld) (v : Nat) : (s.setF pg f v).slices = s.slices := rfl
@[simp] theorem setF_ctxs (pg : Page) (f : Fld) (v : Nat) : (s.setF pg f v).ctxs = s.ctxs := rfl
@[simp] theorem setF_ctxLast (pg : Page) (f : Fld) (v : Nat) : (s.setF pg f v).ctxLast = s.ctxLast := rfl
@[simp] theorem setF_cmds (pg : Page) (f : Fld) (v : Nat) : (s.setF pg f v).cmds = s.cmds := rfl
@[simp] theorem setF_cmdNext (pg : Page) (f : Fld) (v : Nat) : (s.setF pg f v).cmdNext = s.cmdNext := rfl
@[simp] theorem setF_plv (pg : Page) (f : Fld) (v : Nat) : (s.setF pg f v).plv = s.plv := rfl
@[simp] theorem setF_lanes (pg : Page) (f : Fld) (v : Nat) : (s.setF pg f v).lanes = s.lanes := rfl
@[simp] theorem setF_grps (pg : Page) (f : Fld) (v : Nat) : (s.setF pg f v).grps = s.grps := rfl
@[simp] theorem setF_gov (pg : Page) (f : Fld) (v : Nat) : (s.setF pg f v).gov = s.gov := rfl
@[simp] theorem setF_rel (pg : Page) (f : Fld) (v : Nat) : (s.setF pg f v).rel = s.rel := rfl
@[simp] theorem setF_jtag (pg : Page) (f : Fld) (v : Nat) : (s.setF pg f v).jtag = s.jtag := rfl
@[simp] theorem setF_anyBits (pg : Page) (f : Fld) (v : Nat) : (s.setF pg f v).anyBits = s.anyBits := rfl
@[simp] theorem setF_slice (pg : Page) (f : Fld) (v : Nat) (m : Nat) : (s.setF pg f v).slice m = s.slice m := rfl
@[simp] theorem setF_cx (pg : Page) (f : Fld) (v : Nat) (m : Nat) : (s.setF pg f v).cx m = s.cx m := rfl
@[simp] theorem setF_bu (pg : Page) (f : Fld) (v : Nat) (m : Nat) : (s.setF pg f v).bu m = s.bu m := rfl
@[simp] theorem setF_lane (pg : Page) (f : Fld) (v : Nat) (m : Nat) : (s.setF pg f v).lane m = s.lane m := rfl
@[simp] theorem setF_grp (pg : Page) (f : Fld) (v : Nat) (m : Nat) : (s.setF pg f v).grp m = s.grp m := rfl

/-! ## `State.setB` changes `regs` -/

@[simp] theorem setB_pending (pg : Page) (f : Fld) (b : Bool) : (s.setB pg f b).pending = s.pending := rfl
@[simp] theorem setB_fuses (pg : Page) (f : Fld) (b : Bool) : (s.setB pg f b).fuses = s.fuses := rfl
@[simp] theorem setB_pins (pg : Page) (f : Fld) (b : Bool) : (s.setB pg f b).pins = s.pins := rfl
@[simp] theorem setB_power (pg : Page) (f : Fld) (b : Bool) : (s.setB pg f b).power = s.power := rfl
@[simp] theorem setB_time (pg : Page) (f : Fld) (b : Bool) : (s.setB pg f b).time = s.time := rfl
@[simp] theorem setB_shadows (pg : Page) (f : Fld) (b : Bool) : (s.setB pg f b).shadows = s.shadows := rfl
@[simp] theorem setB_busy (pg : Page) (f : Fld) (b : Bool) : (s.setB pg f b).busy = s.busy := rfl
@[simp] theorem setB_out (pg : Page) (f : Fld) (b : Bool) : (s.setB pg f b).out = s.out := rfl
@[simp] theorem setB_mem (pg : Page) (f : Fld) (b : Bool) : (s.setB pg f b).mem = s.mem := rfl
@[simp] theorem setB_syn (pg : Page) (f : Fld) (b : Bool) : (s.setB pg f b).syn = s.syn := rfl
@[simp] theorem setB_held (pg : Page) (f : Fld) (b : Bool) : (s.setB pg f b).held = s.held := rfl
@[simp] theorem setB_twoViews (pg : Page) (f : Fld) (b : Bool) : (s.setB pg f b).twoViews = s.twoViews := rfl
@[simp] theorem setB_repairs (pg : Page) (f : Fld) (b : Bool) : (s.setB pg f b).repairs = s.repairs := rfl
@[simp] theorem setB_zoneCount (pg : Page) (f : Fld) (b : Bool) : (s.setB pg f b).zoneCount = s.zoneCount := rfl
@[simp] theorem setB_tpages (pg : Page) (f : Fld) (b : Bool) : (s.setB pg f b).tpages = s.tpages := rfl
@[simp] theorem setB_objInfo (pg : Page) (f : Fld) (b : Bool) : (s.setB pg f b).objInfo = s.objInfo := rfl
@[simp] theorem setB_hib (pg : Page) (f : Fld) (b : Bool) : (s.setB pg f b).hib = s.hib := rfl
@[simp] theorem setB_ports (pg : Page) (f : Fld) (b : Bool) : (s.setB pg f b).ports = s.ports := rfl
@[simp] theorem setB_tkg (pg : Page) (f : Fld) (b : Bool) : (s.setB pg f b).tkg = s.tkg := rfl
@[simp] theorem setB_fab (pg : Page) (f : Fld) (b : Bool) : (s.setB pg f b).fab = s.fab := rfl
@[simp] theorem setB_clove (pg : Page) (f : Fld) (b : Bool) : (s.setB pg f b).clove = s.clove := rfl
@[simp] theorem setB_bus (pg : Page) (f : Fld) (b : Bool) : (s.setB pg f b).bus = s.bus := rfl
@[simp] theorem setB_buNext (pg : Page) (f : Fld) (b : Bool) : (s.setB pg f b).buNext = s.buNext := rfl
@[simp] theorem setB_buSt (pg : Page) (f : Fld) (b : Bool) : (s.setB pg f b).buSt = s.buSt := rfl
@[simp] theorem setB_ustore (pg : Page) (f : Fld) (b : Bool) : (s.setB pg f b).ustore = s.ustore := rfl
@[simp] theorem setB_slices (pg : Page) (f : Fld) (b : Bool) : (s.setB pg f b).slices = s.slices := rfl
@[simp] theorem setB_ctxs (pg : Page) (f : Fld) (b : Bool) : (s.setB pg f b).ctxs = s.ctxs := rfl
@[simp] theorem setB_ctxLast (pg : Page) (f : Fld) (b : Bool) : (s.setB pg f b).ctxLast = s.ctxLast := rfl
@[simp] theorem setB_cmds (pg : Page) (f : Fld) (b : Bool) : (s.setB pg f b).cmds = s.cmds := rfl
@[simp] theorem setB_cmdNext (pg : Page) (f : Fld) (b : Bool) : (s.setB pg f b).cmdNext = s.cmdNext := rfl
@[simp] theorem setB_plv (pg : Page) (f : Fld) (b : Bool) : (s.setB pg f b).plv = s.plv := rfl
@[simp] theorem setB_lanes (pg : Page) (f : Fld) (b : Bool) : (s.setB pg f b).lanes = s.lanes := rfl
@[simp] theorem setB_grps (pg : Page) (f : Fld) (b : Bool) : (s.setB pg f b).grps = s.grps := rfl
@[simp] theorem setB_gov (pg : Page) (f : Fld) (b : Bool) : (s.setB pg f b).gov = s.gov := rfl
@[simp] theorem setB_rel (pg : Page) (f : Fld) (b : Bool) : (s.setB pg f b).rel = s.rel := rfl
@[simp] theorem setB_jtag (pg : Page) (f : Fld) (b : Bool) : (s.setB pg f b).jtag = s.jtag := rfl
@[simp] theorem setB_anyBits (pg : Page) (f : Fld) (b : Bool) : (s.setB pg f b).anyBits = s.anyBits := rfl
@[simp] theorem setB_slice (pg : Page) (f : Fld) (b : Bool) (m : Nat) : (s.setB pg f b).slice m = s.slice m := rfl
@[simp] theorem setB_cx (pg : Page) (f : Fld) (b : Bool) (m : Nat) : (s.setB pg f b).cx m = s.cx m := rfl
@[simp] theorem setB_bu (pg : Page) (f : Fld) (b : Bool) (m : Nat) : (s.setB pg f b).bu m = s.bu m := rfl
@[simp] theorem setB_lane (pg : Page) (f : Fld) (b : Bool) (m : Nat) : (s.setB pg f b).lane m = s.lane m := rfl
@[simp] theorem setB_grp (pg : Page) (f : Fld) (b : Bool) (m : Nat) : (s.setB pg f b).grp m = s.grp m := rfl

/-! ## `State.bump` changes `regs` -/

@[simp] theorem bump_pending (pg : Page) (f : Fld) (n : Nat) : (s.bump pg f n).pending = s.pending := rfl
@[simp] theorem bump_fuses (pg : Page) (f : Fld) (n : Nat) : (s.bump pg f n).fuses = s.fuses := rfl
@[simp] theorem bump_pins (pg : Page) (f : Fld) (n : Nat) : (s.bump pg f n).pins = s.pins := rfl
@[simp] theorem bump_power (pg : Page) (f : Fld) (n : Nat) : (s.bump pg f n).power = s.power := rfl
@[simp] theorem bump_time (pg : Page) (f : Fld) (n : Nat) : (s.bump pg f n).time = s.time := rfl
@[simp] theorem bump_shadows (pg : Page) (f : Fld) (n : Nat) : (s.bump pg f n).shadows = s.shadows := rfl
@[simp] theorem bump_busy (pg : Page) (f : Fld) (n : Nat) : (s.bump pg f n).busy = s.busy := rfl
@[simp] theorem bump_out (pg : Page) (f : Fld) (n : Nat) : (s.bump pg f n).out = s.out := rfl
@[simp] theorem bump_mem (pg : Page) (f : Fld) (n : Nat) : (s.bump pg f n).mem = s.mem := rfl
@[simp] theorem bump_syn (pg : Page) (f : Fld) (n : Nat) : (s.bump pg f n).syn = s.syn := rfl
@[simp] theorem bump_held (pg : Page) (f : Fld) (n : Nat) : (s.bump pg f n).held = s.held := rfl
@[simp] theorem bump_twoViews (pg : Page) (f : Fld) (n : Nat) : (s.bump pg f n).twoViews = s.twoViews := rfl
@[simp] theorem bump_repairs (pg : Page) (f : Fld) (n : Nat) : (s.bump pg f n).repairs = s.repairs := rfl
@[simp] theorem bump_zoneCount (pg : Page) (f : Fld) (n : Nat) : (s.bump pg f n).zoneCount = s.zoneCount := rfl
@[simp] theorem bump_tpages (pg : Page) (f : Fld) (n : Nat) : (s.bump pg f n).tpages = s.tpages := rfl
@[simp] theorem bump_objInfo (pg : Page) (f : Fld) (n : Nat) : (s.bump pg f n).objInfo = s.objInfo := rfl
@[simp] theorem bump_hib (pg : Page) (f : Fld) (n : Nat) : (s.bump pg f n).hib = s.hib := rfl
@[simp] theorem bump_ports (pg : Page) (f : Fld) (n : Nat) : (s.bump pg f n).ports = s.ports := rfl
@[simp] theorem bump_tkg (pg : Page) (f : Fld) (n : Nat) : (s.bump pg f n).tkg = s.tkg := rfl
@[simp] theorem bump_fab (pg : Page) (f : Fld) (n : Nat) : (s.bump pg f n).fab = s.fab := rfl
@[simp] theorem bump_clove (pg : Page) (f : Fld) (n : Nat) : (s.bump pg f n).clove = s.clove := rfl
@[simp] theorem bump_bus (pg : Page) (f : Fld) (n : Nat) : (s.bump pg f n).bus = s.bus := rfl
@[simp] theorem bump_buNext (pg : Page) (f : Fld) (n : Nat) : (s.bump pg f n).buNext = s.buNext := rfl
@[simp] theorem bump_buSt (pg : Page) (f : Fld) (n : Nat) : (s.bump pg f n).buSt = s.buSt := rfl
@[simp] theorem bump_ustore (pg : Page) (f : Fld) (n : Nat) : (s.bump pg f n).ustore = s.ustore := rfl
@[simp] theorem bump_slices (pg : Page) (f : Fld) (n : Nat) : (s.bump pg f n).slices = s.slices := rfl
@[simp] theorem bump_ctxs (pg : Page) (f : Fld) (n : Nat) : (s.bump pg f n).ctxs = s.ctxs := rfl
@[simp] theorem bump_ctxLast (pg : Page) (f : Fld) (n : Nat) : (s.bump pg f n).ctxLast = s.ctxLast := rfl
@[simp] theorem bump_cmds (pg : Page) (f : Fld) (n : Nat) : (s.bump pg f n).cmds = s.cmds := rfl
@[simp] theorem bump_cmdNext (pg : Page) (f : Fld) (n : Nat) : (s.bump pg f n).cmdNext = s.cmdNext := rfl
@[simp] theorem bump_plv (pg : Page) (f : Fld) (n : Nat) : (s.bump pg f n).plv = s.plv := rfl
@[simp] theorem bump_lanes (pg : Page) (f : Fld) (n : Nat) : (s.bump pg f n).lanes = s.lanes := rfl
@[simp] theorem bump_grps (pg : Page) (f : Fld) (n : Nat) : (s.bump pg f n).grps = s.grps := rfl
@[simp] theorem bump_gov (pg : Page) (f : Fld) (n : Nat) : (s.bump pg f n).gov = s.gov := rfl
@[simp] theorem bump_rel (pg : Page) (f : Fld) (n : Nat) : (s.bump pg f n).rel = s.rel := rfl
@[simp] theorem bump_jtag (pg : Page) (f : Fld) (n : Nat) : (s.bump pg f n).jtag = s.jtag := rfl
@[simp] theorem bump_anyBits (pg : Page) (f : Fld) (n : Nat) : (s.bump pg f n).anyBits = s.anyBits := rfl
@[simp] theorem bump_slice (pg : Page) (f : Fld) (n : Nat) (m : Nat) : (s.bump pg f n).slice m = s.slice m := rfl
@[simp] theorem bump_cx (pg : Page) (f : Fld) (n : Nat) (m : Nat) : (s.bump pg f n).cx m = s.cx m := rfl
@[simp] theorem bump_bu (pg : Page) (f : Fld) (n : Nat) (m : Nat) : (s.bump pg f n).bu m = s.bu m := rfl
@[simp] theorem bump_lane (pg : Page) (f : Fld) (n : Nat) (m : Nat) : (s.bump pg f n).lane m = s.lane m := rfl
@[simp] theorem bump_grp (pg : Page) (f : Fld) (n : Nat) (m : Nat) : (s.bump pg f n).grp m = s.grp m := rfl

/-! ## `State.emit` changes `out` -/

@[simp] theorem emit_pending (o : Out) : (s.emit o).pending = s.pending := rfl
@[simp] theorem emit_fuses (o : Out) : (s.emit o).fuses = s.fuses := rfl
@[simp] theorem emit_pins (o : Out) : (s.emit o).pins = s.pins := rfl
@[simp] theorem emit_power (o : Out) : (s.emit o).power = s.power := rfl
@[simp] theorem emit_time (o : Out) : (s.emit o).time = s.time := rfl
@[simp] theorem emit_regs (o : Out) : (s.emit o).regs = s.regs := rfl
@[simp] theorem emit_shadows (o : Out) : (s.emit o).shadows = s.shadows := rfl
@[simp] theorem emit_busy (o : Out) : (s.emit o).busy = s.busy := rfl
@[simp] theorem emit_mem (o : Out) : (s.emit o).mem = s.mem := rfl
@[simp] theorem emit_syn (o : Out) : (s.emit o).syn = s.syn := rfl
@[simp] theorem emit_held (o : Out) : (s.emit o).held = s.held := rfl
@[simp] theorem emit_twoViews (o : Out) : (s.emit o).twoViews = s.twoViews := rfl
@[simp] theorem emit_repairs (o : Out) : (s.emit o).repairs = s.repairs := rfl
@[simp] theorem emit_zoneCount (o : Out) : (s.emit o).zoneCount = s.zoneCount := rfl
@[simp] theorem emit_tpages (o : Out) : (s.emit o).tpages = s.tpages := rfl
@[simp] theorem emit_objInfo (o : Out) : (s.emit o).objInfo = s.objInfo := rfl
@[simp] theorem emit_hib (o : Out) : (s.emit o).hib = s.hib := rfl
@[simp] theorem emit_ports (o : Out) : (s.emit o).ports = s.ports := rfl
@[simp] theorem emit_tkg (o : Out) : (s.emit o).tkg = s.tkg := rfl
@[simp] theorem emit_fab (o : Out) : (s.emit o).fab = s.fab := rfl
@[simp] theorem emit_clove (o : Out) : (s.emit o).clove = s.clove := rfl
@[simp] theorem emit_bus (o : Out) : (s.emit o).bus = s.bus := rfl
@[simp] theorem emit_buNext (o : Out) : (s.emit o).buNext = s.buNext := rfl
@[simp] theorem emit_buSt (o : Out) : (s.emit o).buSt = s.buSt := rfl
@[simp] theorem emit_ustore (o : Out) : (s.emit o).ustore = s.ustore := rfl
@[simp] theorem emit_slices (o : Out) : (s.emit o).slices = s.slices := rfl
@[simp] theorem emit_ctxs (o : Out) : (s.emit o).ctxs = s.ctxs := rfl
@[simp] theorem emit_ctxLast (o : Out) : (s.emit o).ctxLast = s.ctxLast := rfl
@[simp] theorem emit_cmds (o : Out) : (s.emit o).cmds = s.cmds := rfl
@[simp] theorem emit_cmdNext (o : Out) : (s.emit o).cmdNext = s.cmdNext := rfl
@[simp] theorem emit_plv (o : Out) : (s.emit o).plv = s.plv := rfl
@[simp] theorem emit_lanes (o : Out) : (s.emit o).lanes = s.lanes := rfl
@[simp] theorem emit_grps (o : Out) : (s.emit o).grps = s.grps := rfl
@[simp] theorem emit_gov (o : Out) : (s.emit o).gov = s.gov := rfl
@[simp] theorem emit_rel (o : Out) : (s.emit o).rel = s.rel := rfl
@[simp] theorem emit_jtag (o : Out) : (s.emit o).jtag = s.jtag := rfl
@[simp] theorem emit_anyBits (o : Out) : (s.emit o).anyBits = s.anyBits := rfl
@[simp] theorem emit_f (o : Out) (q : Page) (h : Fld) : (s.emit o).f q h = s.f q h := rfl
@[simp] theorem emit_on (o : Out) (q : Page) (h : Fld) : (s.emit o).on q h = s.on q h := rfl
@[simp] theorem emit_slice (o : Out) (m : Nat) : (s.emit o).slice m = s.slice m := rfl
@[simp] theorem emit_cx (o : Out) (m : Nat) : (s.emit o).cx m = s.cx m := rfl
@[simp] theorem emit_bu (o : Out) (m : Nat) : (s.emit o).bu m = s.bu m := rfl
@[simp] theorem emit_lane (o : Out) (m : Nat) : (s.emit o).lane m = s.lane m := rfl
@[simp] theorem emit_grp (o : Out) (m : Nat) : (s.emit o).grp m = s.grp m := rfl

/-! ## `State.setSlice` changes `slices` -/

@[simp] theorem setSlice_pending (n : Nat) (x : Slice) : (s.setSlice n x).pending = s.pending := rfl
@[simp] theorem setSlice_fuses (n : Nat) (x : Slice) : (s.setSlice n x).fuses = s.fuses := rfl
@[simp] theorem setSlice_pins (n : Nat) (x : Slice) : (s.setSlice n x).pins = s.pins := rfl
@[simp] theorem setSlice_power (n : Nat) (x : Slice) : (s.setSlice n x).power = s.power := rfl
@[simp] theorem setSlice_time (n : Nat) (x : Slice) : (s.setSlice n x).time = s.time := rfl
@[simp] theorem setSlice_regs (n : Nat) (x : Slice) : (s.setSlice n x).regs = s.regs := rfl
@[simp] theorem setSlice_shadows (n : Nat) (x : Slice) : (s.setSlice n x).shadows = s.shadows := rfl
@[simp] theorem setSlice_busy (n : Nat) (x : Slice) : (s.setSlice n x).busy = s.busy := rfl
@[simp] theorem setSlice_out (n : Nat) (x : Slice) : (s.setSlice n x).out = s.out := rfl
@[simp] theorem setSlice_mem (n : Nat) (x : Slice) : (s.setSlice n x).mem = s.mem := rfl
@[simp] theorem setSlice_syn (n : Nat) (x : Slice) : (s.setSlice n x).syn = s.syn := rfl
@[simp] theorem setSlice_held (n : Nat) (x : Slice) : (s.setSlice n x).held = s.held := rfl
@[simp] theorem setSlice_twoViews (n : Nat) (x : Slice) : (s.setSlice n x).twoViews = s.twoViews := rfl
@[simp] theorem setSlice_repairs (n : Nat) (x : Slice) : (s.setSlice n x).repairs = s.repairs := rfl
@[simp] theorem setSlice_zoneCount (n : Nat) (x : Slice) : (s.setSlice n x).zoneCount = s.zoneCount := rfl
@[simp] theorem setSlice_tpages (n : Nat) (x : Slice) : (s.setSlice n x).tpages = s.tpages := rfl
@[simp] theorem setSlice_objInfo (n : Nat) (x : Slice) : (s.setSlice n x).objInfo = s.objInfo := rfl
@[simp] theorem setSlice_hib (n : Nat) (x : Slice) : (s.setSlice n x).hib = s.hib := rfl
@[simp] theorem setSlice_ports (n : Nat) (x : Slice) : (s.setSlice n x).ports = s.ports := rfl
@[simp] theorem setSlice_tkg (n : Nat) (x : Slice) : (s.setSlice n x).tkg = s.tkg := rfl
@[simp] theorem setSlice_fab (n : Nat) (x : Slice) : (s.setSlice n x).fab = s.fab := rfl
@[simp] theorem setSlice_clove (n : Nat) (x : Slice) : (s.setSlice n x).clove = s.clove := rfl
@[simp] theorem setSlice_bus (n : Nat) (x : Slice) : (s.setSlice n x).bus = s.bus := rfl
@[simp] theorem setSlice_buNext (n : Nat) (x : Slice) : (s.setSlice n x).buNext = s.buNext := rfl
@[simp] theorem setSlice_buSt (n : Nat) (x : Slice) : (s.setSlice n x).buSt = s.buSt := rfl
@[simp] theorem setSlice_ustore (n : Nat) (x : Slice) : (s.setSlice n x).ustore = s.ustore := rfl
@[simp] theorem setSlice_ctxs (n : Nat) (x : Slice) : (s.setSlice n x).ctxs = s.ctxs := rfl
@[simp] theorem setSlice_ctxLast (n : Nat) (x : Slice) : (s.setSlice n x).ctxLast = s.ctxLast := rfl
@[simp] theorem setSlice_cmds (n : Nat) (x : Slice) : (s.setSlice n x).cmds = s.cmds := rfl
@[simp] theorem setSlice_cmdNext (n : Nat) (x : Slice) : (s.setSlice n x).cmdNext = s.cmdNext := rfl
@[simp] theorem setSlice_plv (n : Nat) (x : Slice) : (s.setSlice n x).plv = s.plv := rfl
@[simp] theorem setSlice_lanes (n : Nat) (x : Slice) : (s.setSlice n x).lanes = s.lanes := rfl
@[simp] theorem setSlice_grps (n : Nat) (x : Slice) : (s.setSlice n x).grps = s.grps := rfl
@[simp] theorem setSlice_gov (n : Nat) (x : Slice) : (s.setSlice n x).gov = s.gov := rfl
@[simp] theorem setSlice_rel (n : Nat) (x : Slice) : (s.setSlice n x).rel = s.rel := rfl
@[simp] theorem setSlice_jtag (n : Nat) (x : Slice) : (s.setSlice n x).jtag = s.jtag := rfl
@[simp] theorem setSlice_anyBits (n : Nat) (x : Slice) : (s.setSlice n x).anyBits = s.anyBits := rfl
@[simp] theorem setSlice_f (n : Nat) (x : Slice) (q : Page) (h : Fld) : (s.setSlice n x).f q h = s.f q h := rfl
@[simp] theorem setSlice_on (n : Nat) (x : Slice) (q : Page) (h : Fld) : (s.setSlice n x).on q h = s.on q h := rfl
@[simp] theorem setSlice_cx (n : Nat) (x : Slice) (m : Nat) : (s.setSlice n x).cx m = s.cx m := rfl
@[simp] theorem setSlice_bu (n : Nat) (x : Slice) (m : Nat) : (s.setSlice n x).bu m = s.bu m := rfl
@[simp] theorem setSlice_lane (n : Nat) (x : Slice) (m : Nat) : (s.setSlice n x).lane m = s.lane m := rfl
@[simp] theorem setSlice_grp (n : Nat) (x : Slice) (m : Nat) : (s.setSlice n x).grp m = s.grp m := rfl

/-! ## `State.modSlice` changes `slices` -/

@[simp] theorem modSlice_pending (n : Nat) (g : Slice → Slice) : (s.modSlice n g).pending = s.pending := rfl
@[simp] theorem modSlice_fuses (n : Nat) (g : Slice → Slice) : (s.modSlice n g).fuses = s.fuses := rfl
@[simp] theorem modSlice_pins (n : Nat) (g : Slice → Slice) : (s.modSlice n g).pins = s.pins := rfl
@[simp] theorem modSlice_power (n : Nat) (g : Slice → Slice) : (s.modSlice n g).power = s.power := rfl
@[simp] theorem modSlice_time (n : Nat) (g : Slice → Slice) : (s.modSlice n g).time = s.time := rfl
@[simp] theorem modSlice_regs (n : Nat) (g : Slice → Slice) : (s.modSlice n g).regs = s.regs := rfl
@[simp] theorem modSlice_shadows (n : Nat) (g : Slice → Slice) : (s.modSlice n g).shadows = s.shadows := rfl
@[simp] theorem modSlice_busy (n : Nat) (g : Slice → Slice) : (s.modSlice n g).busy = s.busy := rfl
@[simp] theorem modSlice_out (n : Nat) (g : Slice → Slice) : (s.modSlice n g).out = s.out := rfl
@[simp] theorem modSlice_mem (n : Nat) (g : Slice → Slice) : (s.modSlice n g).mem = s.mem := rfl
@[simp] theorem modSlice_syn (n : Nat) (g : Slice → Slice) : (s.modSlice n g).syn = s.syn := rfl
@[simp] theorem modSlice_held (n : Nat) (g : Slice → Slice) : (s.modSlice n g).held = s.held := rfl
@[simp] theorem modSlice_twoViews (n : Nat) (g : Slice → Slice) : (s.modSlice n g).twoViews = s.twoViews := rfl
@[simp] theorem modSlice_repairs (n : Nat) (g : Slice → Slice) : (s.modSlice n g).repairs = s.repairs := rfl
@[simp] theorem modSlice_zoneCount (n : Nat) (g : Slice → Slice) : (s.modSlice n g).zoneCount = s.zoneCount := rfl
@[simp] theorem modSlice_tpages (n : Nat) (g : Slice → Slice) : (s.modSlice n g).tpages = s.tpages := rfl
@[simp] theorem modSlice_objInfo (n : Nat) (g : Slice → Slice) : (s.modSlice n g).objInfo = s.objInfo := rfl
@[simp] theorem modSlice_hib (n : Nat) (g : Slice → Slice) : (s.modSlice n g).hib = s.hib := rfl
@[simp] theorem modSlice_ports (n : Nat) (g : Slice → Slice) : (s.modSlice n g).ports = s.ports := rfl
@[simp] theorem modSlice_tkg (n : Nat) (g : Slice → Slice) : (s.modSlice n g).tkg = s.tkg := rfl
@[simp] theorem modSlice_fab (n : Nat) (g : Slice → Slice) : (s.modSlice n g).fab = s.fab := rfl
@[simp] theorem modSlice_clove (n : Nat) (g : Slice → Slice) : (s.modSlice n g).clove = s.clove := rfl
@[simp] theorem modSlice_bus (n : Nat) (g : Slice → Slice) : (s.modSlice n g).bus = s.bus := rfl
@[simp] theorem modSlice_buNext (n : Nat) (g : Slice → Slice) : (s.modSlice n g).buNext = s.buNext := rfl
@[simp] theorem modSlice_buSt (n : Nat) (g : Slice → Slice) : (s.modSlice n g).buSt = s.buSt := rfl
@[simp] theorem modSlice_ustore (n : Nat) (g : Slice → Slice) : (s.modSlice n g).ustore = s.ustore := rfl
@[simp] theorem modSlice_ctxs (n : Nat) (g : Slice → Slice) : (s.modSlice n g).ctxs = s.ctxs := rfl
@[simp] theorem modSlice_ctxLast (n : Nat) (g : Slice → Slice) : (s.modSlice n g).ctxLast = s.ctxLast := rfl
@[simp] theorem modSlice_cmds (n : Nat) (g : Slice → Slice) : (s.modSlice n g).cmds = s.cmds := rfl
@[simp] theorem modSlice_cmdNext (n : Nat) (g : Slice → Slice) : (s.modSlice n g).cmdNext = s.cmdNext := rfl
@[simp] theorem modSlice_plv (n : Nat) (g : Slice → Slice) : (s.modSlice n g).plv = s.plv := rfl
@[simp] theorem modSlice_lanes (n : Nat) (g : Slice → Slice) : (s.modSlice n g).lanes = s.lanes := rfl
@[simp] theorem modSlice_grps (n : Nat) (g : Slice → Slice) : (s.modSlice n g).grps = s.grps := rfl
@[simp] theorem modSlice_gov (n : Nat) (g : Slice → Slice) : (s.modSlice n g).gov = s.gov := rfl
@[simp] theorem modSlice_rel (n : Nat) (g : Slice → Slice) : (s.modSlice n g).rel = s.rel := rfl
@[simp] theorem modSlice_jtag (n : Nat) (g : Slice → Slice) : (s.modSlice n g).jtag = s.jtag := rfl
@[simp] theorem modSlice_anyBits (n : Nat) (g : Slice → Slice) : (s.modSlice n g).anyBits = s.anyBits := rfl
@[simp] theorem modSlice_f (n : Nat) (g : Slice → Slice) (q : Page) (h : Fld) : (s.modSlice n g).f q h = s.f q h := rfl
@[simp] theorem modSlice_on (n : Nat) (g : Slice → Slice) (q : Page) (h : Fld) : (s.modSlice n g).on q h = s.on q h := rfl
@[simp] theorem modSlice_cx (n : Nat) (g : Slice → Slice) (m : Nat) : (s.modSlice n g).cx m = s.cx m := rfl
@[simp] theorem modSlice_bu (n : Nat) (g : Slice → Slice) (m : Nat) : (s.modSlice n g).bu m = s.bu m := rfl
@[simp] theorem modSlice_lane (n : Nat) (g : Slice → Slice) (m : Nat) : (s.modSlice n g).lane m = s.lane m := rfl
@[simp] theorem modSlice_grp (n : Nat) (g : Slice → Slice) (m : Nat) : (s.modSlice n g).grp m = s.grp m := rfl

/-! ## `State.setCx` changes `ctxs` -/

@[simp] theorem setCx_pending (c : Nat) (x : Ctx) : (s.setCx c x).pending = s.pending := rfl
@[simp] theorem setCx_fuses (c : Nat) (x : Ctx) : (s.setCx c x).fuses = s.fuses := rfl
@[simp] theorem setCx_pins (c : Nat) (x : Ctx) : (s.setCx c x).pins = s.pins := rfl
@[simp] theorem setCx_power (c : Nat) (x : Ctx) : (s.setCx c x).power = s.power := rfl
@[simp] theorem setCx_time (c : Nat) (x : Ctx) : (s.setCx c x).time = s.time := rfl
@[simp] theorem setCx_regs (c : Nat) (x : Ctx) : (s.setCx c x).regs = s.regs := rfl
@[simp] theorem setCx_shadows (c : Nat) (x : Ctx) : (s.setCx c x).shadows = s.shadows := rfl
@[simp] theorem setCx_busy (c : Nat) (x : Ctx) : (s.setCx c x).busy = s.busy := rfl
@[simp] theorem setCx_out (c : Nat) (x : Ctx) : (s.setCx c x).out = s.out := rfl
@[simp] theorem setCx_mem (c : Nat) (x : Ctx) : (s.setCx c x).mem = s.mem := rfl
@[simp] theorem setCx_syn (c : Nat) (x : Ctx) : (s.setCx c x).syn = s.syn := rfl
@[simp] theorem setCx_held (c : Nat) (x : Ctx) : (s.setCx c x).held = s.held := rfl
@[simp] theorem setCx_twoViews (c : Nat) (x : Ctx) : (s.setCx c x).twoViews = s.twoViews := rfl
@[simp] theorem setCx_repairs (c : Nat) (x : Ctx) : (s.setCx c x).repairs = s.repairs := rfl
@[simp] theorem setCx_zoneCount (c : Nat) (x : Ctx) : (s.setCx c x).zoneCount = s.zoneCount := rfl
@[simp] theorem setCx_tpages (c : Nat) (x : Ctx) : (s.setCx c x).tpages = s.tpages := rfl
@[simp] theorem setCx_objInfo (c : Nat) (x : Ctx) : (s.setCx c x).objInfo = s.objInfo := rfl
@[simp] theorem setCx_hib (c : Nat) (x : Ctx) : (s.setCx c x).hib = s.hib := rfl
@[simp] theorem setCx_ports (c : Nat) (x : Ctx) : (s.setCx c x).ports = s.ports := rfl
@[simp] theorem setCx_tkg (c : Nat) (x : Ctx) : (s.setCx c x).tkg = s.tkg := rfl
@[simp] theorem setCx_fab (c : Nat) (x : Ctx) : (s.setCx c x).fab = s.fab := rfl
@[simp] theorem setCx_clove (c : Nat) (x : Ctx) : (s.setCx c x).clove = s.clove := rfl
@[simp] theorem setCx_bus (c : Nat) (x : Ctx) : (s.setCx c x).bus = s.bus := rfl
@[simp] theorem setCx_buNext (c : Nat) (x : Ctx) : (s.setCx c x).buNext = s.buNext := rfl
@[simp] theorem setCx_buSt (c : Nat) (x : Ctx) : (s.setCx c x).buSt = s.buSt := rfl
@[simp] theorem setCx_ustore (c : Nat) (x : Ctx) : (s.setCx c x).ustore = s.ustore := rfl
@[simp] theorem setCx_slices (c : Nat) (x : Ctx) : (s.setCx c x).slices = s.slices := rfl
@[simp] theorem setCx_ctxLast (c : Nat) (x : Ctx) : (s.setCx c x).ctxLast = s.ctxLast := rfl
@[simp] theorem setCx_cmds (c : Nat) (x : Ctx) : (s.setCx c x).cmds = s.cmds := rfl
@[simp] theorem setCx_cmdNext (c : Nat) (x : Ctx) : (s.setCx c x).cmdNext = s.cmdNext := rfl
@[simp] theorem setCx_plv (c : Nat) (x : Ctx) : (s.setCx c x).plv = s.plv := rfl
@[simp] theorem setCx_lanes (c : Nat) (x : Ctx) : (s.setCx c x).lanes = s.lanes := rfl
@[simp] theorem setCx_grps (c : Nat) (x : Ctx) : (s.setCx c x).grps = s.grps := rfl
@[simp] theorem setCx_gov (c : Nat) (x : Ctx) : (s.setCx c x).gov = s.gov := rfl
@[simp] theorem setCx_rel (c : Nat) (x : Ctx) : (s.setCx c x).rel = s.rel := rfl
@[simp] theorem setCx_jtag (c : Nat) (x : Ctx) : (s.setCx c x).jtag = s.jtag := rfl
@[simp] theorem setCx_anyBits (c : Nat) (x : Ctx) : (s.setCx c x).anyBits = s.anyBits := rfl
@[simp] theorem setCx_f (c : Nat) (x : Ctx) (q : Page) (h : Fld) : (s.setCx c x).f q h = s.f q h := rfl
@[simp] theorem setCx_on (c : Nat) (x : Ctx) (q : Page) (h : Fld) : (s.setCx c x).on q h = s.on q h := rfl
@[simp] theorem setCx_slice (c : Nat) (x : Ctx) (m : Nat) : (s.setCx c x).slice m = s.slice m := rfl
@[simp] theorem setCx_bu (c : Nat) (x : Ctx) (m : Nat) : (s.setCx c x).bu m = s.bu m := rfl
@[simp] theorem setCx_lane (c : Nat) (x : Ctx) (m : Nat) : (s.setCx c x).lane m = s.lane m := rfl
@[simp] theorem setCx_grp (c : Nat) (x : Ctx) (m : Nat) : (s.setCx c x).grp m = s.grp m := rfl

/-! ## `State.modCx` changes `ctxs` -/

@[simp] theorem modCx_pending (c : Nat) (g : Ctx → Ctx) : (s.modCx c g).pending = s.pending := rfl
@[simp] theorem modCx_fuses (c : Nat) (g : Ctx → Ctx) : (s.modCx c g).fuses = s.fuses := rfl
@[simp] theorem modCx_pins (c : Nat) (g : Ctx → Ctx) : (s.modCx c g).pins = s.pins := rfl
@[simp] theorem modCx_power (c : Nat) (g : Ctx → Ctx) : (s.modCx c g).power = s.power := rfl
@[simp] theorem modCx_time (c : Nat) (g : Ctx → Ctx) : (s.modCx c g).time = s.time := rfl
@[simp] theorem modCx_regs (c : Nat) (g : Ctx → Ctx) : (s.modCx c g).regs = s.regs := rfl
@[simp] theorem modCx_shadows (c : Nat) (g : Ctx → Ctx) : (s.modCx c g).shadows = s.shadows := rfl
@[simp] theorem modCx_busy (c : Nat) (g : Ctx → Ctx) : (s.modCx c g).busy = s.busy := rfl
@[simp] theorem modCx_out (c : Nat) (g : Ctx → Ctx) : (s.modCx c g).out = s.out := rfl
@[simp] theorem modCx_mem (c : Nat) (g : Ctx → Ctx) : (s.modCx c g).mem = s.mem := rfl
@[simp] theorem modCx_syn (c : Nat) (g : Ctx → Ctx) : (s.modCx c g).syn = s.syn := rfl
@[simp] theorem modCx_held (c : Nat) (g : Ctx → Ctx) : (s.modCx c g).held = s.held := rfl
@[simp] theorem modCx_twoViews (c : Nat) (g : Ctx → Ctx) : (s.modCx c g).twoViews = s.twoViews := rfl
@[simp] theorem modCx_repairs (c : Nat) (g : Ctx → Ctx) : (s.modCx c g).repairs = s.repairs := rfl
@[simp] theorem modCx_zoneCount (c : Nat) (g : Ctx → Ctx) : (s.modCx c g).zoneCount = s.zoneCount := rfl
@[simp] theorem modCx_tpages (c : Nat) (g : Ctx → Ctx) : (s.modCx c g).tpages = s.tpages := rfl
@[simp] theorem modCx_objInfo (c : Nat) (g : Ctx → Ctx) : (s.modCx c g).objInfo = s.objInfo := rfl
@[simp] theorem modCx_hib (c : Nat) (g : Ctx → Ctx) : (s.modCx c g).hib = s.hib := rfl
@[simp] theorem modCx_ports (c : Nat) (g : Ctx → Ctx) : (s.modCx c g).ports = s.ports := rfl
@[simp] theorem modCx_tkg (c : Nat) (g : Ctx → Ctx) : (s.modCx c g).tkg = s.tkg := rfl
@[simp] theorem modCx_fab (c : Nat) (g : Ctx → Ctx) : (s.modCx c g).fab = s.fab := rfl
@[simp] theorem modCx_clove (c : Nat) (g : Ctx → Ctx) : (s.modCx c g).clove = s.clove := rfl
@[simp] theorem modCx_bus (c : Nat) (g : Ctx → Ctx) : (s.modCx c g).bus = s.bus := rfl
@[simp] theorem modCx_buNext (c : Nat) (g : Ctx → Ctx) : (s.modCx c g).buNext = s.buNext := rfl
@[simp] theorem modCx_buSt (c : Nat) (g : Ctx → Ctx) : (s.modCx c g).buSt = s.buSt := rfl
@[simp] theorem modCx_ustore (c : Nat) (g : Ctx → Ctx) : (s.modCx c g).ustore = s.ustore := rfl
@[simp] theorem modCx_slices (c : Nat) (g : Ctx → Ctx) : (s.modCx c g).slices = s.slices := rfl
@[simp] theorem modCx_ctxLast (c : Nat) (g : Ctx → Ctx) : (s.modCx c g).ctxLast = s.ctxLast := rfl
@[simp] theorem modCx_cmds (c : Nat) (g : Ctx → Ctx) : (s.modCx c g).cmds = s.cmds := rfl
@[simp] theorem modCx_cmdNext (c : Nat) (g : Ctx → Ctx) : (s.modCx c g).cmdNext = s.cmdNext := rfl
@[simp] theorem modCx_plv (c : Nat) (g : Ctx → Ctx) : (s.modCx c g).plv = s.plv := rfl
@[simp] theorem modCx_lanes (c : Nat) (g : Ctx → Ctx) : (s.modCx c g).lanes = s.lanes := rfl
@[simp] theorem modCx_grps (c : Nat) (g : Ctx → Ctx) : (s.modCx c g).grps = s.grps := rfl
@[simp] theorem modCx_gov (c : Nat) (g : Ctx → Ctx) : (s.modCx c g).gov = s.gov := rfl
@[simp] theorem modCx_rel (c : Nat) (g : Ctx → Ctx) : (s.modCx c g).rel = s.rel := rfl
@[simp] theorem modCx_jtag (c : Nat) (g : Ctx → Ctx) : (s.modCx c g).jtag = s.jtag := rfl
@[simp] theorem modCx_anyBits (c : Nat) (g : Ctx → Ctx) : (s.modCx c g).anyBits = s.anyBits := rfl
@[simp] theorem modCx_f (c : Nat) (g : Ctx → Ctx) (q : Page) (h : Fld) : (s.modCx c g).f q h = s.f q h := rfl
@[simp] theorem modCx_on (c : Nat) (g : Ctx → Ctx) (q : Page) (h : Fld) : (s.modCx c g).on q h = s.on q h := rfl
@[simp] theorem modCx_slice (c : Nat) (g : Ctx → Ctx) (m : Nat) : (s.modCx c g).slice m = s.slice m := rfl
@[simp] theorem modCx_bu (c : Nat) (g : Ctx → Ctx) (m : Nat) : (s.modCx c g).bu m = s.bu m := rfl
@[simp] theorem modCx_lane (c : Nat) (g : Ctx → Ctx) (m : Nat) : (s.modCx c g).lane m = s.lane m := rfl
@[simp] theorem modCx_grp (c : Nat) (g : Ctx → Ctx) (m : Nat) : (s.modCx c g).grp m = s.grp m := rfl

/-! ## `State.setBu` changes `buSt` -/

@[simp] theorem setBu_pending (k : Nat) (b : BuState) : (s.setBu k b).pending = s.pending := rfl
@[simp] theorem setBu_fuses (k : Nat) (b : BuState) : (s.setBu k b).fuses = s.fuses := rfl
@[simp] theorem setBu_pins (k : Nat) (b : BuState) : (s.setBu k b).pins = s.pins := rfl
@[simp] theorem setBu_power (k : Nat) (b : BuState) : (s.setBu k b).power = s.power := rfl
@[simp] theorem setBu_time (k : Nat) (b : BuState) : (s.setBu k b).time = s.time := rfl
@[simp] theorem setBu_regs (k : Nat) (b : BuState) : (s.setBu k b).regs = s.regs := rfl
@[simp] theorem setBu_shadows (k : Nat) (b : BuState) : (s.setBu k b).shadows = s.shadows := rfl
@[simp] theorem setBu_busy (k : Nat) (b : BuState) : (s.setBu k b).busy = s.busy := rfl
@[simp] theorem setBu_out (k : Nat) (b : BuState) : (s.setBu k b).out = s.out := rfl
@[simp] theorem setBu_mem (k : Nat) (b : BuState) : (s.setBu k b).mem = s.mem := rfl
@[simp] theorem setBu_syn (k : Nat) (b : BuState) : (s.setBu k b).syn = s.syn := rfl
@[simp] theorem setBu_held (k : Nat) (b : BuState) : (s.setBu k b).held = s.held := rfl
@[simp] theorem setBu_twoViews (k : Nat) (b : BuState) : (s.setBu k b).twoViews = s.twoViews := rfl
@[simp] theorem setBu_repairs (k : Nat) (b : BuState) : (s.setBu k b).repairs = s.repairs := rfl
@[simp] theorem setBu_zoneCount (k : Nat) (b : BuState) : (s.setBu k b).zoneCount = s.zoneCount := rfl
@[simp] theorem setBu_tpages (k : Nat) (b : BuState) : (s.setBu k b).tpages = s.tpages := rfl
@[simp] theorem setBu_objInfo (k : Nat) (b : BuState) : (s.setBu k b).objInfo = s.objInfo := rfl
@[simp] theorem setBu_hib (k : Nat) (b : BuState) : (s.setBu k b).hib = s.hib := rfl
@[simp] theorem setBu_ports (k : Nat) (b : BuState) : (s.setBu k b).ports = s.ports := rfl
@[simp] theorem setBu_tkg (k : Nat) (b : BuState) : (s.setBu k b).tkg = s.tkg := rfl
@[simp] theorem setBu_fab (k : Nat) (b : BuState) : (s.setBu k b).fab = s.fab := rfl
@[simp] theorem setBu_clove (k : Nat) (b : BuState) : (s.setBu k b).clove = s.clove := rfl
@[simp] theorem setBu_bus (k : Nat) (b : BuState) : (s.setBu k b).bus = s.bus := rfl
@[simp] theorem setBu_buNext (k : Nat) (b : BuState) : (s.setBu k b).buNext = s.buNext := rfl
@[simp] theorem setBu_ustore (k : Nat) (b : BuState) : (s.setBu k b).ustore = s.ustore := rfl
@[simp] theorem setBu_slices (k : Nat) (b : BuState) : (s.setBu k b).slices = s.slices := rfl
@[simp] theorem setBu_ctxs (k : Nat) (b : BuState) : (s.setBu k b).ctxs = s.ctxs := rfl
@[simp] theorem setBu_ctxLast (k : Nat) (b : BuState) : (s.setBu k b).ctxLast = s.ctxLast := rfl
@[simp] theorem setBu_cmds (k : Nat) (b : BuState) : (s.setBu k b).cmds = s.cmds := rfl
@[simp] theorem setBu_cmdNext (k : Nat) (b : BuState) : (s.setBu k b).cmdNext = s.cmdNext := rfl
@[simp] theorem setBu_plv (k : Nat) (b : BuState) : (s.setBu k b).plv = s.plv := rfl
@[simp] theorem setBu_lanes (k : Nat) (b : BuState) : (s.setBu k b).lanes = s.lanes := rfl
@[simp] theorem setBu_grps (k : Nat) (b : BuState) : (s.setBu k b).grps = s.grps := rfl
@[simp] theorem setBu_gov (k : Nat) (b : BuState) : (s.setBu k b).gov = s.gov := rfl
@[simp] theorem setBu_rel (k : Nat) (b : BuState) : (s.setBu k b).rel = s.rel := rfl
@[simp] theorem setBu_jtag (k : Nat) (b : BuState) : (s.setBu k b).jtag = s.jtag := rfl
@[simp] theorem setBu_anyBits (k : Nat) (b : BuState) : (s.setBu k b).anyBits = s.anyBits := rfl
@[simp] theorem setBu_f (k : Nat) (b : BuState) (q : Page) (h : Fld) : (s.setBu k b).f q h = s.f q h := rfl
@[simp] theorem setBu_on (k : Nat) (b : BuState) (q : Page) (h : Fld) : (s.setBu k b).on q h = s.on q h := rfl
@[simp] theorem setBu_slice (k : Nat) (b : BuState) (m : Nat) : (s.setBu k b).slice m = s.slice m := rfl
@[simp] theorem setBu_cx (k : Nat) (b : BuState) (m : Nat) : (s.setBu k b).cx m = s.cx m := rfl
@[simp] theorem setBu_lane (k : Nat) (b : BuState) (m : Nat) : (s.setBu k b).lane m = s.lane m := rfl
@[simp] theorem setBu_grp (k : Nat) (b : BuState) (m : Nat) : (s.setBu k b).grp m = s.grp m := rfl

/-! ## `State.modBu` changes `buSt` -/

@[simp] theorem modBu_pending (k : Nat) (g : BuState → BuState) : (s.modBu k g).pending = s.pending := rfl
@[simp] theorem modBu_fuses (k : Nat) (g : BuState → BuState) : (s.modBu k g).fuses = s.fuses := rfl
@[simp] theorem modBu_pins (k : Nat) (g : BuState → BuState) : (s.modBu k g).pins = s.pins := rfl
@[simp] theorem modBu_power (k : Nat) (g : BuState → BuState) : (s.modBu k g).power = s.power := rfl
@[simp] theorem modBu_time (k : Nat) (g : BuState → BuState) : (s.modBu k g).time = s.time := rfl
@[simp] theorem modBu_regs (k : Nat) (g : BuState → BuState) : (s.modBu k g).regs = s.regs := rfl
@[simp] theorem modBu_shadows (k : Nat) (g : BuState → BuState) : (s.modBu k g).shadows = s.shadows := rfl
@[simp] theorem modBu_busy (k : Nat) (g : BuState → BuState) : (s.modBu k g).busy = s.busy := rfl
@[simp] theorem modBu_out (k : Nat) (g : BuState → BuState) : (s.modBu k g).out = s.out := rfl
@[simp] theorem modBu_mem (k : Nat) (g : BuState → BuState) : (s.modBu k g).mem = s.mem := rfl
@[simp] theorem modBu_syn (k : Nat) (g : BuState → BuState) : (s.modBu k g).syn = s.syn := rfl
@[simp] theorem modBu_held (k : Nat) (g : BuState → BuState) : (s.modBu k g).held = s.held := rfl
@[simp] theorem modBu_twoViews (k : Nat) (g : BuState → BuState) : (s.modBu k g).twoViews = s.twoViews := rfl
@[simp] theorem modBu_repairs (k : Nat) (g : BuState → BuState) : (s.modBu k g).repairs = s.repairs := rfl
@[simp] theorem modBu_zoneCount (k : Nat) (g : BuState → BuState) : (s.modBu k g).zoneCount = s.zoneCount := rfl
@[simp] theorem modBu_tpages (k : Nat) (g : BuState → BuState) : (s.modBu k g).tpages = s.tpages := rfl
@[simp] theorem modBu_objInfo (k : Nat) (g : BuState → BuState) : (s.modBu k g).objInfo = s.objInfo := rfl
@[simp] theorem modBu_hib (k : Nat) (g : BuState → BuState) : (s.modBu k g).hib = s.hib := rfl
@[simp] theorem modBu_ports (k : Nat) (g : BuState → BuState) : (s.modBu k g).ports = s.ports := rfl
@[simp] theorem modBu_tkg (k : Nat) (g : BuState → BuState) : (s.modBu k g).tkg = s.tkg := rfl
@[simp] theorem modBu_fab (k : Nat) (g : BuState → BuState) : (s.modBu k g).fab = s.fab := rfl
@[simp] theorem modBu_clove (k : Nat) (g : BuState → BuState) : (s.modBu k g).clove = s.clove := rfl
@[simp] theorem modBu_bus (k : Nat) (g : BuState → BuState) : (s.modBu k g).bus = s.bus := rfl
@[simp] theorem modBu_buNext (k : Nat) (g : BuState → BuState) : (s.modBu k g).buNext = s.buNext := rfl
@[simp] theorem modBu_ustore (k : Nat) (g : BuState → BuState) : (s.modBu k g).ustore = s.ustore := rfl
@[simp] theorem modBu_slices (k : Nat) (g : BuState → BuState) : (s.modBu k g).slices = s.slices := rfl
@[simp] theorem modBu_ctxs (k : Nat) (g : BuState → BuState) : (s.modBu k g).ctxs = s.ctxs := rfl
@[simp] theorem modBu_ctxLast (k : Nat) (g : BuState → BuState) : (s.modBu k g).ctxLast = s.ctxLast := rfl
@[simp] theorem modBu_cmds (k : Nat) (g : BuState → BuState) : (s.modBu k g).cmds = s.cmds := rfl
@[simp] theorem modBu_cmdNext (k : Nat) (g : BuState → BuState) : (s.modBu k g).cmdNext = s.cmdNext := rfl
@[simp] theorem modBu_plv (k : Nat) (g : BuState → BuState) : (s.modBu k g).plv = s.plv := rfl
@[simp] theorem modBu_lanes (k : Nat) (g : BuState → BuState) : (s.modBu k g).lanes = s.lanes := rfl
@[simp] theorem modBu_grps (k : Nat) (g : BuState → BuState) : (s.modBu k g).grps = s.grps := rfl
@[simp] theorem modBu_gov (k : Nat) (g : BuState → BuState) : (s.modBu k g).gov = s.gov := rfl
@[simp] theorem modBu_rel (k : Nat) (g : BuState → BuState) : (s.modBu k g).rel = s.rel := rfl
@[simp] theorem modBu_jtag (k : Nat) (g : BuState → BuState) : (s.modBu k g).jtag = s.jtag := rfl
@[simp] theorem modBu_anyBits (k : Nat) (g : BuState → BuState) : (s.modBu k g).anyBits = s.anyBits := rfl
@[simp] theorem modBu_f (k : Nat) (g : BuState → BuState) (q : Page) (h : Fld) : (s.modBu k g).f q h = s.f q h := rfl
@[simp] theorem modBu_on (k : Nat) (g : BuState → BuState) (q : Page) (h : Fld) : (s.modBu k g).on q h = s.on q h := rfl
@[simp] theorem modBu_slice (k : Nat) (g : BuState → BuState) (m : Nat) : (s.modBu k g).slice m = s.slice m := rfl
@[simp] theorem modBu_cx (k : Nat) (g : BuState → BuState) (m : Nat) : (s.modBu k g).cx m = s.cx m := rfl
@[simp] theorem modBu_lane (k : Nat) (g : BuState → BuState) (m : Nat) : (s.modBu k g).lane m = s.lane m := rfl
@[simp] theorem modBu_grp (k : Nat) (g : BuState → BuState) (m : Nat) : (s.modBu k g).grp m = s.grp m := rfl

/-! ## `State.modLane` changes `lanes` -/

@[simp] theorem modLane_pending (l : Nat) (g : Lane → Lane) : (s.modLane l g).pending = s.pending := rfl
@[simp] theorem modLane_fuses (l : Nat) (g : Lane → Lane) : (s.modLane l g).fuses = s.fuses := rfl
@[simp] theorem modLane_pins (l : Nat) (g : Lane → Lane) : (s.modLane l g).pins = s.pins := rfl
@[simp] theorem modLane_power (l : Nat) (g : Lane → Lane) : (s.modLane l g).power = s.power := rfl
@[simp] theorem modLane_time (l : Nat) (g : Lane → Lane) : (s.modLane l g).time = s.time := rfl
@[simp] theorem modLane_regs (l : Nat) (g : Lane → Lane) : (s.modLane l g).regs = s.regs := rfl
@[simp] theorem modLane_shadows (l : Nat) (g : Lane → Lane) : (s.modLane l g).shadows = s.shadows := rfl
@[simp] theorem modLane_busy (l : Nat) (g : Lane → Lane) : (s.modLane l g).busy = s.busy := rfl
@[simp] theorem modLane_out (l : Nat) (g : Lane → Lane) : (s.modLane l g).out = s.out := rfl
@[simp] theorem modLane_mem (l : Nat) (g : Lane → Lane) : (s.modLane l g).mem = s.mem := rfl
@[simp] theorem modLane_syn (l : Nat) (g : Lane → Lane) : (s.modLane l g).syn = s.syn := rfl
@[simp] theorem modLane_held (l : Nat) (g : Lane → Lane) : (s.modLane l g).held = s.held := rfl
@[simp] theorem modLane_twoViews (l : Nat) (g : Lane → Lane) : (s.modLane l g).twoViews = s.twoViews := rfl
@[simp] theorem modLane_repairs (l : Nat) (g : Lane → Lane) : (s.modLane l g).repairs = s.repairs := rfl
@[simp] theorem modLane_zoneCount (l : Nat) (g : Lane → Lane) : (s.modLane l g).zoneCount = s.zoneCount := rfl
@[simp] theorem modLane_tpages (l : Nat) (g : Lane → Lane) : (s.modLane l g).tpages = s.tpages := rfl
@[simp] theorem modLane_objInfo (l : Nat) (g : Lane → Lane) : (s.modLane l g).objInfo = s.objInfo := rfl
@[simp] theorem modLane_hib (l : Nat) (g : Lane → Lane) : (s.modLane l g).hib = s.hib := rfl
@[simp] theorem modLane_ports (l : Nat) (g : Lane → Lane) : (s.modLane l g).ports = s.ports := rfl
@[simp] theorem modLane_tkg (l : Nat) (g : Lane → Lane) : (s.modLane l g).tkg = s.tkg := rfl
@[simp] theorem modLane_fab (l : Nat) (g : Lane → Lane) : (s.modLane l g).fab = s.fab := rfl
@[simp] theorem modLane_clove (l : Nat) (g : Lane → Lane) : (s.modLane l g).clove = s.clove := rfl
@[simp] theorem modLane_bus (l : Nat) (g : Lane → Lane) : (s.modLane l g).bus = s.bus := rfl
@[simp] theorem modLane_buNext (l : Nat) (g : Lane → Lane) : (s.modLane l g).buNext = s.buNext := rfl
@[simp] theorem modLane_buSt (l : Nat) (g : Lane → Lane) : (s.modLane l g).buSt = s.buSt := rfl
@[simp] theorem modLane_ustore (l : Nat) (g : Lane → Lane) : (s.modLane l g).ustore = s.ustore := rfl
@[simp] theorem modLane_slices (l : Nat) (g : Lane → Lane) : (s.modLane l g).slices = s.slices := rfl
@[simp] theorem modLane_ctxs (l : Nat) (g : Lane → Lane) : (s.modLane l g).ctxs = s.ctxs := rfl
@[simp] theorem modLane_ctxLast (l : Nat) (g : Lane → Lane) : (s.modLane l g).ctxLast = s.ctxLast := rfl
@[simp] theorem modLane_cmds (l : Nat) (g : Lane → Lane) : (s.modLane l g).cmds = s.cmds := rfl
@[simp] theorem modLane_cmdNext (l : Nat) (g : Lane → Lane) : (s.modLane l g).cmdNext = s.cmdNext := rfl
@[simp] theorem modLane_plv (l : Nat) (g : Lane → Lane) : (s.modLane l g).plv = s.plv := rfl
@[simp] theorem modLane_grps (l : Nat) (g : Lane → Lane) : (s.modLane l g).grps = s.grps := rfl
@[simp] theorem modLane_gov (l : Nat) (g : Lane → Lane) : (s.modLane l g).gov = s.gov := rfl
@[simp] theorem modLane_rel (l : Nat) (g : Lane → Lane) : (s.modLane l g).rel = s.rel := rfl
@[simp] theorem modLane_jtag (l : Nat) (g : Lane → Lane) : (s.modLane l g).jtag = s.jtag := rfl
@[simp] theorem modLane_anyBits (l : Nat) (g : Lane → Lane) : (s.modLane l g).anyBits = s.anyBits := rfl
@[simp] theorem modLane_f (l : Nat) (g : Lane → Lane) (q : Page) (h : Fld) : (s.modLane l g).f q h = s.f q h := rfl
@[simp] theorem modLane_on (l : Nat) (g : Lane → Lane) (q : Page) (h : Fld) : (s.modLane l g).on q h = s.on q h := rfl
@[simp] theorem modLane_slice (l : Nat) (g : Lane → Lane) (m : Nat) : (s.modLane l g).slice m = s.slice m := rfl
@[simp] theorem modLane_cx (l : Nat) (g : Lane → Lane) (m : Nat) : (s.modLane l g).cx m = s.cx m := rfl
@[simp] theorem modLane_bu (l : Nat) (g : Lane → Lane) (m : Nat) : (s.modLane l g).bu m = s.bu m := rfl
@[simp] theorem modLane_grp (l : Nat) (g : Lane → Lane) (m : Nat) : (s.modLane l g).grp m = s.grp m := rfl

/-! ## `State.modGrp` changes `grps` -/

@[simp] theorem modGrp_pending (i : Nat) (h : Grp → Grp) : (s.modGrp i h).pending = s.pending := rfl
@[simp] theorem modGrp_fuses (i : Nat) (h : Grp → Grp) : (s.modGrp i h).fuses = s.fuses := rfl
@[simp] theorem modGrp_pins (i : Nat) (h : Grp → Grp) : (s.modGrp i h).pins = s.pins := rfl
@[simp] theorem modGrp_power (i : Nat) (h : Grp → Grp) : (s.modGrp i h).power = s.power := rfl
@[simp] theorem modGrp_time (i : Nat) (h : Grp → Grp) : (s.modGrp i h).time = s.time := rfl
@[simp] theorem modGrp_regs (i : Nat) (h : Grp → Grp) : (s.modGrp i h).regs = s.regs := rfl
@[simp] theorem modGrp_shadows (i : Nat) (h : Grp → Grp) : (s.modGrp i h).shadows = s.shadows := rfl
@[simp] theorem modGrp_busy (i : Nat) (h : Grp → Grp) : (s.modGrp i h).busy = s.busy := rfl
@[simp] theorem modGrp_out (i : Nat) (h : Grp → Grp) : (s.modGrp i h).out = s.out := rfl
@[simp] theorem modGrp_mem (i : Nat) (h : Grp → Grp) : (s.modGrp i h).mem = s.mem := rfl
@[simp] theorem modGrp_syn (i : Nat) (h : Grp → Grp) : (s.modGrp i h).syn = s.syn := rfl
@[simp] theorem modGrp_held (i : Nat) (h : Grp → Grp) : (s.modGrp i h).held = s.held := rfl
@[simp] theorem modGrp_twoViews (i : Nat) (h : Grp → Grp) : (s.modGrp i h).twoViews = s.twoViews := rfl
@[simp] theorem modGrp_repairs (i : Nat) (h : Grp → Grp) : (s.modGrp i h).repairs = s.repairs := rfl
@[simp] theorem modGrp_zoneCount (i : Nat) (h : Grp → Grp) : (s.modGrp i h).zoneCount = s.zoneCount := rfl
@[simp] theorem modGrp_tpages (i : Nat) (h : Grp → Grp) : (s.modGrp i h).tpages = s.tpages := rfl
@[simp] theorem modGrp_objInfo (i : Nat) (h : Grp → Grp) : (s.modGrp i h).objInfo = s.objInfo := rfl
@[simp] theorem modGrp_hib (i : Nat) (h : Grp → Grp) : (s.modGrp i h).hib = s.hib := rfl
@[simp] theorem modGrp_ports (i : Nat) (h : Grp → Grp) : (s.modGrp i h).ports = s.ports := rfl
@[simp] theorem modGrp_tkg (i : Nat) (h : Grp → Grp) : (s.modGrp i h).tkg = s.tkg := rfl
@[simp] theorem modGrp_fab (i : Nat) (h : Grp → Grp) : (s.modGrp i h).fab = s.fab := rfl
@[simp] theorem modGrp_clove (i : Nat) (h : Grp → Grp) : (s.modGrp i h).clove = s.clove := rfl
@[simp] theorem modGrp_bus (i : Nat) (h : Grp → Grp) : (s.modGrp i h).bus = s.bus := rfl
@[simp] theorem modGrp_buNext (i : Nat) (h : Grp → Grp) : (s.modGrp i h).buNext = s.buNext := rfl
@[simp] theorem modGrp_buSt (i : Nat) (h : Grp → Grp) : (s.modGrp i h).buSt = s.buSt := rfl
@[simp] theorem modGrp_ustore (i : Nat) (h : Grp → Grp) : (s.modGrp i h).ustore = s.ustore := rfl
@[simp] theorem modGrp_slices (i : Nat) (h : Grp → Grp) : (s.modGrp i h).slices = s.slices := rfl
@[simp] theorem modGrp_ctxs (i : Nat) (h : Grp → Grp) : (s.modGrp i h).ctxs = s.ctxs := rfl
@[simp] theorem modGrp_ctxLast (i : Nat) (h : Grp → Grp) : (s.modGrp i h).ctxLast = s.ctxLast := rfl
@[simp] theorem modGrp_cmds (i : Nat) (h : Grp → Grp) : (s.modGrp i h).cmds = s.cmds := rfl
@[simp] theorem modGrp_cmdNext (i : Nat) (h : Grp → Grp) : (s.modGrp i h).cmdNext = s.cmdNext := rfl
@[simp] theorem modGrp_plv (i : Nat) (h : Grp → Grp) : (s.modGrp i h).plv = s.plv := rfl
@[simp] theorem modGrp_lanes (i : Nat) (h : Grp → Grp) : (s.modGrp i h).lanes = s.lanes := rfl
@[simp] theorem modGrp_gov (i : Nat) (h : Grp → Grp) : (s.modGrp i h).gov = s.gov := rfl
@[simp] theorem modGrp_rel (i : Nat) (h : Grp → Grp) : (s.modGrp i h).rel = s.rel := rfl
@[simp] theorem modGrp_jtag (i : Nat) (h : Grp → Grp) : (s.modGrp i h).jtag = s.jtag := rfl
@[simp] theorem modGrp_anyBits (i : Nat) (h : Grp → Grp) : (s.modGrp i h).anyBits = s.anyBits := rfl
@[simp] theorem modGrp_f (i : Nat) (w : Grp → Grp) (q : Page) (h : Fld) : (s.modGrp i w).f q h = s.f q h := rfl
@[simp] theorem modGrp_on (i : Nat) (w : Grp → Grp) (q : Page) (h : Fld) : (s.modGrp i w).on q h = s.on q h := rfl
@[simp] theorem modGrp_slice (i : Nat) (h : Grp → Grp) (m : Nat) : (s.modGrp i h).slice m = s.slice m := rfl
@[simp] theorem modGrp_cx (i : Nat) (h : Grp → Grp) (m : Nat) : (s.modGrp i h).cx m = s.cx m := rfl
@[simp] theorem modGrp_bu (i : Nat) (h : Grp → Grp) (m : Nat) : (s.modGrp i h).bu m = s.bu m := rfl
@[simp] theorem modGrp_lane (i : Nat) (h : Grp → Grp) (m : Nat) : (s.modGrp i h).lane m = s.lane m := rfl

/-! ## `State.setBusy` changes `busy` -/

@[simp] theorem setBusy_pending (pg : Page) (t : Nat) : (s.setBusy pg t).pending = s.pending := rfl
@[simp] theorem setBusy_fuses (pg : Page) (t : Nat) : (s.setBusy pg t).fuses = s.fuses := rfl
@[simp] theorem setBusy_pins (pg : Page) (t : Nat) : (s.setBusy pg t).pins = s.pins := rfl
@[simp] theorem setBusy_power (pg : Page) (t : Nat) : (s.setBusy pg t).power = s.power := rfl
@[simp] theorem setBusy_time (pg : Page) (t : Nat) : (s.setBusy pg t).time = s.time := rfl
@[simp] theorem setBusy_regs (pg : Page) (t : Nat) : (s.setBusy pg t).regs = s.regs := rfl
@[simp] theorem setBusy_shadows (pg : Page) (t : Nat) : (s.setBusy pg t).shadows = s.shadows := rfl
@[simp] theorem setBusy_out (pg : Page) (t : Nat) : (s.setBusy pg t).out = s.out := rfl
@[simp] theorem setBusy_mem (pg : Page) (t : Nat) : (s.setBusy pg t).mem = s.mem := rfl
@[simp] theorem setBusy_syn (pg : Page) (t : Nat) : (s.setBusy pg t).syn = s.syn := rfl
@[simp] theorem setBusy_held (pg : Page) (t : Nat) : (s.setBusy pg t).held = s.held := rfl
@[simp] theorem setBusy_twoViews (pg : Page) (t : Nat) : (s.setBusy pg t).twoViews = s.twoViews := rfl
@[simp] theorem setBusy_repairs (pg : Page) (t : Nat) : (s.setBusy pg t).repairs = s.repairs := rfl
@[simp] theorem setBusy_zoneCount (pg : Page) (t : Nat) : (s.setBusy pg t).zoneCount = s.zoneCount := rfl
@[simp] theorem setBusy_tpages (pg : Page) (t : Nat) : (s.setBusy pg t).tpages = s.tpages := rfl
@[simp] theorem setBusy_objInfo (pg : Page) (t : Nat) : (s.setBusy pg t).objInfo = s.objInfo := rfl
@[simp] theorem setBusy_hib (pg : Page) (t : Nat) : (s.setBusy pg t).hib = s.hib := rfl
@[simp] theorem setBusy_ports (pg : Page) (t : Nat) : (s.setBusy pg t).ports = s.ports := rfl
@[simp] theorem setBusy_tkg (pg : Page) (t : Nat) : (s.setBusy pg t).tkg = s.tkg := rfl
@[simp] theorem setBusy_fab (pg : Page) (t : Nat) : (s.setBusy pg t).fab = s.fab := rfl
@[simp] theorem setBusy_clove (pg : Page) (t : Nat) : (s.setBusy pg t).clove = s.clove := rfl
@[simp] theorem setBusy_bus (pg : Page) (t : Nat) : (s.setBusy pg t).bus = s.bus := rfl
@[simp] theorem setBusy_buNext (pg : Page) (t : Nat) : (s.setBusy pg t).buNext = s.buNext := rfl
@[simp] theorem setBusy_buSt (pg : Page) (t : Nat) : (s.setBusy pg t).buSt = s.buSt := rfl
@[simp] theorem setBusy_ustore (pg : Page) (t : Nat) : (s.setBusy pg t).ustore = s.ustore := rfl
@[simp] theorem setBusy_slices (pg : Page) (t : Nat) : (s.setBusy pg t).slices = s.slices := rfl
@[simp] theorem setBusy_ctxs (pg : Page) (t : Nat) : (s.setBusy pg t).ctxs = s.ctxs := rfl
@[simp] theorem setBusy_ctxLast (pg : Page) (t : Nat) : (s.setBusy pg t).ctxLast = s.ctxLast := rfl
@[simp] theorem setBusy_cmds (pg : Page) (t : Nat) : (s.setBusy pg t).cmds = s.cmds := rfl
@[simp] theorem setBusy_cmdNext (pg : Page) (t : Nat) : (s.setBusy pg t).cmdNext = s.cmdNext := rfl
@[simp] theorem setBusy_plv (pg : Page) (t : Nat) : (s.setBusy pg t).plv = s.plv := rfl
@[simp] theorem setBusy_lanes (pg : Page) (t : Nat) : (s.setBusy pg t).lanes = s.lanes := rfl
@[simp] theorem setBusy_grps (pg : Page) (t : Nat) : (s.setBusy pg t).grps = s.grps := rfl
@[simp] theorem setBusy_gov (pg : Page) (t : Nat) : (s.setBusy pg t).gov = s.gov := rfl
@[simp] theorem setBusy_rel (pg : Page) (t : Nat) : (s.setBusy pg t).rel = s.rel := rfl
@[simp] theorem setBusy_jtag (pg : Page) (t : Nat) : (s.setBusy pg t).jtag = s.jtag := rfl
@[simp] theorem setBusy_anyBits (pg : Page) (t : Nat) : (s.setBusy pg t).anyBits = s.anyBits := rfl
@[simp] theorem setBusy_f (pg : Page) (t : Nat) (q : Page) (h : Fld) : (s.setBusy pg t).f q h = s.f q h := rfl
@[simp] theorem setBusy_on (pg : Page) (t : Nat) (q : Page) (h : Fld) : (s.setBusy pg t).on q h = s.on q h := rfl
@[simp] theorem setBusy_slice (pg : Page) (t : Nat) (m : Nat) : (s.setBusy pg t).slice m = s.slice m := rfl
@[simp] theorem setBusy_cx (pg : Page) (t : Nat) (m : Nat) : (s.setBusy pg t).cx m = s.cx m := rfl
@[simp] theorem setBusy_bu (pg : Page) (t : Nat) (m : Nat) : (s.setBusy pg t).bu m = s.bu m := rfl
@[simp] theorem setBusy_lane (pg : Page) (t : Nat) (m : Nat) : (s.setBusy pg t).lane m = s.lane m := rfl
@[simp] theorem setBusy_grp (pg : Page) (t : Nat) (m : Nat) : (s.setBusy pg t).grp m = s.grp m := rfl

/-! ## `State.resetRange` changes `regs` -/

@[simp] theorem resetRange_pending (b n : Nat) : (s.resetRange b n).pending = s.pending := rfl
@[simp] theorem resetRange_fuses (b n : Nat) : (s.resetRange b n).fuses = s.fuses := rfl
@[simp] theorem resetRange_pins (b n : Nat) : (s.resetRange b n).pins = s.pins := rfl
@[simp] theorem resetRange_power (b n : Nat) : (s.resetRange b n).power = s.power := rfl
@[simp] theorem resetRange_time (b n : Nat) : (s.resetRange b n).time = s.time := rfl
@[simp] theorem resetRange_shadows (b n : Nat) : (s.resetRange b n).shadows = s.shadows := rfl
@[simp] theorem resetRange_busy (b n : Nat) : (s.resetRange b n).busy = s.busy := rfl
@[simp] theorem resetRange_out (b n : Nat) : (s.resetRange b n).out = s.out := rfl
@[simp] theorem resetRange_mem (b n : Nat) : (s.resetRange b n).mem = s.mem := rfl
@[simp] theorem resetRange_syn (b n : Nat) : (s.resetRange b n).syn = s.syn := rfl
@[simp] theorem resetRange_held (b n : Nat) : (s.resetRange b n).held = s.held := rfl
@[simp] theorem resetRange_twoViews (b n : Nat) : (s.resetRange b n).twoViews = s.twoViews := rfl
@[simp] theorem resetRange_repairs (b n : Nat) : (s.resetRange b n).repairs = s.repairs := rfl
@[simp] theorem resetRange_zoneCount (b n : Nat) : (s.resetRange b n).zoneCount = s.zoneCount := rfl
@[simp] theorem resetRange_tpages (b n : Nat) : (s.resetRange b n).tpages = s.tpages := rfl
@[simp] theorem resetRange_objInfo (b n : Nat) : (s.resetRange b n).objInfo = s.objInfo := rfl
@[simp] theorem resetRange_hib (b n : Nat) : (s.resetRange b n).hib = s.hib := rfl
@[simp] theorem resetRange_ports (b n : Nat) : (s.resetRange b n).ports = s.ports := rfl
@[simp] theorem resetRange_tkg (b n : Nat) : (s.resetRange b n).tkg = s.tkg := rfl
@[simp] theorem resetRange_fab (b n : Nat) : (s.resetRange b n).fab = s.fab := rfl
@[simp] theorem resetRange_clove (b n : Nat) : (s.resetRange b n).clove = s.clove := rfl
@[simp] theorem resetRange_bus (b n : Nat) : (s.resetRange b n).bus = s.bus := rfl
@[simp] theorem resetRange_buNext (b n : Nat) : (s.resetRange b n).buNext = s.buNext := rfl
@[simp] theorem resetRange_buSt (b n : Nat) : (s.resetRange b n).buSt = s.buSt := rfl
@[simp] theorem resetRange_ustore (b n : Nat) : (s.resetRange b n).ustore = s.ustore := rfl
@[simp] theorem resetRange_slices (b n : Nat) : (s.resetRange b n).slices = s.slices := rfl
@[simp] theorem resetRange_ctxs (b n : Nat) : (s.resetRange b n).ctxs = s.ctxs := rfl
@[simp] theorem resetRange_ctxLast (b n : Nat) : (s.resetRange b n).ctxLast = s.ctxLast := rfl
@[simp] theorem resetRange_cmds (b n : Nat) : (s.resetRange b n).cmds = s.cmds := rfl
@[simp] theorem resetRange_cmdNext (b n : Nat) : (s.resetRange b n).cmdNext = s.cmdNext := rfl
@[simp] theorem resetRange_plv (b n : Nat) : (s.resetRange b n).plv = s.plv := rfl
@[simp] theorem resetRange_lanes (b n : Nat) : (s.resetRange b n).lanes = s.lanes := rfl
@[simp] theorem resetRange_grps (b n : Nat) : (s.resetRange b n).grps = s.grps := rfl
@[simp] theorem resetRange_gov (b n : Nat) : (s.resetRange b n).gov = s.gov := rfl
@[simp] theorem resetRange_rel (b n : Nat) : (s.resetRange b n).rel = s.rel := rfl
@[simp] theorem resetRange_jtag (b n : Nat) : (s.resetRange b n).jtag = s.jtag := rfl
@[simp] theorem resetRange_anyBits (b n : Nat) : (s.resetRange b n).anyBits = s.anyBits := rfl
@[simp] theorem resetRange_slice (b n : Nat) (m : Nat) : (s.resetRange b n).slice m = s.slice m := rfl
@[simp] theorem resetRange_cx (b n : Nat) (m : Nat) : (s.resetRange b n).cx m = s.cx m := rfl
@[simp] theorem resetRange_bu (b n : Nat) (m : Nat) : (s.resetRange b n).bu m = s.bu m := rfl
@[simp] theorem resetRange_lane (b n : Nat) (m : Nat) : (s.resetRange b n).lane m = s.lane m := rfl
@[simp] theorem resetRange_grp (b n : Nat) (m : Nat) : (s.resetRange b n).grp m = s.grp m := rfl

/-! ## What is read back -/

/-- A field never reads more than its width holds. -/
theorem f_lt (pg : Page) (f : Fld) : s.f pg f < 2 ^ f.width := Nat.mod_lt _ (Nat.two_pow_pos _)

/-- A field reads as what was written to it, cut to its width. -/
@[simp] theorem setF_f_same (pg : Page) (f : Fld) (v : Nat) : (s.setF pg f v).f pg f = v % 2 ^ f.width := by
  simp [State.f, State.setF]

/-- A field with another key reads as before. -/
theorem setF_f_ne {pg q : Page} {f h : Fld} (hk : regKey q h ≠ regKey pg f) (v : Nat) : (s.setF pg f v).f q h = s.f q h :=
  congrArg (· % 2 ^ h.width) (spGet_put_ne _ _ _ hk _)

theorem setB_f_same (pg : Page) (f : Fld) (b : Bool) : (s.setB pg f b).f pg f = b2n b % 2 ^ f.width := setF_f_same s pg f _

theorem setB_f_ne {pg q : Page} {f h : Fld} (hk : regKey q h ≠ regKey pg f) (b : Bool) : (s.setB pg f b).f q h = s.f q h := setF_f_ne s hk _

theorem bump_f_same (pg : Page) (f : Fld) (n : Nat) : (s.bump pg f n).f pg f = satN f.width (s.f pg f + n) % 2 ^ f.width := setF_f_same s pg f _

theorem bump_f_ne {pg q : Page} {f h : Fld} (hk : regKey q h ≠ regKey pg f) (n : Nat) : (s.bump pg f n).f q h = s.f q h := setF_f_ne s hk _

@[simp] theorem setSlice_slice (n : Nat) (x : Slice) (i : Nat) : (s.setSlice n x).slice i = if i = n then x else s.slice i := by
  simp [State.slice, State.setSlice]

@[simp] theorem modSlice_slice (n : Nat) (g : Slice → Slice) (i : Nat) :
    (s.modSlice n g).slice i = if i = n then g (s.slice n) else s.slice i := by
  simp [State.modSlice]

@[simp] theorem setCx_cx (c : Nat) (x : Ctx) (i : Nat) : (s.setCx c x).cx i = if i = c then x else s.cx i := by
  simp [State.cx, State.setCx]

@[simp] theorem modCx_cx (c : Nat) (g : Ctx → Ctx) (i : Nat) : (s.modCx c g).cx i = if i = c then g (s.cx c) else s.cx i := by
  simp [State.modCx]

@[simp] theorem setBu_bu (k : Nat) (b : BuState) (i : Nat) : (s.setBu k b).bu i = if i = k then b else s.bu i := by
  simp [State.bu, State.setBu]

@[simp] theorem modBu_bu (k : Nat) (g : BuState → BuState) (i : Nat) : (s.modBu k g).bu i = if i = k then g (s.bu k) else s.bu i := by
  simp [State.modBu]

@[simp] theorem modLane_lane (l : Nat) (g : Lane → Lane) (i : Nat) : (s.modLane l g).lane i = if i = l then g (s.lane l) else s.lane i := by
  simp [State.lane, State.modLane]

@[simp] theorem modGrp_grp (i : Nat) (h : Grp → Grp) (j : Nat) : (s.modGrp i h).grp j = if j = i then h (s.grp i) else s.grp j := by
  simp [State.grp, State.modGrp]

@[simp] theorem emit_out (o : Out) : (s.emit o).out = s.out ++ [o] := rfl

end Sys2Proof.Laws
end

