-- ==== Sys2Proof/Laws/Bus.lean ====
section
/-! SUPPORT. The register bus: which page an address finds, and what a write of one word does when its verdict is to apply. -/

namespace Sys2Proof.Laws
open Sys2Proof Sys2Proof.Machine

theorem base_div (pg : Page) {off : Nat} (h : off < 0x1000) : (pg.base + off) / 0x1000 = pg.base / 0x1000 := by
  have : pg.base % 0x1000 = 0 := by
    obtain ⟨k, i, j⟩ := pg
    cases k <;> simp only [Page.base, PageKind.region, Page.func] <;> omega
  omega

theorem base_mod (pg : Page) {off : Nat} (h : off < 0x1000) : (pg.base + off) % 0x1000 = off := by
  have : pg.base % 0x1000 = 0 := by
    obtain ⟨k, i, j⟩ := pg
    cases k <;> simp only [Page.base, PageKind.region, Page.func] <;> omega
  omega

set_option maxRecDepth 8000 in
/-- The pages of the index, by their place in the aperture. -/
theorem pageIndex_base {pg : Page} (h : pg.wf = true) {off : Nat} (ho : off < 0x1000) : pageIndex (pg.base + off) = some pg := by
  unfold pageIndex
  rw [base_div pg ho]
  obtain ⟨k, i, j⟩ := pg
  cases k <;> simp only [Page.wf, Bool.and_eq_true, decide_eq_true_eq] at h <;> obtain ⟨hi, hj⟩ := h <;>
    simp only [Page.base, PageKind.region, Page.func]
  case stkCh => revert i; revert j; decide
  all_goals
    subst hj
    first
      | (subst hi; rfl)
      | (revert i; decide)

/-- The word of a page at `off`. -/
def word (pg : Page) (off v : Nat) : BusWord := { addr := pg.base + off, data := v % 2 ^ 32, be := 15 }

theorem eraseDups_one (n : Nat) : [n].eraseDups = [n] := rfl

/-- A write of one word, on a source that may write, is the access of that word to its page. -/
theorem write4_one {s : State} {src : Src} {pg : Page} {off v : Nat} (ho : off < 0x1000) (hw : s.writes src (pg.base / 0x1000) = true) :
    s.write4 src pg off v = s.pageWrite src [word pg off v] := by
  have hb : (word pg off v).addr / 0x1000 = pg.base / 0x1000 := base_div pg ho
  show s.busWrite src [word pg off v] = _
  simp only [State.busWrite, List.map_cons, List.map_nil, hb, eraseDups_one, List.foldl_cons, List.foldl_nil, hw, if_true,
    List.filter_cons, decide_true, List.filter_nil]

/-- A whole word that its source may write to an implemented page is applied, and nothing else happens. -/
theorem write4_apply {s : State} {src : Src} {pg : Page} {off v : Nat} (ho : off < 0x1000) (hw : s.writes src (pg.base / 0x1000) = true)
    (hp : s.pageAt (pg.base + off) = some pg) (hv : s.verdict src (word pg off v) = .apply) :
    s.write4 src pg off v = s.applyWords src pg [word pg off v] [] := by
  have hq : s.pageAt (word pg off v).addr = some pg := hp
  rw [write4_one ho hw]
  simp [State.pageWrite, hq, hv, Verdict.refused?]

/-- A word that is refused is recorded in its page's header, and nothing else happens. -/
theorem write4_refuse {s : State} {src : Src} {pg : Page} {off v : Nat} (ho : off < 0x1000) (hw : s.writes src (pg.base / 0x1000) = true)
    (hp : s.pageAt (pg.base + off) = some pg) {locked : Bool} (hv : s.verdict src (word pg off v) = .refuse locked) :
    s.write4 src pg off v = (s.refuse src pg locked).irqEdge (s.irqOn pg) pg := by
  have hq : s.pageAt (word pg off v).addr = some pg := hp
  rw [write4_one ho hw]
  simp [State.pageWrite, hq, hv, Verdict.refused?, State.applyWords, wrOf]

theorem pageAt_off {s : State} {pg : Page} (h : s.pageAt pg.base = some pg) {off : Nat} (ho : off < 0x1000) :
    s.pageAt (pg.base + off) = some pg := by
  have e : pageIndex (pg.base + off) = pageIndex pg.base := by
    unfold pageIndex; rw [base_div pg ho]
  unfold State.pageAt at h ⊢
  rw [e]; exact h

/-- On a page that a port may write, a word that holds fields which the port may write is applied. -/
theorem verdict_apply {s : State} {p : Fin 4} {pg : Page} {off : Nat} (ho : off < 0x1000) (h : s.letsWrite p pg = true) (v : Nat)
    (hn : writable pg off ≠ []) (ha : ∀ e ∈ writable pg off, e.1.acc ≠ .rwl ∧ e.1.acc ≠ .rwa) :
    s.verdict (.port p) (word pg off v) = .apply := by
  simp only [State.letsWrite, Bool.and_eq_true, decide_eq_true_eq, Bool.not_eq_true'] at h
  obtain ⟨⟨⟨⟨⟨hr, ht⟩, hp⟩, hb⟩, hl⟩, hw⟩ := h
  have hq : s.pageAt (word pg off v).addr = some pg := pageAt_off hp ho
  have hoff : (word pg off v).off = off := base_mod pg ho
  have hf : fieldsAt pg.kind off ≠ [] := by
    intro e; apply hn; unfold writable; rw [e]; rfl
  have hm : (writable pg off).any (fun e => !s.mayWrite (.port p) pg e.1) = false := by
    rw [List.any_eq_false]
    intro e he
    have hc := ha e he
    have : s.mayWrite (.port p) pg e.1 = true := by
      unfold State.mayWrite
      simp only [Bool.or_eq_true, decide_eq_true_eq, Bool.and_eq_true] at hw
      cases hacc : e.1.acc <;> simp_all
    simp [this]
  have hbe : (word pg off v).be = 15 := rfl
  unfold State.verdict
  rw [hq]
  simp only [hoff, hf, hn, hb, hm, if_false, Bool.false_eq_true, and_false, reduceCtorEq, decide_false, Bool.false_and, hl, hbe, ne_eq,
    not_true_eq_false]

/-- On such a page, a whole word that holds fields which the port may write acts, and does nothing else. -/
theorem write4_acts {s : State} {p : Fin 4} {pg : Page} {off : Nat} (ho : off < 0x1000) (h : s.letsWrite p pg = true) (v : Nat)
    (hn : writable pg off ≠ []) (ha : ∀ e ∈ writable pg off, e.1.acc ≠ .rwl ∧ e.1.acc ≠ .rwa) :
    s.write4 (.port p) pg off v = s.applyWords (.port p) pg [word pg off v] [] := by
  have hv := verdict_apply ho h v hn ha
  simp only [State.letsWrite, Bool.and_eq_true, decide_eq_true_eq, Bool.not_eq_true'] at h
  obtain ⟨⟨⟨⟨⟨hr, ht⟩, hp⟩, hb⟩, hl⟩, hw⟩ := h
  exact write4_apply ho (by simp [State.writes, hr, ht]) (pageAt_off hp ho) hv

end Sys2Proof.Laws
end

