-- ==== Sys2Proof/Laws/Memory.lean ====
section
/-! SUPPORT. The canonical form of device memory: what it means entry by entry, and that the two operations that change the list keep it. -/

namespace Sys2Proof.Laws
open Sys2Proof.Machine

theorem memWfFrom_mono {n k : Nat} {m : List Host.Cell} (h : memWfFrom n m = true) (hk : k ≤ n) : memWfFrom k m = true := by
  cases m with
  | nil => rfl
  | cons e t =>
    obtain ⟨a, b⟩ := e
    simp only [memWfFrom, Bool.and_eq_true, decide_eq_true_eq] at h ⊢
    exact ⟨⟨by omega, h.1.2⟩, h.2⟩

/-- Two canonical runs, the first below `b` and the second from `b`, make one. -/
theorem memWfFrom_append {n b : Nat} {x y : List Host.Cell} (hx : memWfFrom n x = true) (hb : ∀ e ∈ x, e.1 < b) (hn : n ≤ b)
    (hy : memWfFrom b y = true) : memWfFrom n (x ++ y) = true := by
  induction x generalizing n with
  | nil => exact memWfFrom_mono hy hn
  | cons e t ih =>
    obtain ⟨a, v⟩ := e
    simp only [List.cons_append, memWfFrom, Bool.and_eq_true] at hx ⊢
    exact ⟨hx.1, ih hx.2 (fun e he => hb e (List.mem_cons_of_mem _ he)) (hb (a, v) List.mem_cons_self)⟩

theorem memWfFrom_takeWhile {n : Nat} {m : List Host.Cell} (p : Host.Cell → Bool) (h : memWfFrom n m = true) :
    memWfFrom n (m.takeWhile p) = true := by
  induction m generalizing n with
  | nil => rfl
  | cons e t ih =>
    obtain ⟨a, v⟩ := e
    simp only [memWfFrom, Bool.and_eq_true] at h
    rw [List.takeWhile_cons]
    split
    · simp only [memWfFrom, Bool.and_eq_true]; exact ⟨h.1, ih h.2⟩
    · rfl

theorem takeWhile_below {a : Nat} {m : List Host.Cell} : ∀ e ∈ m.takeWhile (fun e => decide (e.1 < a)), e.1 < a := by
  intro e he
  induction m with
  | nil => cases he
  | cons x t ih =>
    rw [List.takeWhile_cons] at he
    split at he
    · rcases List.mem_cons.mp he with rfl | h'
      · simp_all
      · exact ih h'
    · cases he

theorem memWfFrom_dropWhile {n c : Nat} {m : List Host.Cell} (h : memWfFrom n m = true) :
    memWfFrom c (m.dropWhile fun e => decide (e.1 < c)) = true := by
  induction m generalizing n with
  | nil => rfl
  | cons e t ih =>
    obtain ⟨a, v⟩ := e
    simp only [memWfFrom, Bool.and_eq_true, decide_eq_true_eq] at h
    rw [List.dropWhile_cons]
    split
    · exact ih h.2
    · rename_i hc
      simp only [memWfFrom, Bool.and_eq_true, decide_eq_true_eq]
      simp only [decide_eq_true_eq] at hc
      exact ⟨⟨by omega, h.1.2⟩, h.2⟩

theorem runCells_wf (a : Nat) (l : List Byte) : memWfFrom a (runCells a l) = true := by
  induction l generalizing a with
  | nil => rfl
  | cons b t ih =>
    rw [runCells]
    split
    · exact memWfFrom_mono (ih (a + 1)) (by omega)
    · simp_all [memWfFrom]

theorem runCells_range (a : Nat) (l : List Byte) : ∀ e ∈ runCells a l, a ≤ e.1 ∧ e.1 < a + l.length := by
  induction l generalizing a with
  | nil => intro e he; cases he
  | cons b t ih =>
    intro e he
    rw [runCells] at he
    split at he
    · have := ih (a + 1) e he; simp only [List.length_cons]; omega
    · rcases List.mem_cons.mp he with rfl | h'
      · simp
      · have := ih (a + 1) e h'; simp only [List.length_cons]; omega

/-- Writing a run of bytes keeps the canonical form. -/
theorem memRun_wf {m : List Host.Cell} (h : Memory.wf m = true) (a : Nat) (l : List Byte) : Memory.wf (memRun m a l) = true := by
  unfold Memory.wf memRun
  rw [List.append_assoc]
  refine memWfFrom_append (b := a) (memWfFrom_takeWhile _ h) takeWhile_below (Nat.zero_le _) ?_
  refine memWfFrom_append (b := a + l.length) (runCells_wf a l) (fun e he => (runCells_range a l e he).2) (by omega) ?_
  exact memWfFrom_dropWhile (memWfFrom_dropWhile (c := a) h)

/-- Zeroing a run of bytes keeps the canonical form. -/
theorem memZero_wf {m : List Host.Cell} (h : Memory.wf m = true) (a n : Nat) : Memory.wf (memZero m a n) = true := by
  unfold Memory.wf memZero
  refine memWfFrom_append (b := a) (memWfFrom_takeWhile _ h) takeWhile_below (Nat.zero_le _) ?_
  exact memWfFrom_mono (memWfFrom_dropWhile (c := a + n) (memWfFrom_dropWhile (c := a) h)) (by omega)

end Sys2Proof.Laws
end

