-- ==== Sys2Proof/Laws/Keeps.lean ====
section
/-! SUPPORT. `Keeps a s`: `s` is well formed and has the queue, the fuses and the time of `a`. The lemmas of this file say how a record update, a choice
and a fold carry it; the files `Frame1` to `Frame4` have one lemma for each shared operation, that it carries it too. -/

namespace Sys2Proof.Laws
open Sys2Proof.Machine

/-- `s` is well formed; it has the waiting commands, the fuses and the module's own time of `a`; what has left the module stands before whatever
left it since; and no free value that was drawn before is drawn again. -/
structure Keeps (a s : State) : Prop where
  mem : Memory.wf s.mem = true
  regs : spWf s.regs = true
  power : s.power.nested = true
  pending : s.pending = a.pending
  fuses : s.fuses = a.fuses
  now : s.power.now = a.power.now
  out : a.out <+: s.out
  bits : a.anyBits ≤ s.anyBits

variable {a s : State}

theorem keeps_refl (h : s.wf = true) : Keeps s s := by
  simp only [State.wf, Bool.and_eq_true] at h
  exact ⟨h.1.1, h.1.2, h.2, rfl, rfl, rfl, List.prefix_refl _, Nat.le_refl _⟩

theorem Keeps.wf (h : Keeps a s) : s.wf = true := by
  simp only [State.wf, Bool.and_eq_true]
  exact ⟨⟨h.mem, h.regs⟩, h.power⟩

/-- What `Keeps` says of the fields that it reads. -/
def KeepsAt (a : State) (m : List Host.Cell) (r : Sp Nat) (p : List Instr) (f : Fuses) (w : Power) (o : List Out) (n : Nat) : Prop :=
  Memory.wf m = true ∧ spWf r = true ∧ w.nested = true ∧ p = a.pending ∧ f = a.fuses ∧ w.now = a.power.now ∧ a.out <+: o ∧ a.anyBits ≤ n

theorem keeps_mk {pd fuses pins power time regs shadows busy out mem syn held twoViews repairs zoneCount tpages objInfo hib ports tkg fab clove bus buNext
    buSt ustore slices ctxs ctxLast cmds cmdNext plv lanes grps gov rel jtag anyBits} :
    Keeps a (State.mk pd fuses pins power time regs shadows busy out mem syn held twoViews repairs zoneCount tpages objInfo hib ports tkg fab clove bus
      buNext buSt ustore slices ctxs ctxLast cmds cmdNext plv lanes grps gov rel jtag anyBits) ↔
    KeepsAt a mem regs pd fuses power out anyBits :=
  ⟨fun h => ⟨h.mem, h.regs, h.power, h.pending, h.fuses, h.now, h.out, h.bits⟩, fun ⟨b, c, d, f, g, i, j, k⟩ => ⟨b, c, d, f, g, i, j, k⟩⟩

theorem keepsAt_of (h : Keeps a s) : KeepsAt a s.mem s.regs s.pending s.fuses s.power s.out s.anyBits :=
  ⟨h.mem, h.regs, h.power, h.pending, h.fuses, h.now, h.out, h.bits⟩

theorem keepsAt_run {x l} (h : Keeps a s) : KeepsAt a (memRun s.mem x l) s.regs s.pending s.fuses s.power s.out s.anyBits :=
  ⟨memRun_wf h.mem x l, (keepsAt_of h).2⟩

theorem keepsAt_zero {x n} (h : Keeps a s) : KeepsAt a (memZero s.mem x n) s.regs s.pending s.fuses s.power s.out s.anyBits :=
  ⟨memZero_wf h.mem x n, (keepsAt_of h).2⟩

theorem keepsAt_put {d k v} (h : Keeps a s) : KeepsAt a s.mem (spPut d s.regs k v) s.pending s.fuses s.power s.out s.anyBits :=
  ⟨h.mem, spPut_wf h.regs d k v, (keepsAt_of h).2.2⟩

theorem keepsAt_drop {lo hi} (h : Keeps a s) : KeepsAt a s.mem (spDrop s.regs lo hi) s.pending s.fuses s.power s.out s.anyBits :=
  ⟨h.mem, spDrop_wf h.regs lo hi, (keepsAt_of h).2.2⟩

/-- One more thing leaves the module. -/
theorem keepsAt_emit {o : Out} (h : Keeps a s) : KeepsAt a s.mem s.regs s.pending s.fuses s.power (s.out ++ [o]) s.anyBits :=
  ⟨h.mem, h.regs, h.power, h.pending, h.fuses, h.now, h.out.trans (List.prefix_append _ _), h.bits⟩

/-- More free values are drawn. -/
theorem keepsAt_draw {n} (h : Keeps a s) : KeepsAt a s.mem s.regs s.pending s.fuses s.power s.out (s.anyBits + n) :=
  ⟨h.mem, h.regs, h.power, h.pending, h.fuses, h.now, h.out, Nat.le_trans h.bits (Nat.le_add_right _ _)⟩

/-- A change of `power` that leaves the resets nested, and takes no time. -/
theorem keepsAt_power {w : Power} (h : Keeps a s) (hw : w.nested = true) (ht : w.now = s.power.now) :
    KeepsAt a s.mem s.regs s.pending s.fuses w s.out s.anyBits :=
  ⟨h.mem, h.regs, hw, h.pending, h.fuses, ht.trans h.now, h.out, h.bits⟩

/-- A change of `power` that touches no flag of a reset. -/
theorem nested_same {v w : Power} (h : v.nested = true) (h1 : w.inPower = v.inPower) (h2 : w.inCold = v.inCold) (h3 : w.locked = v.locked) :
    w.nested = true := by
  unfold Power.nested at *; rw [h1, h2, h3]; exact h

theorem keeps_fold {α : Type} {f : State → α → State} {l : List α} (hf : ∀ s x, Keeps a s → Keeps a (f s x)) (h : Keeps a s) :
    Keeps a (l.foldl f s) := by
  induction l generalizing s with
  | nil => exact h
  | cons x t ih => exact ih (hf _ _ h)

theorem keeps_fold_pair {α β : Type} {f : State × β → α → State × β} {p : State × β} {l : List α}
    (hf : ∀ p x, Keeps a p.1 → Keeps a (f p x).1) (h : Keeps a p.1) : Keeps a (l.foldl f p).1 := by
  induction l generalizing p with
  | nil => exact h
  | cons x t ih => exact ih (hf _ _ h)

theorem keeps_of_pair {β : Type} {p : State × β} {t : State} {b : β} (hp : p = (t, b)) (h : Keeps a p.1) : Keeps a t := by subst hp; exact h

theorem keeps_ite {c : Prop} [Decidable c] {x y : State} (hx : Keeps a x) (hy : Keeps a y) : Keeps a (if c then x else y) := by
  split <;> assumption

/-! ## Answers that carry a state -/

def KeepsR (a : State) (r : Result) : Prop := ∀ t, r = .next t → Keeps a t
def KeepsO (a : State) (r : Option State) : Prop := ∀ t, r = some t → Keeps a t
def KeepsOP {β : Type} (a : State) (r : Option (State × β)) : Prop := ∀ t b, r = some (t, b) → Keeps a t
def KeepsE {ε : Type} (a : State) (r : Except ε State) : Prop := ∀ t, r = .ok t → Keeps a t
def KeepsEP {ε β : Type} (a : State) (r : Except ε (State × β)) : Prop := ∀ t b, r = .ok (t, b) → Keeps a t
def KeepsEO {ε : Type} (a : State) (r : Except ε (Option State)) : Prop := ∀ t, r = .ok (some t) → Keeps a t
def KeepsMS (a : State) (r : MSlot) : Prop := ∀ t, r = .ok t → Keeps a t
def KeepsIS (a : State) (r : Issued) : Prop := ∀ t i, r = .taken t i → Keeps a t
def KeepsIU (a : State) (r : Issue) : Prop := ∀ t j w, r = .ok t j w → Keeps a t

theorem keepsR_next (h : Keeps a s) : KeepsR a (.next s) := by intro t e; cases e; exact h
theorem keepsR_fault {f : Fault} : KeepsR a (.fault f) := by intro t e; cases e
theorem keepsR_refused {f : Refusal} : KeepsR a (.refused f) := by intro t e; cases e
theorem keepsO_some (h : Keeps a s) : KeepsO a (some s) := by intro t e; cases e; exact h
theorem keepsO_none : KeepsO a none := by intro t e; cases e
theorem keepsOP_some {β : Type} {b : β} (h : Keeps a s) : KeepsOP a (some (s, b)) := by intro t c e; cases e; exact h
theorem keepsOP_none {β : Type} : KeepsOP (β := β) a none := by intro t c e; cases e
theorem keepsE_ok {ε : Type} (h : Keeps a s) : KeepsE (ε := ε) a (.ok s) := by intro t e; cases e; exact h
theorem keepsE_error {ε : Type} {x : ε} : KeepsE a (.error x) := by intro t e; cases e
theorem keepsEP_ok {ε β : Type} {b : β} (h : Keeps a s) : KeepsEP (ε := ε) a (.ok (s, b)) := by intro t c e; cases e; exact h
theorem keepsEP_error {ε β : Type} {x : ε} : KeepsEP (β := β) a (.error x) := by intro t c e; cases e
theorem keepsEO_ok {ε : Type} (h : Keeps a s) : KeepsEO (ε := ε) a (.ok (some s)) := by intro t e; cases e; exact h
theorem keepsEO_none {ε : Type} : KeepsEO (ε := ε) a (.ok none) := by intro t e; cases e
theorem keepsEO_error {ε : Type} {x : ε} : KeepsEO a (.error x) := by intro t e; cases e
theorem keepsMS_ok (h : Keeps a s) : KeepsMS a (.ok s) := by intro t e; cases e; exact h
theorem keepsMS_stall : KeepsMS a .stall := by intro t e; cases e
theorem keepsMS_fault {f : FaultInfo} : KeepsMS a (.fault f) := by intro t e; cases e
theorem keepsIS_taken {i : Nat} (h : Keeps a s) : KeepsIS a (.taken s i) := by intro t j e; cases e; exact h
theorem keepsIS_stall : KeepsIS a .stall := by intro t j e; cases e
theorem keepsIU_ok {j : Option Nat} {w : Option Wait} (h : Keeps a s) : KeepsIU a (.ok s j w) := by intro t j w e; cases e; exact h
theorem keepsIU_stall : KeepsIU a .stall := by intro t j w e; cases e
theorem keepsIU_fault {f : FaultInfo} : KeepsIU a (.fault f) := by intro t j w e; cases e

theorem keepsO_elim {r : Option State} (h : KeepsO a r) (e : r = some s) : Keeps a s := h _ e
theorem keepsOP_elim {β : Type} {r : Option (State × β)} {b : β} (h : KeepsOP a r) (e : r = some (s, b)) : Keeps a s := h _ _ e
theorem keepsE_elim {ε : Type} {r : Except ε State} (h : KeepsE a r) (e : r = .ok s) : Keeps a s := h _ e
theorem keepsEP_elim {ε β : Type} {r : Except ε (State × β)} {b : β} (h : KeepsEP a r) (e : r = .ok (s, b)) : Keeps a s := h _ _ e
theorem keepsEO_elim {ε : Type} {r : Except ε (Option State)} (h : KeepsEO a r) (e : r = .ok (some s)) : Keeps a s := h _ e
theorem keepsEO_lift {ε : Type} {r : Option State} (h : KeepsO a r) : KeepsEO (ε := ε) a (.ok r) := by
  intro t e; cases e; exact h _ rfl
theorem keepsMS_elim {r : MSlot} (h : KeepsMS a r) (e : r = .ok s) : Keeps a s := h _ e
theorem keepsIS_elim {r : Issued} {i : Nat} (h : KeepsIS a r) (e : r = .taken s i) : Keeps a s := h _ _ e
theorem keepsIU_elim {r : Issue} {j : Option Nat} {w : Option Wait} (h : KeepsIU a r) (e : r = .ok s j w) : Keeps a s := h _ _ _ e

/-- A guarded command keeps what its effect keeps. -/
theorem act_keeps {ok : Bool} {g : State → State} (h : Keeps a s) (hg : ∀ s, Keeps a s → Keeps a (g s)) : KeepsR a (act ok s g) := by
  unfold act; apply keepsR_next; split
  · exact hg _ h
  · exact h

theorem actSome_keeps {α : Type} {o : Option α} {g : α → State → State} (h : Keeps a s) (hg : ∀ x s, Keeps a s → Keeps a (g x s)) :
    KeepsR a (actSome o s g) := by
  unfold actSome; split
  · exact keepsR_next (hg _ _ h)
  · exact keepsR_next h

end Sys2Proof.Laws
end

