-- ==== Sys2Proof/Laws/Frame1.lean ====
section
/-! SUPPORT. One lemma for each shared operation that gives a state, in the order in which they are defined (part 1 of 4): it carries `Keeps`,
that is, it leaves the state well formed and touches neither the queue nor the fuses. From `State.setF` to `State.cancelRa`. -/

namespace Sys2Proof.Laws
open Sys2Proof Sys2Proof.Machine

theorem State_setF_keeps {a s : State} (h : Keeps a s) (pg : Page) (f : Fld) (v : Nat) : Keeps a (State.setF s pg f v) := by
  unfold State.setF
  repeat' first
    | (with_reducible first | assumption | apply keepsAt_of | apply keepsAt_draw | apply keepsAt_put | apply keeps_ite) | simp only [keeps_mk]
    | split

theorem State_setB_keeps {a s : State} (h : Keeps a s) (pg : Page) (f : Fld) (b : Bool) : Keeps a (State.setB s pg f b) := by
  unfold State.setB
  repeat' first
    | (with_reducible first | assumption | apply State_setF_keeps | apply keeps_ite) | dsimp only | split

theorem State_bump_keeps {a s : State} (h : Keeps a s) (pg : Page) (f : Fld) (n : Nat) : Keeps a (State.bump s pg f n) := by
  unfold State.bump
  repeat' first
    | (with_reducible first | assumption | apply State_setF_keeps | apply keeps_ite) | dsimp only | split

theorem State_setSlice_keeps {a s : State} (h : Keeps a s) (n : Nat) (x : Slice) : Keeps a (State.setSlice s n x) := by
  unfold State.setSlice
  repeat' first
    | (with_reducible first | assumption | apply keepsAt_of | apply keepsAt_draw | apply keepsAt_put | apply keeps_ite) | simp only [keeps_mk]
    | split

theorem State_modSlice_keeps {a s : State} (h : Keeps a s) (n : Nat) (g : Slice → Slice) : Keeps a (State.modSlice s n g) := by
  unfold State.modSlice
  repeat' first
    | (with_reducible first | assumption | apply State_setSlice_keeps | apply keeps_ite) | dsimp only | split

theorem State_setCx_keeps {a s : State} (h : Keeps a s) (c : Nat) (x : Ctx) : Keeps a (State.setCx s c x) := by
  unfold State.setCx
  repeat' first
    | (with_reducible first | assumption | apply keepsAt_of | apply keepsAt_draw | apply keepsAt_put | apply keeps_ite) | simp only [keeps_mk]
    | split

theorem State_modCx_keeps {a s : State} (h : Keeps a s) (c : Nat) (g : Ctx → Ctx) : Keeps a (State.modCx s c g) := by
  unfold State.modCx
  repeat' first
    | (with_reducible first | assumption | apply State_setCx_keeps | apply keeps_ite) | dsimp only | split

theorem State_emit_keeps {a s : State} (h : Keeps a s) (o : Out) : Keeps a (State.emit s o) := by
  unfold State.emit
  repeat' first
    | (with_reducible first | assumption | apply keepsAt_of | apply keepsAt_emit | apply keepsAt_draw | apply keeps_ite) | simp only [keeps_mk]
    | split

theorem State_sendMsix_keeps {a s : State} (h : Keeps a s) (p : Nat) (v : Nat) : Keeps a (State.sendMsix s p v) := by
  unfold State.sendMsix
  repeat' first
    | (with_reducible first | assumption | apply State_setF_keeps | apply State_emit_keeps | apply keeps_ite) | dsimp only | split

theorem State_irqEdge_keeps {a s : State} (h : Keeps a s) (was : Bool) (pg : Page) : Keeps a (State.irqEdge s was pg) := by
  unfold State.irqEdge
  repeat' first
    | (with_reducible first | assumption | apply State_sendMsix_keeps | apply keeps_ite) | dsimp only | split

theorem State_irq_keeps {a s : State} (h : Keeps a s) (pg : Page) (bits : Nat) : Keeps a (State.irq s pg bits) := by
  unfold State.irq
  repeat' first
    | (with_reducible first | assumption | apply State_irqEdge_keeps | apply State_setF_keeps | apply keeps_ite) | dsimp only | split

theorem State_resetRange_keeps {a s : State} (h : Keeps a s) (base : Nat) (len : Nat) : Keeps a (State.resetRange s base len) := by
  unfold State.resetRange
  repeat' first
    | (with_reducible first | assumption | apply keepsAt_of | apply keepsAt_draw | apply keepsAt_drop | apply keeps_ite) | simp only [keeps_mk]
    | split

theorem State_resetPage_keeps {a s : State} (h : Keeps a s) (pg : Page) : Keeps a (State.resetPage s pg) := by
  unfold State.resetPage
  repeat' first
    | (with_reducible first | assumption | apply State_resetRange_keeps | apply keeps_ite) | dsimp only | split

theorem State_resetBlock_keeps {a s : State} (h : Keeps a s) (pg : Page) : Keeps a (State.resetBlock s pg) := by
  unfold State.resetBlock
  repeat' first
    | (with_reducible first | assumption | apply State_resetRange_keeps | apply State_setF_keeps | apply keeps_ite) | dsimp only | split

theorem State_setBusy_keeps {a s : State} (h : Keeps a s) (pg : Page) (t : Nat) : Keeps a (State.setBusy s pg t) := by
  unfold State.setBusy
  repeat' first
    | (with_reducible first | assumption | apply keepsAt_of | apply keepsAt_draw | apply keepsAt_put | apply keeps_ite) | simp only [keeps_mk] | split

theorem State_dropRepairs_keeps {a s : State} (h : Keeps a s) (lo : Nat) (hi : Nat) : Keeps a (State.dropRepairs s lo hi) := by
  unfold State.dropRepairs
  repeat' first
    | (with_reducible first | assumption | apply keepsAt_of | apply keepsAt_draw | apply keepsAt_put | apply keeps_ite) | simp only [keeps_mk]
    | split

theorem State_dropHeldTiles_keeps {a s : State} (h : Keeps a s) (lo : Nat) (hi : Nat) (n : Nat) : Keeps a (State.dropHeldTiles s lo hi n) := by
  unfold State.dropHeldTiles
  repeat' first
    | (with_reducible first | assumption | apply State_bump_keeps | apply State_setSlice_keeps | apply keeps_ite) | dsimp only | split

theorem State_dropHeldDots_keeps {a s : State} (h : Keeps a s) (lo : Nat) (hi : Nat) : Keeps a (State.dropHeldDots s lo hi) := by
  unfold State.dropHeldDots
  repeat' first
    | (with_reducible first | assumption | apply State_bump_keeps | apply keepsAt_of | apply keepsAt_draw | apply keeps_fold
                            | apply keeps_fold_pair | (intro _) | apply keeps_ite) | simp only [keeps_mk] | split

theorem State_wrote_keeps {a s : State} (h : Keeps a s) (lo : Nat) (hi : Nat) : Keeps a (State.wrote s lo hi) := by
  unfold State.wrote
  repeat' first
    | (with_reducible first | assumption | apply State_dropHeldTiles_keeps | apply State_dropHeldDots_keeps | apply State_dropRepairs_keeps
                            | apply keeps_fold | apply keeps_fold_pair | (intro _) | apply keeps_ite) | dsimp only | split

theorem State_putBeats_keeps {a s : State} (h : Keeps a s) (bankView : Bool) (a1 : Nat) (l : List Byte) :
    Keeps a (State.putBeats s bankView a1 l) := by
  unfold State.putBeats
  repeat' first
    | (with_reducible first | assumption | apply State_wrote_keeps | apply keepsAt_of | apply keepsAt_draw | apply keepsAt_drop
                            | apply keepsAt_run | apply keeps_fold | apply keeps_fold_pair | (intro _) | apply keeps_ite)
    | simp only [keeps_mk] | split

theorem State_zeroFill_keeps {a s : State} (h : Keeps a s) (bankView : Bool) (a1 : Nat) (n : Nat) : Keeps a (State.zeroFill s bankView a1 n) := by
  unfold State.zeroFill
  repeat' first
    | (with_reducible first | assumption | apply State_wrote_keeps | apply keepsAt_of | apply keepsAt_draw | apply keepsAt_zero | apply keepsAt_drop
                            | apply keeps_fold | apply keeps_fold_pair | (intro _) | apply keeps_ite) | simp only [keeps_mk] | split

theorem State_strike_keeps {a s : State} (h : Keeps a s) (beat : Nat) (bit : Nat) : Keeps a (State.strike s beat bit) := by
  unfold State.strike
  repeat' first
    | (with_reducible first | assumption | apply keepsAt_of | apply keepsAt_draw | apply keepsAt_run | apply keepsAt_put | apply keeps_ite)
    | simp only [keeps_mk] | split

theorem State_record_keeps {a s : State} (h : Keeps a s) (r : Record) : Keeps a (State.record s r) := by
  unfold State.record
  repeat' first
    | (with_reducible first | assumption | apply State_bump_keeps | apply State_irq_keeps | apply State_putBeats_keeps | apply State_setF_keeps
                            | apply keepsAt_of | apply keepsAt_draw | (intro _) | apply keeps_ite) | simp only [keeps_mk] | split

theorem State_queueRepair_keeps {a s : State} (h : Keeps a s) (ba : Nat) (bytes : List Byte) : Keeps a (State.queueRepair s ba bytes) := by
  unfold State.queueRepair
  repeat' first
    | (with_reducible first | assumption | apply State_bump_keeps | apply keepsAt_of | apply keepsAt_draw | apply keepsAt_put | apply keeps_ite)
    | simp only [keeps_mk] | split

theorem State_eccReport_keeps {a s : State} (h : Keeps a s) (rd : Reader) (ba : Nat) (syn : BitVec 16) (cls : Nat) (fixed : List Byte) :
    Keeps a (State.eccReport s rd ba syn cls fixed) := by
  unfold State.eccReport
  repeat' first
    | (with_reducible first | assumption | apply State_bump_keeps | apply State_setF_keeps | apply State_irq_keeps | apply State_queueRepair_keeps
                            | apply State_record_keeps | apply keeps_ite) | dsimp only | split

theorem State_readBeat_keeps {a s : State} (h : Keeps a s) (rd : Reader) (ba : Nat) : Keeps a (State.readBeat s rd ba).1 := by
  unfold State.readBeat
  repeat' first
    | (with_reducible first | assumption | apply State_eccReport_keeps | apply keeps_ite) | dsimp only | split

theorem State_readMem_keeps {a s : State} (h : Keeps a s) (rd : Reader) (bankView : Bool) (a1 : Nat) (n : Nat) :
    Keeps a (State.readMem s rd bankView a1 n).1 := by
  unfold State.readMem
  repeat' first
    | (with_reducible first | assumption | apply State_readBeat_keeps | (refine keeps_of_pair (p := State.readBeat _ _ _) ‹_› ?_) | apply keeps_fold
                            | apply keeps_fold_pair | (intro _) | apply keeps_ite) | dsimp only | split

theorem State_storeBeat_keeps {a s : State} (h : Keeps a s) (beat : Nat) (bytes : List Byte) (syn : BitVec 16) :
    Keeps a (State.storeBeat s beat bytes syn) := by
  unfold State.storeBeat
  repeat' first
    | (with_reducible first | assumption | apply State_wrote_keeps | apply keepsAt_of | apply keepsAt_draw | apply keepsAt_run | apply keepsAt_put
                            | apply keeps_ite) | simp only [keeps_mk] | split

theorem State_noteRead_keeps {a s : State} (h : Keeps a s) (rd : Reader) (bankView : Bool) (a1 : Nat) (n : Nat) :
    Keeps a (State.noteRead s rd bankView a1 n) := by
  unfold State.noteRead
  repeat' first
    | (with_reducible first | assumption | apply State_readMem_keeps | (refine keeps_of_pair (p := State.readMem _ _ _ _ _) ‹_› ?_)
                            | apply keeps_ite) | dsimp only | split

theorem State_writeBeat_keeps {a s : State} (h : Keeps a s) (beat : Nat) (off : Nat) (l : List Byte) (badParity : Bool) (poison : Bool) (rmw : Reader) :
    Keeps a (State.writeBeat s beat off l badParity poison rmw) := by
  unfold State.writeBeat
  repeat' first
    | (with_reducible first | assumption | apply State_bump_keeps | apply State_storeBeat_keeps | apply State_readBeat_keeps
                            | (refine keeps_of_pair (p := State.readBeat _ _ _) ‹_› ?_) | apply keeps_ite) | dsimp only | split

theorem State_writeMem_keeps {a s : State} (h : Keeps a s) (bankView : Bool) (a1 : Nat) (l : List Byte) (badParity : Bool) (poison : Bool) :
    Keeps a (State.writeMem s bankView a1 l badParity poison) := by
  unfold State.writeMem
  repeat' first
    | (with_reducible first | assumption | apply State_writeBeat_keeps | apply keeps_fold | apply keeps_fold_pair | (intro _) | apply keeps_ite)
    | dsimp only | split

theorem State_poke_keeps {a s : State} (h : Keeps a s) (bankView : Bool) (a1 : Nat) (l : List Byte) : Keeps a (State.poke s bankView a1 l) := by
  unfold State.poke
  repeat' first
    | (with_reducible first | assumption | apply State_writeMem_keeps | apply keeps_ite) | dsimp only | split

theorem State_writeMarked_keeps {a s : State} (h : Keeps a s) (bankView : Bool) (a1 : Nat) (l : List (Byte × Bool)) :
    Keeps a (State.writeMarked s bankView a1 l) := by
  unfold State.writeMarked
  repeat' first
    | (with_reducible first | assumption | apply State_writeBeat_keeps | apply keeps_fold | apply keeps_fold_pair | (intro _) | apply keeps_ite)
    | dsimp only | split

theorem State_deny_keeps {a s : State} (h : Keeps a s) (p : Nat) : Keeps a (State.deny s p) := by
  unfold State.deny
  repeat' first
    | (with_reducible first | assumption | apply State_bump_keeps | apply keeps_ite) | dsimp only | split

theorem State_pushBack_keeps {a s : State} (h : Keeps a s) (c : Nat) (e : Event) : Keeps a (State.pushBack s c e) := by
  unfold State.pushBack
  repeat' first
    | (with_reducible first | assumption | apply State_poke_keeps | apply State_setF_keeps | apply keeps_ite) | dsimp only | split

theorem State_loseEvent_keeps {a s : State} (h : Keeps a s) (c : Nat) : Keeps a (State.loseEvent s c) := by
  unfold State.loseEvent
  repeat' first
    | (with_reducible first | assumption | apply State_modCx_keeps | apply State_bump_keeps | apply keeps_ite) | dsimp only | split

theorem State_post_keeps {a s : State} (h : Keeps a s) (c : Nat) (e : Event) : Keeps a (State.post s c e) := by
  unfold State.post
  repeat' first
    | (with_reducible first | assumption | apply State_loseEvent_keeps | apply State_pushBack_keeps | apply State_modCx_keeps | apply keeps_ite)
    | dsimp only | split

theorem State_postState_keeps {a s : State} (h : Keeps a s) (c : Nat) (st : Nat) : Keeps a (State.postState s c st) := by
  unfold State.postState
  repeat' first
    | (with_reducible first | assumption | apply State_post_keeps | apply keeps_ite) | dsimp only | split

theorem State_setFrame_keeps {a s : State} (h : Keeps a s) (pfn : Nat) (obj : Nat) (used : Bool) : Keeps a (State.setFrame s pfn obj used) := by
  unfold State.setFrame
  repeat' first
    | (with_reducible first | assumption | apply State_poke_keeps | apply keeps_ite) | dsimp only | split

theorem State_setObj_keeps {a s : State} (h : Keeps a s) (o : Nat) (x : Obj) : Keeps a (State.setObj s o x) := by
  unfold State.setObj
  repeat' first
    | (with_reducible first | assumption | apply State_poke_keeps | apply keeps_ite) | dsimp only | split

theorem State_setRefs_keeps {a s : State} (h : Keeps a s) (o : Nat) (v : Nat) : Keeps a (State.setRefs s o v) := by
  unfold State.setRefs
  repeat' first
    | (with_reducible first | assumption | apply State_poke_keeps | apply keeps_ite) | dsimp only | split

theorem State_noteWalk_keeps {a s : State} (h : Keeps a s) (c : Nat) (va : Nat) : Keeps a (State.noteWalk s c va) := by
  unfold State.noteWalk
  repeat' first
    | (with_reducible first | assumption | apply State_noteRead_keeps | apply keeps_ite) | dsimp only | split

theorem State_readVa_keeps {a s : State} (h : Keeps a s) (rd : Reader) (c : Nat) (va : Nat) (n : Nat) : Keeps a (State.readVa s rd c va n).1 := by
  unfold State.readVa
  repeat' first
    | (with_reducible first | assumption | apply State_noteWalk_keeps | apply State_readMem_keeps
                            | (refine keeps_of_pair (p := State.readMem _ _ _ _ _) ‹_› ?_) | apply keeps_fold | apply keeps_fold_pair | (intro _)
                            | apply keeps_ite) | dsimp only | split

theorem State_writeVa_keeps {a s : State} (h : Keeps a s) (c : Nat) (va : Nat) (l : List Byte) (poison : Bool) :
    Keeps a (State.writeVa s c va l poison) := by
  unfold State.writeVa
  repeat' first
    | (with_reducible first | assumption | apply State_noteWalk_keeps | apply State_writeMem_keeps | apply keeps_fold | apply keeps_fold_pair
                            | (intro _) | apply keeps_ite) | dsimp only | split

theorem State_writeVaMarked_keeps {a s : State} (h : Keeps a s) (c : Nat) (va : Nat) (l : List (Byte × Bool)) :
    Keeps a (State.writeVaMarked s c va l) := by
  unfold State.writeVaMarked
  repeat' first
    | (with_reducible first | assumption | apply State_noteWalk_keeps | apply State_writeMarked_keeps | apply keeps_fold | apply keeps_fold_pair
                            | (intro _) | apply keeps_ite) | dsimp only | split

theorem State_noteDesc_keeps {a s : State} (h : Keeps a s) (rd : Reader) (c : Nat) (x0 : Nat) : Keeps a (State.noteDesc s rd c x0) := by
  unfold State.noteDesc
  repeat' first
    | (with_reducible first | assumption | apply State_noteRead_keeps | apply keeps_ite) | dsimp only | split

theorem State_storeGroup_keeps {a s : State} (h : Keeps a s) (l : List (Nat × WByte)) : Keeps a (State.storeGroup s l) := by
  unfold State.storeGroup
  repeat' first
    | (with_reducible first | assumption | apply State_readBeat_keeps | apply State_storeBeat_keeps
                            | (refine keeps_of_pair (p := State.readBeat _ _ _) ‹_› ?_) | apply keeps_fold | apply keeps_fold_pair | (intro _)
                            | apply keeps_ite) | dsimp only | split

theorem State_storeBytes_keeps {a s : State} (h : Keeps a s) (c : Nat) (w : List WByte) : Keeps a (State.storeBytes s c w) := by
  unfold State.storeBytes
  repeat' first
    | (with_reducible first | assumption | apply State_noteWalk_keeps | apply State_storeGroup_keeps | apply keeps_fold | apply keeps_fold_pair
                            | (intro _) | apply keeps_ite) | dsimp only | split

theorem State_setBu_keeps {a s : State} (h : Keeps a s) (k : Nat) (b : BuState) : Keeps a (State.setBu s k b) := by
  unfold State.setBu
  repeat' first
    | (with_reducible first | assumption | apply keepsAt_of | apply keepsAt_draw | apply keepsAt_put | apply keeps_ite) | simp only [keeps_mk]
    | split

theorem State_modBu_keeps {a s : State} (h : Keeps a s) (k : Nat) (g : BuState → BuState) : Keeps a (State.modBu s k g) := by
  unfold State.modBu
  repeat' first
    | (with_reducible first | assumption | apply State_setBu_keeps | apply keeps_ite) | dsimp only | split

theorem State_putBu_keeps {a s : State} (h : Keeps a s) (c : BuCmd) : Keeps a (State.putBu s c) := by
  unfold State.putBu
  repeat' first
    | (with_reducible first | assumption | apply keepsAt_of | apply keepsAt_draw | apply keeps_ite) | simp only [keeps_mk] | split

theorem State_buWrite_keeps {a s : State} (h : Keeps a s) (c : BuCmd) (bank : Nat) (off : Nat) (l : List Byte) (poison : Bool) :
    Keeps a (State.buWrite s c bank off l poison) := by
  unfold State.buWrite
  repeat' first
    | (with_reducible first | assumption | apply State_writeBeat_keeps | apply keeps_fold | apply keeps_fold_pair | (intro _) | apply keeps_ite)
    | dsimp only | split

theorem State_writeDigest_keeps {a s : State} (h : Keeps a s) (c : BuCmd) (v : Nat) (poison : Bool) : Keeps a (State.writeDigest s c v poison) := by
  unfold State.writeDigest
  repeat' first
    | (with_reducible first | assumption | apply State_buWrite_keeps | apply keeps_ite) | dsimp only | split

theorem State_yieldTo_keeps {a s : State} (h : Keeps a s) (c : BuCmd) : Keeps a (State.yieldTo s c) := by
  unfold State.yieldTo
  repeat' first
    | (with_reducible first | assumption | apply keepsAt_of | apply keepsAt_draw | apply keeps_ite) | simp only [keeps_mk] | split

theorem State_buIssue_keeps {a s : State} (h : Keeps a s) (c : BuCmd) : KeepsIS a (State.buIssue s c) := by
  unfold State.buIssue
  repeat' first
    | (with_reducible first | assumption | apply State_writeDigest_keeps | apply State_yieldTo_keeps | apply keepsAt_of | apply keepsAt_draw
                            | apply keepsIS_taken | exact keepsIS_stall | (intro _) | apply keeps_ite) | simp only [keeps_mk] | split

theorem State_noteBanks_keeps {a s : State} (h : Keeps a s) (n : Nat) (keys : List Nat) : Keeps a (State.noteBanks s n keys) := by
  unfold State.noteBanks
  repeat' first
    | (with_reducible first | assumption | apply State_modSlice_keeps | apply keeps_fold | apply keeps_fold_pair | (intro _) | apply keeps_ite)
    | dsimp only | split

theorem State_startParts_keeps {a s : State} (h : Keeps a s) (c : BuCmd) (ok : BuPart → Bool) : Keeps a (State.startParts s c ok) := by
  unfold State.startParts
  repeat' first
    | (with_reducible first | assumption | apply State_modBu_keeps | apply State_noteBanks_keeps | apply State_putBu_keeps | apply keeps_fold
                            | apply keeps_fold_pair | (intro _) | apply keeps_ite) | dsimp only | split

theorem State_openRow_keeps {a s : State} (h : Keeps a s) (k : Nat) (off : Nat) : Keeps a (State.openRow s k off).1 := by
  unfold State.openRow
  repeat' first
    | (with_reducible first | assumption | apply State_setBu_keeps | apply keeps_ite) | dsimp only | split

theorem State_buRead_keeps {a s : State} (h : Keeps a s) (c : BuCmd) (bank : Nat) (off : Nat) : Keeps a (State.buRead s c bank off).1 := by
  unfold State.buRead
  repeat' first
    | (with_reducible first | assumption | apply State_readBeat_keeps | apply State_openRow_keeps
                            | (refine keeps_of_pair (p := State.readBeat _ _ _) ‹_› ?_) | (refine keeps_of_pair (p := State.openRow _ _ _) ‹_› ?_)
                            | apply keeps_ite) | dsimp only | split

theorem State_buReads_keeps {a s : State} (h : Keeps a s) (c : BuCmd) (bank : Nat) (off : Nat) (n : Nat) :
    Keeps a (State.buReads s c bank off n).1 := by
  unfold State.buReads
  repeat' first
    | (with_reducible first | assumption | apply State_buRead_keeps | (refine keeps_of_pair (p := State.buRead _ _ _ _) ‹_› ?_) | apply keeps_fold
                            | apply keeps_fold_pair | (intro _) | apply keeps_ite) | dsimp only | split

theorem State_dotLoad_keeps {a s : State} (h : Keeps a s) (c : BuCmd) (p : BuPart) : Keeps a (State.dotLoad s c p).1 := by
  unfold State.dotLoad
  repeat' first
    | (with_reducible first | assumption | apply State_buReads_keeps | (refine keeps_of_pair (p := State.buReads _ _ _ _ _) ‹_› ?_)
                            | apply keeps_ite) | dsimp only | split

theorem State_emitResults_keeps {a s : State} (h : Keeps a s) (c : BuCmd) (p : BuPart) (out : List Flit) :
    Keeps a (State.emitResults s c p out).1 := by
  unfold State.emitResults
  repeat' first
    | (with_reducible first | assumption | apply State_buWrite_keeps | apply State_modBu_keeps | apply keeps_fold | apply keeps_fold_pair
                            | (intro _) | apply keeps_ite) | dsimp only | split

theorem State_sendHead_keeps {a s : State} (h : Keeps a s) (c : BuCmd) (p : BuPart) : Keeps a (State.sendHead s c p).1 := by
  unfold State.sendHead
  repeat' first
    | (with_reducible first | assumption | apply State_emitResults_keeps | (refine keeps_of_pair (p := State.emitResults _ _ _ _) ‹_› ?_)
                            | apply keeps_ite) | dsimp only | split

theorem State_dotStep_keeps {a s : State} (h : Keeps a s) (c : BuCmd) (p : BuPart) : Keeps a (State.dotStep s c p).1 := by
  unfold State.dotStep
  repeat' first
    | (with_reducible first | assumption | apply State_dotLoad_keeps | apply State_buReads_keeps | apply State_sendHead_keeps
                            | (refine keeps_of_pair (p := State.dotLoad _ _ _) ‹_› ?_)
                            | (refine keeps_of_pair (p := State.buReads _ _ _ _ _) ‹_› ?_)
                            | (refine keeps_of_pair (p := State.sendHead _ _ _) ‹_› ?_) | apply keeps_ite) | dsimp only | split

theorem State_eachPart_keeps {a : State} {s : State} (h : Keeps a s) (c : BuCmd) (g : State → BuPart → State × BuPart)
    (hg : ∀ s p, Keeps a s → Keeps a (g s p).1) : Keeps a (State.eachPart s c g).1 := by
  unfold State.eachPart
  exact keeps_fold_pair (fun _ _ hp => hg _ _ hp) h

theorem State_digestWhenRead_keeps {a s : State} (h : Keeps a s) (c : BuCmd) (was : BuCmd) : Keeps a (State.digestWhenRead s c was) := by
  unfold State.digestWhenRead
  repeat' first
    | (with_reducible first | assumption | apply State_writeDigest_keeps | apply keeps_ite) | dsimp only | split

theorem State_holdRunahead_keeps {a s : State} (h : Keeps a s) (c : BuCmd) : Keeps a (State.holdRunahead s c) := by
  unfold State.holdRunahead
  repeat' first
    | (with_reducible first | assumption | apply State_bump_keeps | apply State_putBu_keeps | apply keepsAt_of | apply keepsAt_draw | (intro _)
                            | apply keeps_ite) | simp only [keeps_mk] | split

theorem State_quietRead_keeps {a : State} {s t : State} (h : Keeps a s) (ht : Keeps a t) (quiet : Bool) : Keeps a (State.quietRead s t quiet) := by
  unfold State.quietRead
  split
  · simp only [keeps_mk]; exact keepsAt_of h
  · exact ht

theorem State_chainParity_keeps {a s : State} (h : Keeps a s) (u : BuId) (ctx : Nat) : Keeps a (State.chainParity s u ctx) := by
  unfold State.chainParity
  repeat' first
    | (with_reducible first | assumption | apply State_record_keeps | apply State_bump_keeps | apply keeps_ite) | dsimp only | split

theorem State_dropFlits_keeps {a s : State} (h : Keeps a s) (c : BuCmd) : Keeps a (State.dropFlits s c) := by
  unfold State.dropFlits
  repeat' first
    | (with_reducible first | assumption | apply State_modBu_keeps | apply keeps_fold | apply keeps_fold_pair | (intro _) | apply keeps_ite)
    | dsimp only | split

theorem State_cancelBus_keeps {a s : State} (h : Keeps a s) (ctx : Nat) (who : Issuer → Bool) : Keeps a (State.cancelBus s ctx who) := by
  unfold State.cancelBus
  repeat' first
    | (with_reducible first | assumption | apply State_dropFlits_keeps | apply keepsAt_of | apply keepsAt_draw | apply keeps_fold
                            | apply keeps_fold_pair | (intro _) | apply keeps_ite) | simp only [keeps_mk] | split

theorem State_releaseBus_keeps {a s : State} (h : Keeps a s) (c : BuCmd) : Keeps a (State.releaseBus s c) := by
  unfold State.releaseBus
  repeat' first
    | (with_reducible first | assumption | apply State_setBu_keeps | apply keepsAt_of | apply keepsAt_draw | apply keeps_fold
                            | apply keeps_fold_pair | (intro _) | apply keeps_ite) | simp only [keeps_mk] | split

theorem State_buCount_keeps {a s : State} (h : Keeps a s) (c : BuCmd) (st : Nat) (p : Option BuPart) : Keeps a (State.buCount s c st p) := by
  unfold State.buCount
  repeat' first
    | (with_reducible first | assumption | apply State_bump_keeps | apply State_setF_keeps | apply State_record_keeps | apply State_irq_keeps
                            | apply keeps_ite) | dsimp only | split

theorem State_putPart_keeps {a s : State} (h : Keeps a s) (c : BuCmd) (p : BuPart) : Keeps a (State.putPart s c p) := by
  unfold State.putPart
  repeat' first
    | (with_reducible first | assumption | apply State_putBu_keeps | apply keeps_ite) | dsimp only | split

theorem State_uEndPart_keeps {a s : State} (h : Keeps a s) (x : UCtx) (cyc : Nat) (fault : Nat) : Keeps a (State.uEndPart s x cyc fault) := by
  unfold State.uEndPart
  repeat' first
    | (with_reducible first | assumption | apply State_putPart_keeps | apply keeps_ite) | dsimp only | split

theorem uStep_keeps {a : State} {s : State} (h : Keeps a s) (u : BuId) (op : Nat) (g : State → UCtx → UWord → BuState → UOut)
    (hg : ∀ s x w b, Keeps a s → Keeps a (g s x w b).s) : KeepsR a (uStep u op s g) := by
  unfold uStep
  refine actSome_keeps h fun x s hs => ?_
  have hb := State_setBu_keeps (hg s x (uWord (spGet 0 s.ustore (buIdKey u * 1024 + (s.bu (buIdKey u)).pc))) (s.bu (buIdKey u)) hs)
  dsimp only
  split
  · exact State_uEndPart_keeps hs _ _ _
  · split
    · exact hs
    · split
      · exact State_uEndPart_keeps (hb _ _) _ _ _
      · exact State_putPart_keeps (hb _ _) _ _

theorem uReg_keeps {a s : State} (h : Keeps a s) (u : BuId) (op : Nat) (cyc : Nat) (g : UWord → BuState → BuState) :
    KeepsR a (uReg u op cyc s g) := by
  unfold uReg
  repeat' first
    | (with_reducible first | assumption | apply uStep_keeps | apply keepsR_next | exact keepsR_fault | exact keepsR_refused | (intro _)
                            | apply keeps_ite) | dsimp only | split

theorem uInt_keeps {a s : State} (h : Keeps a s) (u : BuId) (op : Nat) (cyc : Nat) (o : IOp) : KeepsR a (uInt u op cyc s o) := by
  unfold uInt
  repeat' first
    | (with_reducible first | assumption | apply uReg_keeps | apply keepsR_next | exact keepsR_fault | exact keepsR_refused | apply keeps_ite)
    | dsimp only | split

theorem uBranch_keeps {a s : State} (h : Keeps a s) (u : BuId) (op : Nat) (g : UWord → BuState → Bool × BuState) : KeepsR a (uBranch u op s g) := by
  unfold uBranch
  repeat' first
    | (with_reducible first | assumption | apply uStep_keeps | apply keepsR_next | exact keepsR_fault | exact keepsR_refused | (intro _)
                            | apply keeps_ite) | dsimp only | split

theorem uLoad_keeps {a s : State} (h : Keeps a s) (u : BuId) (op : Nat) (n : Nat) (base : Nat) (g : UWord → BuState → List Byte → BuState × Nat × Nat) :
    KeepsR a (uLoad u op n base s g) := by
  unfold uLoad
  repeat' first
    | (with_reducible first | assumption | apply uStep_keeps | apply State_buRead_keeps | apply keepsR_next | exact keepsR_fault
                            | exact keepsR_refused | (refine keeps_of_pair (p := State.buRead _ _ _ _) ‹_› ?_) | (intro _) | apply keeps_ite)
    | dsimp only | split

theorem uStore_keeps {a s : State} (h : Keeps a s) (u : BuId) (op : Nat) (n : Nat) (base : Nat) (part : Bool) (g : UWord → BuState → List Byte) :
    KeepsR a (uStore u op n base part s g) := by
  unfold uStore
  repeat' first
    | (with_reducible first | assumption | apply uStep_keeps | apply State_openRow_keeps | apply State_buWrite_keeps | apply keepsR_next
                            | exact keepsR_fault | exact keepsR_refused | (refine keeps_of_pair (p := State.openRow _ _ _) ‹_› ?_) | (intro _)
                            | apply keeps_ite) | dsimp only | split

theorem uElem_keeps {a s : State} (h : Keeps a s) (u : BuId) (op : Nat) (o : IOp) (f : Fv → Fv → Fv) : KeepsR a (uElem u op s o f) := by
  unfold uElem
  repeat' first
    | (with_reducible first | assumption | apply uStep_keeps | apply keepsR_next | exact keepsR_fault | exact keepsR_refused | apply keeps_fold
                            | apply keeps_fold_pair | (intro _) | apply keeps_ite) | dsimp only | split

theorem uRecv_keeps {a s : State} (h : Keeps a s) (u : BuId) (op : Nat) (g : UCtx → UWord → BuState → Partial → BuState) :
    KeepsR a (uRecv u op s g) := by
  unfold uRecv
  repeat' first
    | (with_reducible first | assumption | apply actSome_keeps | apply State_uEndPart_keeps | apply State_putPart_keeps | apply State_setBu_keeps
                            | apply keepsR_next | exact keepsR_fault | exact keepsR_refused | (intro _) | apply keeps_ite) | dsimp only | split

theorem State_setHealth_keeps {a s : State} (h : Keeps a s) (n : Nat) (st : Nat) : Keeps a (State.setHealth s n st) := by
  unfold State.setHealth
  repeat' first
    | (with_reducible first | assumption | apply State_setF_keeps | apply State_record_keeps | apply keepsAt_of | apply keepsAt_draw
                            | apply keeps_ite) | simp only [keeps_mk] | split

theorem State_healthError_keeps {a s : State} (h : Keeps a s) (n : Nat) (confirmed : Bool) : Keeps a (State.healthError s n confirmed) := by
  unfold State.healthError
  repeat' first
    | (with_reducible first | assumption | apply State_setF_keeps | apply State_setHealth_keeps | apply keeps_ite) | dsimp only | split

theorem State_parityAt_keeps {a s : State} (h : Keeps a s) (n : Nat) (point : Nat) (slot : Nat) (bundle : Nat) :
    Keeps a (State.parityAt s n point slot bundle) := by
  unfold State.parityAt
  repeat' first
    | (with_reducible first | assumption | apply State_bump_keeps | apply State_record_keeps | apply State_healthError_keeps | apply keeps_ite)
    | dsimp only | split

theorem State_finishCmd_keeps {a s : State} (h : Keeps a s) (id : Nat) (status : Nat) (result : Nat) (detail : Nat) :
    Keeps a (State.finishCmd s id status result detail) := by
  unfold State.finishCmd
  repeat' first
    | (with_reducible first | assumption | apply keepsAt_of | apply keepsAt_draw | apply keeps_ite) | simp only [keeps_mk] | split

theorem State_openBanks_keeps {a s : State} (h : Keeps a s) (n : Nat) (c : Nat) (va : Nat) (len : Nat) : Keeps a (State.openBanks s n c va len) := by
  unfold State.openBanks
  repeat' first
    | (with_reducible first | assumption | apply State_noteBanks_keeps | (intro _) | apply keeps_ite) | dsimp only | split

theorem State_applyStore_keeps {a s : State} (h : Keeps a s) (n : Nat) (c : Nat) (t : Xfer) (w : List WByte) (flags : List (Nat × Nat)) :
    Keeps a (State.applyStore s n c t w flags) := by
  unfold State.applyStore
  repeat' first
    | (with_reducible first | assumption | apply State_storeBytes_keeps | apply State_openBanks_keeps | apply State_bump_keeps
                            | apply State_record_keeps | apply keeps_fold | apply keeps_fold_pair | (intro _) | apply keeps_ite) | dsimp only | split

theorem State_finishStores_keeps {a s : State} (h : Keeps a s) (n : Nat) : Keeps a (State.finishStores s n) := by
  unfold State.finishStores
  repeat' first
    | (with_reducible first | assumption | apply State_applyStore_keeps | apply State_modSlice_keeps | apply keeps_fold | apply keeps_fold_pair
                            | (intro _) | apply keeps_ite) | dsimp only | split

theorem State_dropStaging_keeps {a s : State} (h : Keeps a s) (n : Nat) : Keeps a (State.dropStaging s n) := by
  unfold State.dropStaging
  repeat' first
    | (with_reducible first | assumption | apply State_bump_keeps | apply State_modSlice_keeps | apply keeps_ite) | dsimp only | split

theorem State_stopSlice_keeps {a s : State} (h : Keeps a s) (n : Nat) : Keeps a (State.stopSlice s n) := by
  unfold State.stopSlice
  repeat' first
    | (with_reducible first | assumption | apply State_emit_keeps | apply State_dropStaging_keeps | apply State_modSlice_keeps
                            | apply State_finishStores_keeps | apply keeps_ite) | dsimp only | split

theorem State_discardTiles_keeps {a s : State} (h : Keeps a s) (n : Nat) (gone : RaTile → Bool) : Keeps a (State.discardTiles s n gone) := by
  unfold State.discardTiles
  repeat' first
    | (with_reducible first | assumption | apply State_bump_keeps | apply State_setSlice_keeps | apply keeps_ite) | dsimp only | split

theorem State_discardDots_keeps {a s : State} (h : Keeps a s) (c : Nat) (gone : BuCmd → Bool) : Keeps a (State.discardDots s c gone) := by
  unfold State.discardDots
  repeat' first
    | (with_reducible first | assumption | apply State_bump_keeps | apply keepsAt_of | apply keepsAt_draw | apply keeps_fold
                            | apply keeps_fold_pair | (intro _) | apply keeps_ite) | simp only [keeps_mk] | split

theorem State_cancelRa_keeps {a s : State} (h : Keeps a s) (c : Nat) (slices : List Nat) : Keeps a (State.cancelRa s c slices) := by
  unfold State.cancelRa
  repeat' first
    | (with_reducible first | assumption | apply State_discardTiles_keeps | apply State_modSlice_keeps | apply State_discardDots_keeps
                            | apply State_modCx_keeps | apply keeps_fold | apply keeps_fold_pair | (intro _) | apply keeps_ite) | dsimp only | split

end Sys2Proof.Laws
end

