-- ==== Sys2Proof/Laws/Frame2.lean ====
section
/-! SUPPORT. One lemma for each shared operation that gives a state (part 2 of 4): it carries `Keeps`.
From `State.stepEpoch` to `State.retire`. -/

namespace Sys2Proof.Laws
open Sys2Proof Sys2Proof.Machine

theorem State_stepEpoch_keeps {a s : State} (h : Keeps a s) (c : Nat) (slices : List Nat) : Keeps a (State.stepEpoch s c slices) := by
  unfold State.stepEpoch
  repeat' first
    | (with_reducible first | assumption | apply State_discardTiles_keeps | apply State_discardDots_keeps | apply State_modCx_keeps
                            | apply keeps_fold | apply keeps_fold_pair | (intro _) | apply keeps_ite) | dsimp only | split

theorem State_offer_keeps {a s : State} (h : Keeps a s) : Keeps a (State.offer s) := by
  unfold State.offer
  repeat' first
    | (with_reducible first | assumption | apply keepsAt_of | apply keepsAt_draw | apply keeps_ite) | simp only [keeps_mk] | split

theorem State_stopGang_keeps {a s : State} (h : Keeps a s) (c : Nat) : Keeps a (State.stopGang s c) := by
  unfold State.stopGang
  repeat' first
    | (with_reducible first | assumption | apply State_offer_keeps | apply State_stopSlice_keeps | apply State_cancelBus_keeps
                            | apply State_setF_keeps | apply State_modCx_keeps | apply keeps_fold | apply keeps_fold_pair | (intro _)
                            | apply keeps_ite) | dsimp only | split

theorem State_stopProgram_keeps {a s : State} (h : Keeps a s) (c : Nat) : Keeps a (State.stopProgram s c) := by
  unfold State.stopProgram
  repeat' first
    | (with_reducible first | assumption | apply State_stopGang_keeps | apply State_cancelRa_keeps | apply keeps_ite) | dsimp only | split

theorem State_captureDumps_keeps {a s : State} (h : Keeps a s) (c : Nat) : Keeps a (State.captureDumps s c) := by
  unfold State.captureDumps
  repeat' first
    | (with_reducible first | assumption | apply State_modSlice_keeps | apply keeps_fold | apply keeps_fold_pair | (intro _) | apply keeps_ite)
    | dsimp only | split

theorem State_overrun_keeps {a s : State} (h : Keeps a s) (c : Nat) (shed : Bool) : Keeps a (State.overrun s c shed) := by
  unfold State.overrun
  repeat' first
    | (with_reducible first | assumption | apply State_modCx_keeps | apply State_shed_keeps | apply State_bump_keeps | apply State_setF_keeps
                            | apply State_irq_keeps | (intro _) | apply keeps_ite) | dsimp only | split

theorem State_cutStream_keeps {a s : State} (h : Keeps a s) (c : Nat) (shed : Bool) : Keeps a (State.cutStream s c shed) := by
  unfold State.cutStream
  repeat' first
    | (with_reducible first | assumption | apply State_captureDumps_keeps | apply State_stopProgram_keeps | apply State_overrun_keeps
                            | apply keeps_ite) | dsimp only | split

theorem State_haltHost_keeps {a s : State} (h : Keeps a s) (c : Nat) : Keeps a (State.haltHost s c) := by
  unfold State.haltHost
  repeat' first
    | (with_reducible first | assumption | apply State_captureDumps_keeps | apply State_stopGang_keeps | apply State_finishCmd_keeps
                            | apply State_modCx_keeps | (intro _) | apply keeps_ite) | dsimp only | split

theorem State_cutHost_keeps {a s : State} (h : Keeps a s) (c : Nat) : Keeps a (State.cutHost s c) := by
  unfold State.cutHost
  repeat' first
    | (with_reducible first | assumption | apply State_modCx_keeps | apply State_haltHost_keeps | apply State_stopProgram_keeps
                            | apply State_bump_keeps | apply State_irq_keeps | (intro _) | apply keeps_ite) | dsimp only | split

theorem State_latchShadow_keeps {a s : State} (h : Keeps a s) (c : Nat) (frame : List Byte) (reason : Nat) :
    Keeps a (State.latchShadow s c frame reason) := by
  unfold State.latchShadow
  repeat' first
    | (with_reducible first | assumption | apply State_bump_keeps | apply State_setF_keeps | apply State_setB_keeps | apply keeps_fold
                            | apply keeps_fold_pair | (intro _) | apply keeps_ite) | dsimp only | split

theorem State_startPush_keeps {a s : State} (h : Keeps a s) (c : Nat) : Keeps a (State.startPush s c) := by
  unfold State.startPush
  repeat' first
    | (with_reducible first | assumption | apply State_modCx_keeps | apply keepsAt_of | apply keepsAt_draw | (intro _) | apply keeps_ite)
    | simp only [keeps_mk] | split

theorem State_recordNum_keeps {a s : State} (h : Keeps a s) (r : Record) : Keeps a (State.recordNum s r).1 := by
  unfold State.recordNum
  repeat' first
    | (with_reducible first | assumption | apply State_record_keeps | apply keepsAt_of | apply keepsAt_draw | apply keeps_ite)
    | simp only [keeps_mk] | split

theorem State_reportFault_keeps {a s : State} (h : Keeps a s) (c : Nat) (f : FaultInfo) (n : Nat) (member : Nat) (x : Slice) :
    Keeps a (State.reportFault s c f n member x) := by
  unfold State.reportFault
  repeat' first
    | (with_reducible first | assumption | apply State_recordNum_keeps | apply State_latchShadow_keeps | apply State_writeVa_keeps
                            | apply State_setF_keeps | apply State_startPush_keeps | apply State_bump_keeps | apply State_record_keeps
                            | apply State_post_keeps | apply State_finishCmd_keeps | apply State_modCx_keeps | apply State_postState_keeps
                            | (refine keeps_of_pair (p := State.recordNum _ _) ‹_› ?_) | (intro _) | apply keeps_ite) | dsimp only | split

theorem State_programFault_keeps {a s : State} (h : Keeps a s) (n : Nat) (f : FaultInfo) : Keeps a (State.programFault s n f) := by
  unfold State.programFault
  repeat' first
    | (with_reducible first | assumption | apply State_reportFault_keeps | apply State_stopProgram_keeps | apply keeps_ite) | dsimp only | split

theorem State_lateFault_keeps {a s : State} (h : Keeps a s) (c : Nat) (n : Nat) (f : FaultInfo) : Keeps a (State.lateFault s c n f) := by
  unfold State.lateFault
  repeat' first
    | (with_reducible first | assumption | apply State_record_keeps | apply keeps_ite) | dsimp only | split

theorem State_conflict_keeps {a s : State} (h : Keeps a s) (cause : Nat) : Keeps a (State.conflict s cause) := by
  unfold State.conflict
  repeat' first
    | (with_reducible first | assumption | apply State_irq_keeps | apply State_bump_keeps | apply State_setF_keeps | apply State_setB_keeps
                            | apply keeps_ite) | dsimp only | split

theorem State_boundClock_keeps {a s : State} (h : Keeps a s) : Keeps a (State.boundClock s) := by
  unfold State.boundClock
  repeat' first
    | (with_reducible first | assumption | apply State_setF_keeps | apply keeps_ite) | dsimp only | split

theorem State_checkTarget_keeps {a s : State} (h : Keeps a s) : Keeps a (State.checkTarget s) := by
  unfold State.checkTarget
  repeat' first
    | (with_reducible first | assumption | apply State_conflict_keeps | apply keepsAt_of | apply keepsAt_draw | apply keeps_ite)
    | simp only [keeps_mk] | split

theorem State_setHostDuty_keeps {a s : State} (h : Keeps a s) (d : Nat) : Keeps a (State.setHostDuty s d) := by
  unfold State.setHostDuty
  repeat' first
    | (with_reducible first | assumption | apply State_setF_keeps | apply State_conflict_keeps | apply keeps_ite) | dsimp only | split

theorem State_applyDuties_keeps {a s : State} (h : Keeps a s) : Keeps a (State.applyDuties s) := by
  unfold State.applyDuties
  repeat' first
    | (with_reducible first | assumption | apply State_setF_keeps | apply State_setHostDuty_keeps | apply keepsAt_of | apply keepsAt_draw
                            | apply keeps_ite) | simp only [keeps_mk] | split

theorem State_settleDuties_keeps {a s : State} (h : Keeps a s) : Keeps a (State.settleDuties s) := by
  unfold State.settleDuties
  repeat' first
    | (with_reducible first | assumption | apply State_applyDuties_keeps | apply keeps_ite) | dsimp only | split

theorem State_shed_keeps {a s : State} (h : Keeps a s) (g : Nat) : Keeps a (State.shed s g) := by
  unfold State.shed
  repeat' first
    | (with_reducible first | assumption | apply State_setF_keeps | apply State_conflict_keeps | apply State_irq_keeps | apply State_bump_keeps
                            | apply keepsAt_of | apply keepsAt_draw | apply keeps_ite) | simp only [keeps_mk] | split

theorem State_raiseClock_keeps {a s : State} (h : Keeps a s) : Keeps a (State.raiseClock s) := by
  unfold State.raiseClock
  repeat' first
    | (with_reducible first | assumption | apply State_setF_keeps | apply keepsAt_of | apply keepsAt_draw | (intro _) | apply keeps_ite)
    | simp only [keeps_mk] | split

theorem State_governEdge_keeps {a s : State} (h : Keeps a s) : Keeps a (State.governEdge s) := by
  unfold State.governEdge
  repeat' first
    | (with_reducible first | assumption | apply State_applyDuties_keeps | apply State_shed_keeps | apply State_setF_keeps
                            | apply State_raiseClock_keeps | apply keepsAt_of | apply keepsAt_draw | apply keeps_ite) | simp only [keeps_mk] | split

theorem State_protect_keeps {a s : State} (h : Keeps a s) : Keeps a (State.protect s) := by
  unfold State.protect
  repeat' first
    | (with_reducible first | assumption | apply State_setF_keeps | apply State_setB_keeps | apply State_conflict_keeps
                            | apply State_setHostDuty_keeps | apply keepsAt_of | apply keepsAt_draw | apply keeps_ite) | simp only [keeps_mk]
    | split

theorem State_unprotect_keeps {a s : State} (h : Keeps a s) : Keeps a (State.unprotect s) := by
  unfold State.unprotect
  repeat' first
    | (with_reducible first | assumption | apply State_setB_keeps | apply keepsAt_of | apply keepsAt_draw | apply keeps_ite) | simp only [keeps_mk]
    | split

theorem State_trip_keeps {a s : State} (h : Keeps a s) (sensor : Nat) : Keeps a (State.trip s sensor) := by
  unfold State.trip
  repeat' first
    | (with_reducible first | assumption | apply State_cutStream_keeps | apply State_modCx_keeps | apply State_cutHost_keeps
                            | apply State_shed_keeps | apply State_setB_keeps | apply State_setF_keeps | apply State_conflict_keeps
                            | apply keepsAt_of | apply keepsAt_draw | apply keeps_fold | apply keeps_fold_pair | (intro _) | apply keeps_ite)
    | simp only [keeps_mk] | split

theorem State_watchHeat_keeps {a s : State} (h : Keeps a s) (sensor : Nat) : Keeps a (State.watchHeat s sensor) := by
  unfold State.watchHeat
  repeat' first
    | (with_reducible first | assumption | apply State_unprotect_keeps | apply State_protect_keeps | apply State_trip_keeps | apply keeps_ite)
    | dsimp only | split

theorem State_putHottest_keeps {a s : State} (h : Keeps a s) (f : Fld) (t : List Int) (lo : Nat) (hi : Nat) :
    Keeps a (State.putHottest s f t lo hi) := by
  unfold State.putHottest
  repeat' first
    | (with_reducible first | assumption | apply State_setF_keeps | apply keeps_ite) | dsimp only | split

theorem State_putSample_keeps {a s : State} (h : Keeps a s) (r : Sample) : Keeps a (State.putSample s r) := by
  unfold State.putSample
  repeat' first
    | (with_reducible first | assumption | apply State_setB_keeps | apply State_setF_keeps | apply State_putHottest_keeps | apply keeps_fold
                            | apply keeps_fold_pair | (intro _) | apply keeps_ite) | dsimp only | split

theorem State_watchBand_keeps {a s : State} (h : Keeps a s) (t : List Int) : Keeps a (State.watchBand s t) := by
  unfold State.watchBand
  repeat' first
    | (with_reducible first | assumption | apply keepsAt_of | apply keepsAt_draw | apply keeps_ite) | simp only [keeps_mk] | split

theorem State_throttleStep_keeps {a s : State} (h : Keeps a s) : Keeps a (State.throttleStep s) := by
  unfold State.throttleStep
  repeat' first
    | (with_reducible first | assumption | apply State_bump_keeps | apply State_settleDuties_keeps | apply keepsAt_of | apply keepsAt_draw
                            | apply keeps_ite) | simp only [keeps_mk] | split

theorem State_releaseStep_keeps {a s : State} (h : Keeps a s) : Keeps a (State.releaseStep s) := by
  unfold State.releaseStep
  repeat' first
    | (with_reducible first | assumption | apply State_settleDuties_keeps | apply keepsAt_of | apply keepsAt_draw | apply keeps_ite)
    | simp only [keeps_mk] | split

theorem State_modLane_keeps {a s : State} (h : Keeps a s) (l : Nat) (g : Lane → Lane) : Keeps a (State.modLane s l g) := by
  unfold State.modLane
  repeat' first
    | (with_reducible first | assumption | apply keepsAt_of | apply keepsAt_draw | apply keepsAt_put | apply keeps_ite) | simp only [keeps_mk]
    | split

theorem State_modGrp_keeps {a s : State} (h : Keeps a s) (g : Nat) (h : Grp → Grp) : Keeps a (State.modGrp s g h) := by
  unfold State.modGrp
  repeat' first
    | (with_reducible first | assumption | apply keepsAt_of | apply keepsAt_draw | apply keepsAt_put | apply keeps_ite) | simp only [keeps_mk]
    | split

theorem State_evalGroup_keeps {a s : State} (h : Keeps a s) (g : Nat) : Keeps a (State.evalGroup s g) := by
  unfold State.evalGroup
  repeat' first
    | (with_reducible first | assumption | apply State_setB_keeps | (intro _) | apply keeps_ite) | dsimp only | split

theorem State_evalGroups_keeps {a s : State} (h : Keeps a s) : Keeps a (State.evalGroups s) := by
  unfold State.evalGroups
  repeat' first
    | (with_reducible first | assumption | apply State_evalGroup_keeps | apply keeps_fold | apply keeps_fold_pair | (intro _) | apply keeps_ite)
    | dsimp only | split

theorem State_loseAlign_keeps {a s : State} (h : Keeps a s) (l : Nat) : Keeps a (State.loseAlign s l) := by
  unfold State.loseAlign
  repeat' first
    | (with_reducible first | assumption | apply State_setB_keeps | apply State_modLane_keeps | apply State_evalGroups_keeps | (intro _)
                            | apply keeps_ite) | dsimp only | split

theorem State_loseLock_keeps {a s : State} (h : Keeps a s) (l : Nat) : Keeps a (State.loseLock s l) := by
  unfold State.loseLock
  repeat' first
    | (with_reducible first | assumption | apply State_loseAlign_keeps | apply State_modLane_keeps | apply State_setB_keeps | apply keeps_ite)
    | dsimp only | split

theorem State_header_keeps {a s : State} (h : Keeps a s) (l : Nat) (ok : Bool) : Keeps a (State.header s l ok) := by
  unfold State.header
  repeat' first
    | (with_reducible first | assumption | apply State_modLane_keeps | apply keeps_ite) | dsimp only | split

theorem State_pass_keeps {a s : State} (h : Keeps a s) (l : Nat) : Keeps a (State.pass s l) := by
  unfold State.pass
  repeat' first
    | (with_reducible first | assumption | apply State_modLane_keeps | apply State_evalGroups_keeps | (intro _) | apply keeps_ite)
    | dsimp only | split

theorem State_onLane_keeps {a s : State} (h : Keeps a s) (l : Nat) (g : State → State) (hg : ∀ s, Keeps a s → Keeps a (g s)) :
    KeepsR a (State.onLane s l g) := by
  unfold State.onLane
  exact act_keeps h fun _ hs => keeps_ite (hg _ (State_header_keeps hs _ _)) (State_header_keeps hs _ _)

theorem State_orphan_keeps {a s : State} (h : Keeps a s) (g : Nat) (misaligned : Bool) : Keeps a (State.orphan s g misaligned) := by
  unfold State.orphan
  repeat' first
    | (with_reducible first | assumption | apply State_bump_keeps | apply State_irq_keeps | apply keeps_ite) | dsimp only | split

theorem State_logical_keeps {a s : State} (h : Keeps a s) (l : Nat) (f : Nat → State → State) (hg : ∀ g s, Keeps a s → Keeps a (f g s)) :
    KeepsR a (State.logical s l f) := by
  unfold State.logical
  refine State_onLane_keeps h _ _ fun s hs => ?_
  repeat' first
    | with_reducible assumption
    | with_reducible apply State_orphan_keeps
    | with_reducible apply State_pass_keeps
    | with_reducible apply hg
    | dsimp only
    | split

theorem State_modFrame_keeps {a s : State} (h : Keeps a s) (g : Nat) (h : Frame → Frame) : Keeps a (State.modFrame s g h) := by
  unfold State.modFrame
  repeat' first
    | (with_reducible first | assumption | apply State_modGrp_keeps | apply keeps_ite) | dsimp only | split

theorem State_segBad_keeps {a s : State} (h : Keeps a s) (g : Nat) : Keeps a (State.segBad s g) := by
  unfold State.segBad
  repeat' first
    | (with_reducible first | assumption | apply State_modFrame_keeps | apply State_bump_keeps | apply keeps_ite) | dsimp only | split

theorem State_breakSeg_keeps {a s : State} (h : Keeps a s) (g : Nat) : Keeps a (State.breakSeg s g) := by
  unfold State.breakSeg
  repeat' first
    | (with_reducible first | assumption | apply State_segBad_keeps | apply State_modFrame_keeps | apply keeps_ite) | dsimp only | split

theorem State_sibWrite_keeps {a s : State} (h : Keeps a s) (g : Nat) (va : Nat) (l : List Byte) : Keeps a (State.sibWrite s g va l) := by
  unfold State.sibWrite
  repeat' first
    | (with_reducible first | assumption | apply State_writeVa_keeps | apply keeps_ite) | dsimp only | split

theorem State_closeFrame_keeps {a s : State} (h : Keeps a s) (g : Nat) : Keeps a (State.closeFrame s g) := by
  unfold State.closeFrame
  repeat' first
    | (with_reducible first | assumption | apply State_modGrp_keeps | apply State_bump_keeps | apply State_modFrame_keeps
                            | apply State_sibWrite_keeps | apply State_record_keeps | apply State_header_keeps | apply State_irq_keeps | (intro _)
                            | apply keeps_ite) | dsimp only | split

theorem State_openFrame_keeps {a s : State} (h : Keeps a s) (g : Nat) (t : Nat) : Keeps a (State.openFrame s g t) := by
  unfold State.openFrame
  repeat' first
    | (with_reducible first | assumption | apply State_modFrame_keeps | apply keeps_ite) | dsimp only | split

theorem State_formDecision_keeps {a s : State} (h : Keeps a s) (g : Nat) : Keeps a (State.formDecision s g) := by
  unfold State.formDecision
  repeat' first
    | (with_reducible first | assumption | apply State_modGrp_keeps | apply State_setF_keeps | apply keeps_ite) | dsimp only | split

theorem State_latchLink_keeps {a s : State} (h : Keeps a s) : Keeps a (State.latchLink s) := by
  unfold State.latchLink
  repeat' first
    | (with_reducible first | assumption | apply State_modGrp_keeps | apply keepsAt_of | apply keepsAt_draw | apply keeps_fold
                            | apply keeps_fold_pair | (intro _) | apply keeps_ite) | simp only [keeps_mk] | split

theorem State_evalTx_keeps {a s : State} (h : Keeps a s) (g : Nat) : Keeps a (State.evalTx s g) := by
  unfold State.evalTx
  repeat' first
    | (with_reducible first | assumption | apply State_setB_keeps | apply State_modGrp_keeps | (intro _) | apply keeps_ite) | dsimp only | split

theorem State_sendBlocks_keeps {a s : State} (h : Keeps a s) (g : Nat) (ls : List Nat) (blocks : List (Bool × W64)) :
    Keeps a (State.sendBlocks s g ls blocks) := by
  unfold State.sendBlocks
  repeat' first
    | (with_reducible first | assumption | apply State_emit_keeps | apply keepsAt_of | apply keepsAt_draw | (intro _) | apply keeps_ite)
    | simp only [keeps_mk] | split

theorem State_sendDecision_keeps {a s : State} (h : Keeps a s) (g : Nat) (t : Nat) (w : W64) : Keeps a (State.sendDecision s g t w) := by
  unfold State.sendDecision
  repeat' first
    | (with_reducible first | assumption | apply State_sendBlocks_keeps | apply keeps_ite) | dsimp only | split

theorem State_txTick_keeps {a s : State} (h : Keeps a s) (g : Nat) : Keeps a (State.txTick s g) := by
  unfold State.txTick
  repeat' first
    | (with_reducible first | assumption | apply State_modGrp_keeps | apply State_sendBlocks_keeps | (intro _) | apply keeps_ite) | dsimp only | split

theorem State_setTrig_keeps {a s : State} (h : Keeps a s) (j : Nat) (x : TrigLine) : Keeps a (State.setTrig s j x) := by
  unfold State.setTrig
  repeat' first
    | (with_reducible first | assumption | apply keepsAt_of | apply keepsAt_draw | apply keeps_ite) | simp only [keeps_mk] | split

theorem State_driveTrig_keeps {a s : State} (h : Keeps a s) (j : Nat) : Keeps a (State.driveTrig s j) := by
  unfold State.driveTrig
  repeat' first
    | (with_reducible first | assumption | apply State_setTrig_keeps | apply keeps_ite) | dsimp only | split

theorem State_restTrig_keeps {a s : State} (h : Keeps a s) (j : Nat) : Keeps a (State.restTrig s j) := by
  unfold State.restTrig
  repeat' first
    | (with_reducible first | assumption | apply State_setTrig_keeps | apply keeps_ite) | dsimp only | split

theorem State_holdTrig_keeps {a s : State} (h : Keeps a s) : Keeps a (State.holdTrig s) := by
  unfold State.holdTrig
  repeat' first
    | (with_reducible first | assumption | apply State_setTrig_keeps | apply keeps_fold | apply keeps_fold_pair | (intro _) | apply keeps_ite)
    | dsimp only | split

theorem State_stopLink_keeps {a s : State} (h : Keeps a s) : Keeps a (State.stopLink s) := by
  unfold State.stopLink
  repeat' first
    | (with_reducible first | assumption | apply State_modGrp_keeps | apply State_evalTx_keeps | apply State_restTrig_keeps
                            | apply State_latchLink_keeps | apply keeps_fold | apply keeps_fold_pair | (intro _) | apply keeps_ite)
    | dsimp only | split

theorem State_takePage_keeps {a s : State} (h : Keeps a s) : Keeps a (State.takePage s).1 := by
  unfold State.takePage
  repeat' first
    | (with_reducible first | assumption | apply State_zeroFill_keeps | apply keepsAt_of | apply keepsAt_draw | apply keeps_ite)
    | simp only [keeps_mk] | split

theorem State_mapPage_keeps {a s : State} (h : Keeps a s) (c : Nat) (va : Nat) (e : Pte) : Keeps a (State.mapPage s c va e) := by
  unfold State.mapPage
  repeat' first
    | (with_reducible first | assumption | apply State_takePage_keeps | apply State_modCx_keeps | apply State_poke_keeps
                            | (refine keeps_of_pair (p := State.takePage _) ‹_› ?_) | apply keeps_ite) | simp only [keeps_mk] | split

theorem State_unmapPage_keeps {a s : State} (h : Keeps a s) (c : Nat) (va : Nat) : Keeps a (State.unmapPage s c va) := by
  unfold State.unmapPage
  repeat' first
    | (with_reducible first | assumption | apply State_poke_keeps | apply keepsAt_of | apply keepsAt_draw | apply keeps_ite) | simp only [keeps_mk]
    | split

theorem State_mapObj_keeps {a s : State} (h : Keeps a s) (c : Nat) (o : Nat) (va : Nat) (bank : Bool) (frames : List Nat) :
    Keeps a (State.mapObj s c o va bank frames) := by
  unfold State.mapObj
  repeat' first
    | (with_reducible first | assumption | apply State_mapPage_keeps | apply keeps_fold | apply keeps_fold_pair | (intro _) | apply keeps_ite)
    | dsimp only | split

theorem State_unmapObj_keeps {a s : State} (h : Keeps a s) (c : Nat) (o : Nat) : Keeps a (State.unmapObj s c o) := by
  unfold State.unmapObj
  repeat' first
    | (with_reducible first | assumption | apply State_unmapPage_keeps | apply State_setObj_keeps | apply keeps_fold | apply keeps_fold_pair
                            | (intro _) | apply keeps_ite) | dsimp only | split

theorem State_setZones_keeps {a s : State} (h : Keeps a s) (z : Nat) (v : Nat) : Keeps a (State.setZones s z v) := by
  unfold State.setZones
  repeat' first
    | (with_reducible first | assumption | apply keepsAt_of | apply keepsAt_draw | apply keepsAt_put | apply keeps_ite) | simp only [keeps_mk]
    | split

theorem State_issueJob_keeps {a s : State} (h : Keeps a s) (ctx : Nat) (j : FillJob) : Keeps a (State.issueJob s ctx j).1 := by
  unfold State.issueJob
  repeat' first
    | (with_reducible first | assumption | apply State_buIssue_keeps | (refine keepsIS_elim (r := State.buIssue _ _) ?_ ‹_›) | apply keeps_fold
                            | apply keeps_fold_pair | (intro _) | apply keeps_ite) | dsimp only | split

theorem State_issueFills_keeps {a s : State} (h : Keeps a s) : Keeps a (State.issueFills s) := by
  unfold State.issueFills
  repeat' first
    | (with_reducible first | assumption | apply State_issueJob_keeps | apply keepsAt_of | apply keepsAt_draw
                            | (refine keeps_of_pair (p := State.issueJob _ _ _) ‹_› ?_) | apply keeps_fold | apply keeps_fold_pair | (intro _)
                            | apply keeps_ite) | simp only [keeps_mk] | split

theorem State_addJob_keeps {a s : State} (h : Keeps a s) (j : FillJob) : Keeps a (State.addJob s j) := by
  unfold State.addJob
  repeat' first
    | (with_reducible first | assumption | apply State_issueFills_keeps | apply keepsAt_of | apply keepsAt_draw | apply keeps_ite)
    | simp only [keeps_mk] | split

theorem State_reclaim_keeps {a s : State} (h : Keeps a s) (o : Nat) : Keeps a (State.reclaim s o) := by
  unfold State.reclaim
  repeat' first
    | (with_reducible first | assumption | apply State_unmapObj_keeps | apply State_noteRead_keeps | apply State_addJob_keeps | apply keeps_fold
                            | apply keeps_fold_pair | (intro _) | apply keeps_ite) | dsimp only | split

theorem State_releaseObj_keeps {a s : State} (h : Keeps a s) (o : Nat) : Keeps a (State.releaseObj s o) := by
  unfold State.releaseObj
  repeat' first
    | (with_reducible first | assumption | apply State_setFrame_keeps | apply State_setZones_keeps | apply State_poke_keeps | apply keepsAt_of
                            | apply keepsAt_draw | apply keeps_fold | apply keeps_fold_pair | (intro _) | apply keeps_ite)
    | simp only [keeps_mk] | split

theorem State_endReclaim_keeps {a s : State} (h : Keeps a s) (o : Nat) : Keeps a (State.endReclaim s o) := by
  unfold State.endReclaim
  repeat' first
    | (with_reducible first | assumption | apply State_releaseObj_keeps | apply State_post_keeps | apply keeps_ite) | dsimp only | split

theorem State_changeRefs_keeps {a s : State} (h : Keeps a s) (o : Nat) (g : Nat → Nat) : Keeps a (State.changeRefs s o g) := by
  unfold State.changeRefs
  repeat' first
    | (with_reducible first | assumption | apply State_setRefs_keeps | apply State_reclaim_keeps | apply keeps_ite) | dsimp only | split

theorem State_addDev_keeps {a s : State} (h : Keeps a s) (o : Nat) : Keeps a (State.addDev s o) := by
  unfold State.addDev
  repeat' first
    | (with_reducible first | assumption | apply State_changeRefs_keeps | apply keeps_ite) | dsimp only | split

theorem State_subDev_keeps {a s : State} (h : Keeps a s) (o : Nat) : Keeps a (State.subDev s o) := by
  unfold State.subDev
  repeat' first
    | (with_reducible first | assumption | apply State_changeRefs_keeps | apply keeps_ite) | dsimp only | split

theorem State_takeRefs_keeps {a s : State} (h : Keeps a s) (l : List Nat) : Keeps a (State.takeRefs s l) := by
  unfold State.takeRefs
  repeat' first
    | (with_reducible first | assumption | apply State_addDev_keeps | apply keeps_fold | apply keeps_fold_pair | (intro _) | apply keeps_ite)
    | dsimp only | split

theorem State_dropRefs_keeps {a s : State} (h : Keeps a s) (l : List Nat) : Keeps a (State.dropRefs s l) := by
  unfold State.dropRefs
  repeat' first
    | (with_reducible first | assumption | apply State_subDev_keeps | apply keeps_fold | apply keeps_fold_pair | (intro _) | apply keeps_ite)
    | dsimp only | split

theorem State_refUnderflow_keeps {a s : State} (h : Keeps a s) (c : Nat) (o : Nat) : Keeps a (State.refUnderflow s c o) := by
  unfold State.refUnderflow
  repeat' first
    | (with_reducible first | assumption | apply State_stopProgram_keeps | apply State_reportFault_keeps | apply keeps_ite) | dsimp only | split

theorem State_subPort_keeps {a s : State} (h : Keeps a s) (c : Nat) (p : Nat) (o : Nat) : Keeps a (State.subPort s c p o) := by
  unfold State.subPort
  repeat' first
    | (with_reducible first | assumption | apply State_refUnderflow_keeps | apply State_changeRefs_keeps | apply keeps_ite) | dsimp only | split

theorem State_refDoorbell_keeps {a s : State} (h : Keeps a s) (q : Nat) (o : Nat) (op : Nat) : Keeps a (State.refDoorbell s q o op) := by
  unfold State.refDoorbell
  repeat' first
    | (with_reducible first | assumption | apply State_setF_keeps | apply State_changeRefs_keeps | apply State_refUnderflow_keeps | apply keeps_ite)
    | dsimp only | split

theorem State_beginCreate_keeps {a s : State} (h : Keeps a s) (cmd : Nat) (c : Nat) (bank : Bool) (frames : List Nat) :
    Keeps a (State.beginCreate s cmd c bank frames) := by
  unfold State.beginCreate
  repeat' first
    | (with_reducible first | assumption | apply State_setFrame_keeps | apply State_setZones_keeps | apply State_addJob_keeps | apply keepsAt_of
                            | apply keepsAt_draw | apply keepsAt_put | apply keeps_fold | apply keeps_fold_pair | (intro _) | apply keeps_ite)
    | simp only [keeps_mk] | split

theorem State_endCreate_keeps {a s : State} (h : Keeps a s) (c : Cmd) (o : Nat) : Keeps a (State.endCreate s c o) := by
  unfold State.endCreate
  repeat' first
    | (with_reducible first | assumption | apply State_setObj_keeps | apply State_mapObj_keeps | apply State_setRefs_keeps
                            | apply State_finishCmd_keeps | (intro _) | apply keeps_ite) | dsimp only | split

theorem State_endJob_keeps {a s : State} (h : Keeps a s) (j : FillJob) : Keeps a (State.endJob s j) := by
  unfold State.endJob
  repeat' first
    | (with_reducible first | assumption | apply State_reclaim_keeps | apply State_endReclaim_keeps | apply State_releaseObj_keeps
                            | apply State_endCreate_keeps | apply keepsAt_of | apply keepsAt_draw | (intro _) | apply keeps_ite)
    | simp only [keeps_mk] | split

theorem State_pumpFills_keeps {a s : State} (h : Keeps a s) : Keeps a (State.pumpFills s) := by
  unfold State.pumpFills
  repeat' first
    | (with_reducible first | assumption | apply State_issueFills_keeps | apply State_endJob_keeps | apply keeps_fold | apply keeps_fold_pair
                            | (intro _) | apply keeps_ite) | dsimp only | split

theorem State_dropCreations_keeps {a s : State} (h : Keeps a s) (c : Nat) : Keeps a (State.dropCreations s c) := by
  unfold State.dropCreations
  repeat' first
    | (with_reducible first | assumption | apply keepsAt_of | apply keepsAt_draw | (intro _) | apply keeps_ite) | simp only [keeps_mk] | split

theorem State_importObj_keeps {a s : State} (h : Keeps a s) (c : Nat) (p : Nat) (o : Nat) : Keeps a (State.importObj s c p o) := by
  unfold State.importObj
  repeat' first
    | (with_reducible first | assumption | apply State_mapObj_keeps | apply State_setObj_keeps | apply State_changeRefs_keeps | apply keeps_ite)
    | dsimp only | split

theorem State_served_keeps {a s : State} (h : Keeps a s) (p : Nat) (q : Nat) : Keeps a (State.served s p q) := by
  unfold State.served
  repeat' first
    | (with_reducible first | assumption | apply keepsAt_of | apply keepsAt_draw | apply keepsAt_put | apply keeps_ite) | simp only [keeps_mk]
    | split

theorem State_putCmd_keeps {a s : State} (h : Keeps a s) (c : Cmd) : Keeps a (State.putCmd s c) := by
  unfold State.putCmd
  repeat' first
    | (with_reducible first | assumption | apply keepsAt_of | apply keepsAt_draw | apply keeps_ite) | simp only [keeps_mk] | split

theorem State_startWith_keeps {a s : State} (h : Keeps a s) (c : Cmd) (g : Cmd → State → State) (hg : ∀ c s, Keeps a s → Keeps a (g c s)) :
    Keeps a (State.startWith s c g) := by
  unfold State.startWith
  repeat' first
    | (with_reducible first | assumption | apply hg | apply State_finishCmd_keeps | apply State_takeRefs_keeps | apply State_putCmd_keeps
                            | apply keeps_ite) | dsimp only | split

theorem onCmd_keeps {a s : State} (h : Keeps a s) (id op : Nat) (g : Cmd → State → State) (hg : ∀ c s, Keeps a s → Keeps a (g c s)) :
    KeepsR a (onCmd id op s g) := by
  unfold onCmd
  repeat' first
    | (with_reducible first | assumption | apply keepsR_next | apply State_startWith_keeps) | split

theorem State_reject_keeps {a s : State} (h : Keeps a s) (id : Nat) (result : Nat) (detail : Nat) : Keeps a (State.reject s id result detail) := by
  unfold State.reject
  repeat' first
    | (with_reducible first | assumption | apply State_finishCmd_keeps | apply keeps_ite) | dsimp only | split

theorem State_startCmd_keeps {a s : State} (h : Keeps a s) (c : Cmd) : Keeps a (State.startCmd s c) := by
  unfold State.startCmd
  repeat' first
    | (with_reducible first | assumption | apply State_putCmd_keeps | apply keeps_ite) | dsimp only | split

theorem State_hostFail_keeps {a s : State} (h : Keeps a s) (c : Cmd) (a1 : Nat) (n : Nat) : Keeps a (State.hostFail s c a1 n) := by
  unfold State.hostFail
  repeat' first
    | (with_reducible first | assumption | apply State_reject_keeps | apply State_deny_keeps | apply keeps_ite) | dsimp only | split

theorem State_writeDescs_keeps {a s : State} (h : Keeps a s) (c : Nat) (first : Nat) (n : Nat) (l : List Byte) :
    Keeps a (State.writeDescs s c first n l).1 := by
  unfold State.writeDescs
  repeat' first
    | (with_reducible first | assumption | apply State_poke_keeps | apply keeps_fold | apply keeps_fold_pair | (intro _) | apply keeps_ite)
    | dsimp only | split

theorem State_recert_keeps {a s : State} (h : Keeps a s) : Keeps a (State.recert s) := by
  unfold State.recert
  repeat' first
    | (with_reducible first | assumption | apply State_setF_keeps | apply keeps_fold | apply keeps_fold_pair | (intro _) | apply keeps_ite)
    | dsimp only | split

theorem State_freeProgram_keeps {a s : State} (h : Keeps a s) (c : Nat) : Keeps a (State.freeProgram s c) := by
  unfold State.freeProgram
  repeat' first
    | (with_reducible first | assumption | apply State_stopProgram_keeps | apply State_setB_keeps | apply State_recert_keeps
                            | apply State_modCx_keeps | apply State_dropRefs_keeps | apply keeps_ite) | dsimp only | split

theorem State_retire_keeps {a s : State} (h : Keeps a s) (c : Cmd) (st : Nat) (result : Nat) (detail : Nat) :
    Keeps a (State.retire s c st result detail) := by
  unfold State.retire
  repeat' first
    | (with_reducible first | assumption | apply State_post_keeps | apply State_dropRefs_keeps | apply keepsAt_of | apply keepsAt_draw
                            | apply keeps_ite) | simp only [keeps_mk] | split

end Sys2Proof.Laws
end

