-- ==== Sys2Proof/Laws/Frame3.lean ====
section
/-! SUPPORT. One lemma for each shared operation that gives a state (part 3 of 4): it carries `Keeps`.
From `State.deliver` to `State.setPerst`. -/

namespace Sys2Proof.Laws
open Sys2Proof Sys2Proof.Machine

theorem State_deliver_keeps {a s : State} (h : Keeps a s) (c : Nat) (p : Nat) (l : Nat) (t : Nat) (rec_ : List Byte) :
    Keeps a (State.deliver s c p l t rec_) := by
  unfold State.deliver
  repeat' first
    | (with_reducible first | assumption | apply State_emit_keeps | apply State_setF_keeps | apply State_sendMsix_keeps | apply keeps_ite)
    | dsimp only | split

theorem State_setTail_keeps {a s : State} (h : Keeps a s) (q : Nat) (v : Nat) : Keeps a (State.setTail s q v) := by
  unfold State.setTail
  repeat' first
    | (with_reducible first | assumption | apply State_irq_keeps | apply State_setB_keeps | apply State_setF_keeps | apply keeps_ite) | dsimp only
    | split

theorem State_setDepth_keeps {a s : State} (h : Keeps a s) (q : Nat) (d : Nat) : Keeps a (State.setDepth s q d) := by
  unfold State.setDepth
  repeat' first
    | (with_reducible first | assumption | apply State_setF_keeps | apply keeps_ite) | dsimp only | split

theorem State_promote_keeps {a s : State} (h : Keeps a s) (n : Nat) : Keeps a (State.promote s n) := by
  unfold State.promote
  repeat' first
    | (with_reducible first | assumption | apply State_setSlice_keeps | apply State_bump_keeps | apply keeps_ite) | dsimp only | split

theorem State_drainSkid_keeps {a s : State} (h : Keeps a s) (n : Nat) : Keeps a (State.drainSkid s n) := by
  unfold State.drainSkid
  repeat' first
    | (with_reducible first | assumption | apply State_setSlice_keeps | apply State_bump_keeps | apply keeps_ite) | dsimp only | split

theorem State_candidate_keeps {a s : State} (h : Keeps a s) (n : Nat) (t : Tile) : Keeps a (State.candidate s n t) := by
  unfold State.candidate
  repeat' first
    | (with_reducible first | assumption | apply State_modSlice_keeps | apply State_bump_keeps | apply keeps_ite) | dsimp only | split

theorem State_leaveStages_keeps {a s : State} (h : Keeps a s) (n : Nat) (r : ArrRow) : Keeps a (State.leaveStages s n r) := by
  unfold State.leaveStages
  repeat' first
    | (with_reducible first | assumption | apply State_pass_keeps | apply State_setSlice_keeps | apply State_candidate_keeps | (intro _)
                            | apply keeps_ite) | dsimp only | split

theorem State_moveRows_keeps {a s : State} (h : Keeps a s) (n : Nat) : Keeps a (State.moveRows s n) := by
  unfold State.moveRows
  repeat' first
    | (with_reducible first | assumption | apply State_leaveStages_keeps | apply State_modSlice_keeps | apply State_bump_keeps | (intro _)
                            | apply keeps_ite) | dsimp only | split

theorem State_feed_keeps {a s : State} (h : Keeps a s) (n : Nat) (badParity : Bool) : Keeps a (State.feed s n badParity) := by
  unfold State.feed
  repeat' first
    | (with_reducible first | assumption | apply State_setSlice_keeps | apply State_bump_keeps | apply State_parityAt_keeps
                            | apply State_modSlice_keeps | apply State_promote_keeps | (intro _) | apply keeps_ite) | dsimp only | split

theorem State_opId_keeps {a s : State} (h : Keeps a s) (n : Nat) : Keeps a (State.opId s n).1 := by
  unfold State.opId
  repeat' first
    | (with_reducible first | assumption | apply State_setSlice_keeps | apply keeps_ite) | dsimp only | split

theorem State_pend_keeps {a s : State} (h : Keeps a s) (n : Nat) (ready : Nat) (d : Dst) : Keeps a (State.pend s n ready d) := by
  unfold State.pend
  repeat' first
    | (with_reducible first | assumption | apply State_opId_keeps | apply State_modSlice_keeps | (refine keeps_of_pair (p := State.opId _ _) ‹_› ?_)
                            | apply keeps_ite) | dsimp only | split

theorem State_xfer_keeps {a s : State} (h : Keeps a s) (n : Nat) (bundle : Nat) (op : XferOp) : Keeps a (State.xfer s n bundle op) := by
  unfold State.xfer
  repeat' first
    | (with_reducible first | assumption | apply State_opId_keeps | apply State_modSlice_keeps | (refine keeps_of_pair (p := State.opId _ _) ‹_› ?_)
                            | apply keeps_ite) | dsimp only | split

theorem State_perf_keeps {a s : State} (h : Keeps a s) (n : Nat) (f : Fld) (k : Nat) : Keeps a (State.perf s n f k) := by
  unfold State.perf
  repeat' first
    | (with_reducible first | assumption | apply State_bump_keeps | apply keeps_ite) | dsimp only | split

theorem State_uninit_keeps {a s : State} (h : Keeps a s) (n : Nat) (k : Nat) : Keeps a (State.uninit s n k) := by
  unfold State.uninit
  repeat' first
    | (with_reducible first | assumption | apply State_perf_keeps | apply State_modSlice_keeps | apply keeps_ite) | dsimp only | split

theorem State_branch_keeps {a s : State} (h : Keeps a s) (n : Nat) (x : Slice) (target : Nat) : KeepsE a (State.branch s n x target) := by
  unfold State.branch
  repeat' first
    | (with_reducible first | assumption | apply State_modSlice_keeps | apply keepsE_ok | exact keepsE_error | (intro _) | apply keeps_ite)
    | dsimp only | split

theorem State_issueScalar_keeps {a s : State} (h : Keeps a s) (n : Nat) (x : Slice) (b : Bundle) : KeepsEP a (State.issueScalar s n x b) := by
  unfold State.issueScalar
  repeat' first
    | (with_reducible first | assumption | apply State_branch_keeps | apply State_modSlice_keeps | apply State_pend_keeps | apply keepsEP_ok
                            | exact keepsEP_error | (refine keepsE_elim (r := State.branch _ _ _ _) ?_ ‹_›) | apply keeps_ite) | dsimp only | split

theorem State_issueExt_keeps {a s : State} (h : Keeps a s) (n : Nat) (x : Slice) (b : Bundle) : Keeps a (State.issueExt s n x b) := by
  unfold State.issueExt
  repeat' first
    | (with_reducible first | assumption | apply State_opId_keeps | apply State_modSlice_keeps | apply State_emit_keeps
                            | (refine keeps_of_pair (p := State.opId _ _) ‹_› ?_) | (intro _) | apply keeps_ite) | dsimp only | split

theorem State_issueVector_keeps {a s : State} (h : Keeps a s) (n : Nat) (x : Slice) (b : Bundle) : KeepsE a (State.issueVector s n x b) := by
  unfold State.issueVector
  repeat' first
    | (with_reducible first | assumption | apply State_perf_keeps | apply State_issueExt_keeps | apply State_pend_keeps
                            | apply State_modSlice_keeps | apply State_candidate_keeps | apply keepsAt_of | apply keepsAt_draw | apply keepsE_ok
                            | exact keepsE_error | apply keeps_fold | apply keeps_fold_pair | (intro _) | apply keeps_ite)
    | simp only [keeps_mk] | split

theorem State_issueDot_keeps {a s : State} (h : Keeps a s) (n : Nat) (c : BuCmd) : KeepsOP a (State.issueDot s n c) := by
  unfold State.issueDot
  repeat' first
    | (with_reducible first | assumption | apply State_writeDigest_keeps | apply State_eachPart_keeps | apply State_sendHead_keeps
                            | apply State_putBu_keeps | apply State_perf_keeps | apply State_buIssue_keeps | apply keepsOP_some
                            | exact keepsOP_none | (refine keeps_of_pair (p := State.eachPart _ _ _) ‹_› ?_)
                            | (refine keeps_of_pair (p := State.sendHead _ _ _) ‹_› ?_) | (refine keepsIS_elim (r := State.buIssue _ _) ?_ ‹_›)
                            | (intro _) | apply keeps_ite) | dsimp only | split

theorem State_issueMatrix_keeps {a s : State} (h : Keeps a s) (n : Nat) (x : Slice) (b : Bundle) : KeepsMS a (State.issueMatrix s n x b) := by
  unfold State.issueMatrix
  repeat' first
    | (with_reducible first | assumption | apply State_issueDot_keeps | apply State_perf_keeps | apply State_opId_keeps
                            | apply State_modSlice_keeps | apply State_promote_keeps | apply State_uninit_keeps | apply State_buIssue_keeps
                            | apply keepsAt_of | apply keepsAt_draw | apply keepsMS_ok | exact keepsMS_stall | exact keepsMS_fault
                            | (refine keepsOP_elim (r := State.issueDot _ _ _) ?_ ‹_›) | (refine keeps_of_pair (p := State.opId _ _) ‹_› ?_)
                            | (refine keepsIS_elim (r := State.buIssue _ _) ?_ ‹_›) | (intro _) | apply keeps_ite | exact keepsOP_none
                            | apply keepsOP_some | (refine keepsOP_elim (β := Option Nat) ?_ (by assumption))) | simp only [keeps_mk] | split

theorem State_ainc_keeps {a s : State} (h : Keeps a s) (n : Nat) (an : Nat) (on : Bool) (by_ : Nat) : Keeps a (State.ainc s n an on by_) := by
  unfold State.ainc
  repeat' first
    | (with_reducible first | assumption | apply State_modSlice_keeps | apply keeps_ite) | dsimp only | split

theorem State_planCounts_keeps {a s : State} (h : Keeps a s) (n : Nat) (p : Plan) : Keeps a (State.planCounts s n p) := by
  unfold State.planCounts
  repeat' first
    | (with_reducible first | assumption | apply State_uninit_keeps | apply State_perf_keeps | apply keeps_ite) | dsimp only | split

theorem State_issueRahead_keeps {a s : State} (h : Keeps a s) (n : Nat) (x : Slice) (v : Nat) : KeepsO a (State.issueRahead s n x v) := by
  unfold State.issueRahead
  repeat' first
    | (with_reducible first | assumption | apply State_perf_keeps | apply State_xfer_keeps | apply State_buIssue_keeps | apply keepsAt_of
                            | apply keepsAt_draw | apply keepsO_some | exact keepsO_none | (refine keepsIS_elim (r := State.buIssue _ _) ?_ ‹_›)
                            | (intro _) | apply keeps_ite) | simp only [keeps_mk] | split

theorem State_issueLoad_keeps {a s : State} (h : Keeps a s) (n : Nat) (x : Slice) (b : Bundle) : KeepsEO a (State.issueLoad s n x b) := by
  unfold State.issueLoad
  repeat' first
    | (with_reducible first | assumption | apply State_planCounts_keeps | apply State_ainc_keeps | apply State_modSlice_keeps
                            | apply State_perf_keeps | apply State_xfer_keeps | apply State_uninit_keeps | apply State_issueRahead_keeps
                            | apply keepsEO_ok | exact keepsEO_none | exact keepsEO_error | apply keepsEO_lift
                            | (refine keepsO_elim (r := State.issueRahead _ _ _ _) ?_ ‹_›) | (intro _) | apply keeps_ite) | dsimp only | split

theorem State_issueStt_keeps {a s : State} (h : Keeps a s) (n : Nat) (x : Slice) (v : Nat) : KeepsE a (State.issueStt s n x v) := by
  unfold State.issueStt
  repeat' first
    | (with_reducible first | assumption | apply State_ainc_keeps | apply State_planCounts_keeps | apply State_modSlice_keeps
                            | apply State_uninit_keeps | apply State_xfer_keeps | apply keepsE_ok | exact keepsE_error | apply keeps_fold
                            | apply keeps_fold_pair | (intro _) | apply keeps_ite) | dsimp only | split

theorem State_issueStore_keeps {a s : State} (h : Keeps a s) (n : Nat) (x : Slice) (b : Bundle) : KeepsE a (State.issueStore s n x b) := by
  unfold State.issueStore
  repeat' first
    | (with_reducible first | assumption | apply State_issueStt_keeps | apply State_ainc_keeps | apply State_modSlice_keeps | apply State_xfer_keeps
                            | apply State_modCx_keeps | apply keepsE_ok | exact keepsE_error
                            | (refine keepsE_elim (r := State.issueStt _ _ _ _) ?_ ‹_›) | apply keeps_ite) | dsimp only | split

theorem State_dcmp_keeps {a s : State} (h : Keeps a s) (n : Nat) (x : Slice) (a1 : Nat) (b : Nat) : KeepsE a (State.dcmp s n x a1 b) := by
  unfold State.dcmp
  repeat' first
    | (with_reducible first | assumption | apply State_readVa_keeps | apply State_bump_keeps | apply State_writeVa_keeps
                            | apply State_recordNum_keeps | apply State_post_keeps | apply keepsE_ok | exact keepsE_error
                            | (refine keeps_of_pair (p := State.readVa _ _ _ _ _) ‹_› ?_) | (refine keeps_of_pair (p := State.recordNum _ _) ‹_› ?_)
                            | apply keeps_ite) | dsimp only | split

theorem State_issueSync_keeps {a s : State} (h : Keeps a s) (n : Nat) (x : Slice) (b : Bundle) : KeepsEP a (State.issueSync s n x b) := by
  unfold State.issueSync
  repeat' first
    | (with_reducible first | assumption | apply State_modCx_keeps | apply State_post_keeps | apply State_dcmp_keeps | apply keepsEP_ok
                            | exact keepsEP_error | (refine keepsE_elim (r := State.dcmp _ _ _ _ _) ?_ ‹_›) | apply keeps_ite) | dsimp only | split

theorem State_waitDone_keeps {a s : State} (h : Keeps a s) (n : Nat) (w : Wait) : KeepsO a (State.waitDone s n w) := by
  unfold State.waitDone
  repeat' first
    | (with_reducible first | assumption | apply State_modCx_keeps | apply State_setCx_keeps | apply keepsO_some | exact keepsO_none
                            | apply keeps_ite) | dsimp only | split

theorem State_haltArrive_keeps {a s : State} (h : Keeps a s) (c : Nat) (member : Nat) (pc : Nat) : Keeps a (State.haltArrive s c member pc).1 := by
  unfold State.haltArrive
  repeat' first
    | (with_reducible first | assumption | apply State_setF_keeps | apply State_irq_keeps | apply State_setB_keeps | apply keeps_fold
                            | apply keeps_fold_pair | (intro _) | apply keeps_ite) | dsimp only | split

theorem State_haltSettle_keeps {a s : State} (h : Keeps a s) (c : Nat) : Keeps a (State.haltSettle s c) := by
  unfold State.haltSettle
  repeat' first
    | (with_reducible first | assumption | apply State_cutStream_keeps | apply State_haltHost_keeps | apply keeps_ite) | dsimp only | split

theorem State_issueAll_keeps {a s : State} (h : Keeps a s) (n : Nat) (x : Slice) (b : Bundle) : KeepsIU a (State.issueAll s n x b) := by
  unfold State.issueAll
  repeat' first
    | (with_reducible first | assumption | apply State_issueMatrix_keeps | apply State_issueScalar_keeps | apply State_issueVector_keeps
                            | apply State_issueLoad_keeps | apply State_issueStore_keeps | apply State_issueSync_keeps | apply keepsIU_ok
                            | exact keepsIU_stall | exact keepsIU_fault | (refine keepsMS_elim (r := State.issueMatrix _ _ _ _) ?_ ‹_›)
                            | (refine keepsEP_elim (r := State.issueScalar _ _ _ _) ?_ ‹_›)
                            | (refine keepsE_elim (r := State.issueVector _ _ _ _) ?_ ‹_›)
                            | (refine keepsEO_elim (r := State.issueLoad _ _ _ _) ?_ ‹_›)
                            | (refine keepsE_elim (r := State.issueStore _ _ _ _) ?_ ‹_›)
                            | (refine keepsEP_elim (r := State.issueSync _ _ _ _) ?_ ‹_›) | apply keeps_ite) | dsimp only | split

theorem State_regHits_keeps {a s : State} (h : Keeps a s) (n : Nat) (x : Slice) (b : Bundle) (hits : List RegHit) :
    Keeps a (State.regHits s n x b hits) := by
  unfold State.regHits
  repeat' first
    | (with_reducible first | assumption | apply State_parityAt_keeps | apply keeps_fold | apply keeps_fold_pair | (intro _) | apply keeps_ite)
    | dsimp only | split

theorem State_upsets_keeps {a s : State} (h : Keeps a s) (n : Nat) (x : Slice) (b : Bundle) (up : Upset) (hits : List RegHit) :
    Keeps a (State.upsets s n x b up hits).1 := by
  unfold State.upsets
  repeat' first
    | (with_reducible first | assumption | apply State_parityAt_keeps | apply State_regHits_keeps | apply keeps_ite) | dsimp only | split

theorem State_stallCycle_keeps {a s : State} (h : Keeps a s) (n : Nat) : Keeps a (State.stallCycle s n) := by
  unfold State.stallCycle
  repeat' first
    | (with_reducible first | assumption | apply State_perf_keeps | apply State_modSlice_keeps | apply keeps_ite) | dsimp only | split

theorem State_repetition_keeps {a s : State} (h : Keeps a s) (n : Nat) (b : Bundle) (up : Upset) : Keeps a (State.repetition s n b up) := by
  unfold State.repetition
  repeat' first
    | (with_reducible first | assumption | apply State_modSlice_keeps | apply State_stallCycle_keeps | apply State_regHits_keeps
                            | apply State_perf_keeps | apply State_programFault_keeps | apply State_upsets_keeps | apply State_issueAll_keeps
                            | apply State_waitDone_keeps | (refine keeps_of_pair (p := State.upsets _ _ _ _ _ _) ‹_› ?_)
                            | (refine keepsIU_elim (r := State.issueAll _ _ _ _) ?_ ‹_›) | (refine keepsO_elim (r := State.waitDone _ _ _) ?_ ‹_›)
                            | (intro _) | apply keeps_ite) | dsimp only | split

theorem State_noteDescs_keeps {a s : State} (h : Keeps a s) (n : Nat) (x : Slice) (b : Bundle) : Keeps a (State.noteDescs s n x b) := by
  unfold State.noteDescs
  repeat' first
    | (with_reducible first | assumption | apply State_noteDesc_keeps | apply keeps_fold | apply keeps_fold_pair | (intro _) | apply keeps_ite)
    | dsimp only | split

theorem State_beginBundle_keeps {a s : State} (h : Keeps a s) (n : Nat) (b : Bundle) (up : Upset) : Keeps a (State.beginBundle s n b up) := by
  unfold State.beginBundle
  repeat' first
    | (with_reducible first | assumption | apply State_repetition_keeps | apply State_haltArrive_keeps | apply State_cancelRa_keeps
                            | apply State_modCx_keeps | apply State_modSlice_keeps | apply State_haltSettle_keeps | apply State_noteDescs_keeps
                            | apply State_perf_keeps | (refine keeps_of_pair (p := State.haltArrive _ _ _ _) ‹_› ?_) | (intro _) | apply keeps_ite)
    | dsimp only | split

theorem State_seqCycle_keeps {a s : State} (h : Keeps a s) (n : Nat) (up : Upset) : Keeps a (State.seqCycle s n up) := by
  unfold State.seqCycle
  repeat' first
    | (with_reducible first | assumption | apply State_haltSettle_keeps | apply State_modSlice_keeps | apply State_beginBundle_keeps
                            | apply State_waitDone_keeps | (refine keepsO_elim (r := State.waitDone _ _ _) ?_ ‹_›) | (intro _) | apply keeps_ite)
    | dsimp only | split

theorem State_zrdRow_keeps {a s : State} (h : Keeps a s) (n : Nat) (z : Nat) : Keeps a (State.zrdRow s n z) := by
  unfold State.zrdRow
  repeat' first
    | (with_reducible first | assumption | apply State_pend_keeps | apply State_setSlice_keeps | apply State_parityAt_keeps | (intro _)
                            | apply keeps_ite) | dsimp only | split

theorem State_readRow_keeps {a s : State} (h : Keeps a s) (rd : Reader) (n : Nat) (c : Nat) (d : Desc) (r : TRow) (bad0 : Bool) :
    Keeps a (State.readRow s rd n c d r bad0).1 := by
  unfold State.readRow
  repeat' first
    | (with_reducible first | assumption | apply State_readVa_keeps | apply State_openBanks_keeps
                            | (refine keeps_of_pair (p := State.readVa _ _ _ _ _) ‹_› ?_) | apply keeps_fold | apply keeps_fold_pair | (intro _)
                            | apply keeps_ite) | dsimp only | split

theorem State_readRows_keeps {a s : State} (h : Keeps a s) (rd : Reader) (n : Nat) (c : Nat) (d : Desc) (rows : List TRow) (bad0 : Bool) :
    Keeps a (State.readRows s rd n c d rows bad0).1 := by
  unfold State.readRows
  repeat' first
    | (with_reducible first | assumption | apply State_readRow_keeps | (refine keeps_of_pair (p := State.readRow _ _ _ _ _ _ _) ‹_› ?_)
                            | apply keeps_fold | apply keeps_fold_pair | (intro _) | apply keeps_ite) | dsimp only | split

theorem State_raheadRead_keeps {a s : State} (h : Keeps a s) (n : Nat) (t : Xfer) (badParity : Bool) (keep : Bool) :
    Keeps a (State.raheadRead s n t badParity keep) := by
  unfold State.raheadRead
  repeat' first
    | (with_reducible first | assumption | apply State_readRows_keeps | apply State_perf_keeps | apply State_parityAt_keeps
                            | apply State_modSlice_keeps | (refine keeps_of_pair (p := State.readRows _ _ _ _ _ _ _) ‹_› ?_) | (intro _)
                            | apply keeps_ite) | dsimp only | split

theorem State_precharge_keeps {a s : State} (h : Keeps a s) (n : Nat) : Keeps a (State.precharge s n) := by
  unfold State.precharge
  repeat' first
    | (with_reducible first | assumption | apply State_modSlice_keeps | apply State_modBu_keeps | apply keeps_fold | apply keeps_fold_pair
                            | (intro _) | apply keeps_ite) | dsimp only | split

theorem State_switchTo_keeps {a s : State} (h : Keeps a s) (c : Nat) (slices : List Nat) : Keeps a (State.switchTo s c slices) := by
  unfold State.switchTo
  repeat' first
    | (with_reducible first | assumption | apply State_cancelRa_keeps | apply State_modSlice_keeps | apply State_precharge_keeps | apply keeps_fold
                            | apply keeps_fold_pair | (intro _) | apply keeps_ite) | dsimp only | split

theorem State_startEpoch_keeps {a s : State} (h : Keeps a s) (c : Nat) (slices : List Nat) (warm : Bool) :
    Keeps a (State.startEpoch s c slices warm) := by
  unfold State.startEpoch
  repeat' first
    | (with_reducible first | assumption | apply State_stepEpoch_keeps | apply State_cancelRa_keeps | apply keeps_ite) | dsimp only | split

theorem State_restGang_keeps {a s : State} (h : Keeps a s) (c : Nat) : Keeps a (State.restGang s c) := by
  unfold State.restGang
  repeat' first
    | (with_reducible first | assumption | apply State_modSlice_keeps | apply State_setF_keeps | apply keeps_fold | apply keeps_fold_pair
                            | (intro _) | apply keeps_ite) | dsimp only | split

theorem State_startMember_keeps {a s : State} (h : Keeps a s) (c : Nat) (n : Nat) (member : Nat) (p : Program) (x0 : HostRun) :
    Keeps a (State.startMember s c n member p x0).1 := by
  unfold State.startMember
  repeat' first
    | (with_reducible first | assumption | apply State_setSlice_keeps | apply State_readMem_keeps
                            | (refine keeps_of_pair (p := State.readMem _ _ _ _ _) ‹_› ?_) | apply keeps_fold | apply keeps_fold_pair | (intro _)
                            | apply keeps_ite) | dsimp only | split

theorem State_armHalt_keeps {a s : State} (h : Keeps a s) (h : Nat) : Keeps a (State.armHalt s h) := by
  unfold State.armHalt
  repeat' first
    | (with_reducible first | assumption | apply State_setB_keeps | apply State_setF_keeps | apply keeps_ite) | dsimp only | split

theorem State_fetchImage_keeps {a s : State} (h : Keeps a s) (c : Nat) (va : Nat) (n : Nat) (head : Nat) (declared : List Byte → Nat) :
    Keeps a (State.fetchImage s c va n head declared).1 := by
  unfold State.fetchImage
  repeat' first
    | (with_reducible first | assumption | apply State_readVa_keeps | (refine keeps_of_pair (p := State.readVa _ _ _ _ _) ‹_› ?_) | apply keeps_ite)
    | dsimp only | split

theorem State_writeStores_keeps {a s : State} (h : Keeps a s) (gang : List Nat) (base : Nat) (words : List (BitVec 256)) :
    Keeps a (State.writeStores s gang base words) := by
  unfold State.writeStores
  repeat' first
    | (with_reducible first | assumption | apply State_modSlice_keeps | apply keeps_fold | apply keeps_fold_pair | (intro _) | apply keeps_ite)
    | dsimp only | split

theorem State_admitted_keeps {a s : State} (h : Keeps a s) (cmd : Cmd) (code : Nat) (off : Nat) (detail : Nat) :
    Keeps a (State.admitted s cmd code off detail) := by
  unfold State.admitted
  repeat' first
    | (with_reducible first | assumption | apply State_setF_keeps | apply State_bump_keeps | apply State_conflict_keeps
                            | apply State_finishCmd_keeps | apply State_reject_keeps | apply keepsAt_of | apply keepsAt_draw | apply keeps_ite)
    | simp only [keeps_mk] | split

theorem State_admitOn_keeps {a s : State} (h : Keeps a s) (cmd : Cmd) (m : Image) (gang : List Nat) : Keeps a (State.admitOn s cmd m gang) := by
  unfold State.admitOn
  repeat' first
    | (with_reducible first | assumption | apply State_admitted_keeps | apply State_writeStores_keeps | apply State_takeRefs_keeps
                            | apply State_cancelRa_keeps | apply State_modCx_keeps | apply State_recert_keeps | (intro _) | apply keeps_ite)
    | dsimp only | split

theorem State_admitRoutineOn_keeps {a s : State} (h : Keeps a s) (cmd : Cmd) (m : Image) (slices : List Nat) :
    Keeps a (State.admitRoutineOn s cmd m slices) := by
  unfold State.admitRoutineOn
  repeat' first
    | (with_reducible first | assumption | apply State_admitted_keeps | apply State_writeStores_keeps | apply keepsAt_of | apply keepsAt_draw
                            | apply keeps_ite) | simp only [keeps_mk] | split

theorem State_noteImage_keeps {a s : State} (h : Keeps a s) (c : Nat) (m : Image) : Keeps a (State.noteImage s c m) := by
  unfold State.noteImage
  repeat' first
    | (with_reducible first | assumption | apply State_noteDesc_keeps | apply keeps_fold | apply keeps_fold_pair | (intro _) | apply keeps_ite)
    | dsimp only | split

theorem State_admitImage_keeps {a s : State} (h : Keeps a s) (cmd : Cmd) (routine : Bool) : Keeps a (State.admitImage s cmd routine) := by
  unfold State.admitImage
  repeat' first
    | (with_reducible first | assumption | apply State_fetchImage_keeps | apply State_admitted_keeps | apply State_noteImage_keeps
                            | apply State_admitRoutineOn_keeps | apply State_admitOn_keeps
                            | (refine keeps_of_pair (p := State.fetchImage _ _ _ _ _ _) ‹_› ?_) | apply keeps_ite) | dsimp only | split

theorem State_admitMicro_keeps {a s : State} (h : Keeps a s) (cmd : Cmd) : Keeps a (State.admitMicro s cmd) := by
  unfold State.admitMicro
  repeat' first
    | (with_reducible first | assumption | apply State_fetchImage_keeps | apply State_admitted_keeps | apply keepsAt_of | apply keepsAt_draw
                            | (refine keeps_of_pair (p := State.fetchImage _ _ _ _ _ _) ‹_› ?_) | apply keeps_fold | apply keeps_fold_pair
                            | (intro _) | apply keeps_ite) | simp only [keeps_mk] | split

theorem State_startAdmission_keeps {a s : State} (h : Keeps a s) (c : Cmd) : Keeps a (State.startAdmission s c) := by
  unfold State.startAdmission
  repeat' first
    | (with_reducible first | assumption | apply State_takeRefs_keeps | apply State_putCmd_keeps | apply keepsAt_of | apply keepsAt_draw
                            | apply keeps_ite) | simp only [keeps_mk] | split

theorem State_admitCmd_keeps {a s : State} (h : Keeps a s) (c : Cmd) : Keeps a (State.admitCmd s c) := by
  unfold State.admitCmd
  repeat' first
    | (with_reducible first | assumption | apply State_admitMicro_keeps | apply State_admitImage_keeps | apply keeps_ite) | dsimp only | split

theorem State_replace_keeps {a s : State} (h : Keeps a s) (c : Nat) (p : Program) : Keeps a (State.replace s c p).1 := by
  unfold State.replace
  repeat' first
    | (with_reducible first | assumption | apply State_writeStores_keeps | apply State_cancelRa_keeps | apply State_modCx_keeps
                            | apply State_recert_keeps | apply State_finishCmd_keeps | (intro _) | apply keeps_ite) | dsimp only | split

theorem State_openCtx_keeps {a s : State} (h : Keeps a s) (c : Nat) (p : Nat) : Keeps a (State.openCtx s c p) := by
  unfold State.openCtx
  repeat' first
    | (with_reducible first | assumption | apply State_setCx_keeps | apply State_setF_keeps | apply State_setB_keeps | apply keeps_ite)
    | dsimp only | split

theorem State_requestCtx_keeps {a s : State} (h : Keeps a s) (p : Nat) (stream : Bool) (group : Nat) :
    Keeps a (State.requestCtx s p stream group) := by
  unfold State.requestCtx
  repeat' first
    | (with_reducible first | assumption | apply State_setF_keeps | apply State_openCtx_keeps | apply keeps_ite) | dsimp only | split

theorem State_openQueue_keeps {a s : State} (h : Keeps a s) (q : Nat) (p : Nat) (c : Nat) (depth : Nat) (validated : Bool) (ring : Nat) :
    Keeps a (State.openQueue s q p c depth validated ring) := by
  unfold State.openQueue
  repeat' first
    | (with_reducible first | assumption | apply State_setF_keeps | apply State_setB_keeps | apply keepsAt_of | apply keepsAt_draw
                            | apply keepsAt_put | apply keeps_ite) | simp only [keeps_mk] | split

theorem State_requestQueue_keeps {a s : State} (h : Keeps a s) (p : Nat) : Keeps a (State.requestQueue s p) := by
  unfold State.requestQueue
  repeat' first
    | (with_reducible first | assumption | apply State_setF_keeps | apply State_openQueue_keeps | apply keeps_ite) | dsimp only | split

theorem State_releaseQueue_keeps {a s : State} (h : Keeps a s) (p : Nat) (q : Nat) : Keeps a (State.releaseQueue s p q) := by
  unfold State.releaseQueue
  repeat' first
    | (with_reducible first | assumption | apply keepsAt_of | apply keepsAt_draw | apply keeps_ite) | simp only [keeps_mk] | split

theorem State_resetQueue_keeps {a s : State} (h : Keeps a s) (q : Nat) : Keeps a (State.resetQueue s q) := by
  unfold State.resetQueue
  repeat' first
    | (with_reducible first | assumption | apply State_resetPage_keeps | apply State_setBusy_keeps | apply keepsAt_of | apply keepsAt_draw
                            | apply keeps_ite) | simp only [keeps_mk] | split

theorem State_resetCtx_keeps {a s : State} (h : Keeps a s) (c : Nat) (release : Bool) : Keeps a (State.resetCtx s c release) := by
  unfold State.resetCtx
  repeat' first
    | (with_reducible first | assumption | apply State_modSlice_keeps | apply State_setCx_keeps | apply State_resetPage_keeps
                            | apply State_setBusy_keeps | apply keepsAt_of | apply keepsAt_draw | apply keeps_fold | apply keeps_fold_pair
                            | (intro _) | apply keeps_ite) | simp only [keeps_mk] | split

theorem State_resetPort_keeps {a s : State} (h : Keeps a s) (p : Nat) : Keeps a (State.resetPort s p) := by
  unfold State.resetPort
  repeat' first
    | (with_reducible first | assumption | apply State_setBusy_keeps | apply State_resetPage_keeps | apply State_setF_keeps | apply keeps_fold
                            | apply keeps_fold_pair | (intro _) | apply keeps_ite) | dsimp only | split

theorem State_beginTear_keeps {a s : State} (h : Keeps a s) (cs : List Nat) (release : Bool) : Keeps a (State.beginTear s cs release) := by
  unfold State.beginTear
  repeat' first
    | (with_reducible first | assumption | apply State_modCx_keeps | apply State_setF_keeps | apply State_dropRefs_keeps | apply State_setB_keeps
                            | apply keepsAt_of | apply keepsAt_draw | apply keeps_fold | apply keeps_fold_pair | (intro _) | apply keeps_ite)
    | simp only [keeps_mk] | split

theorem State_detachNow_keeps {a s : State} (h : Keeps a s) (g : Nat) : Keeps a (State.detachNow s g) := by
  unfold State.detachNow
  repeat' first
    | (with_reducible first | assumption | apply State_reject_keeps | apply State_finishCmd_keeps | apply State_modGrp_keeps
                            | apply State_setB_keeps | apply keeps_fold | apply keeps_fold_pair | (intro _) | apply keeps_ite) | dsimp only | split

theorem State_tearWork_keeps {a s : State} (h : Keeps a s) (c : Nat) : Keeps a (State.tearWork s c) := by
  unfold State.tearWork
  repeat' first
    | (with_reducible first | assumption | apply State_cutHost_keeps | apply State_finishCmd_keeps | apply State_cancelRa_keeps
                            | apply State_cancelBus_keeps | apply State_dropCreations_keeps | apply State_detachNow_keeps
                            | apply State_admitCmd_keeps | apply State_freeProgram_keeps | apply State_modCx_keeps | apply keepsAt_of
                            | apply keepsAt_draw | apply keeps_fold | apply keeps_fold_pair | (intro _) | apply keeps_ite)
    | simp only [keeps_mk] | split

theorem State_dropPortObjs_keeps {a s : State} (h : Keeps a s) (p : Nat) (cs : List Nat) : Keeps a (State.dropPortObjs s p cs) := by
  unfold State.dropPortObjs
  repeat' first
    | (with_reducible first | assumption | apply State_unmapObj_keeps | apply State_changeRefs_keeps | apply keeps_fold | apply keeps_fold_pair
                            | (intro _) | apply keeps_ite) | dsimp only | split

theorem State_dropCtxObjs_keeps {a s : State} (h : Keeps a s) (c : Nat) (p : Nat) : Keeps a (State.dropCtxObjs s c p) := by
  unfold State.dropCtxObjs
  repeat' first
    | (with_reducible first | assumption | apply State_changeRefs_keeps | apply State_unmapObj_keeps | apply keeps_fold | apply keeps_fold_pair
                            | (intro _) | apply keeps_ite) | dsimp only | split

theorem State_setPort_keeps {a s : State} (h : Keeps a s) (p : Nat) (x : PortTear) : Keeps a (State.setPort s p x) := by
  unfold State.setPort
  repeat' first
    | (with_reducible first | assumption | apply keepsAt_of | apply keepsAt_draw | apply keepsAt_put | apply keeps_ite) | simp only [keeps_mk]
    | split

theorem State_closeQueues_keeps {a s : State} (h : Keeps a s) (cs : List Nat) : Keeps a (State.closeQueues s cs) := by
  unfold State.closeQueues
  repeat' first
    | (with_reducible first | assumption | apply State_resetQueue_keeps | apply keeps_fold | apply keeps_fold_pair | (intro _) | apply keeps_ite)
    | dsimp only | split

theorem State_ctxControl_keeps {a s : State} (h : Keeps a s) (c : Nat) (reset : Bool) (release : Bool) :
    Keeps a (State.ctxControl s c reset release) := by
  unfold State.ctxControl
  repeat' first
    | (with_reducible first | assumption | apply State_beginTear_keeps | apply keeps_ite) | dsimp only | split

theorem State_losePort_keeps {a s : State} (h : Keeps a s) (p : Nat) : Keeps a (State.losePort s p) := by
  unfold State.losePort
  repeat' first
    | (with_reducible first | assumption | apply State_setB_keeps | apply State_setPort_keeps | apply State_beginTear_keeps | apply keeps_ite)
    | dsimp only | split

theorem State_dropLink_keeps {a s : State} (h : Keeps a s) (p : Nat) : Keeps a (State.dropLink s p) := by
  unfold State.dropLink
  repeat' first
    | (with_reducible first | assumption | apply State_setF_keeps | apply State_setB_keeps | apply keeps_ite) | dsimp only | split

theorem State_setD3_keeps {a s : State} (h : Keeps a s) (p : Nat) (on : Bool) : Keeps a (State.setD3 s p on) := by
  unfold State.setD3
  repeat' first
    | (with_reducible first | assumption | apply keepsAt_of | apply keepsAt_draw | apply keeps_ite) | simp only [keeps_mk] | split

theorem State_setPerst_keeps {a s : State} (h : Keeps a s) (p : Nat) (up : Bool) : Keeps a (State.setPerst s p up) := by
  unfold State.setPerst
  repeat' first
    | (with_reducible first | assumption | apply keepsAt_of | apply keepsAt_draw | apply keeps_ite) | simp only [keeps_mk] | split

end Sys2Proof.Laws
end

