-- ==== Sys2Proof/Laws/Frame4.lean ====
section
/-! SUPPORT. One lemma for each shared operation that gives a state (part 4 of 4): it carries `Keeps`.
From `State.loseLink` to `State.answer`. -/

namespace Sys2Proof.Laws
open Sys2Proof Sys2Proof.Machine

theorem State_loseLink_keeps {a s : State} (h : Keeps a s) (p : Nat) (flr : Bool) : Keeps a (State.loseLink s p flr) := by
  unfold State.loseLink
  repeat' first
    | (with_reducible first | assumption | apply State_bump_keeps | apply State_losePort_keeps | apply State_setD3_keeps
                            | apply State_dropLink_keeps | apply keeps_ite) | dsimp only | split

theorem State_publish_keeps {a s : State} (h : Keeps a s) : Keeps a (State.publish s) := by
  unfold State.publish
  repeat' first
    | (with_reducible first | assumption | apply State_setF_keeps | apply keeps_fold | apply keeps_fold_pair | (intro _) | apply keeps_ite)
    | dsimp only | split

theorem State_activate_keeps {a s : State} (h : Keeps a s) (c : Sched) : Keeps a (State.activate s c) := by
  unfold State.activate
  repeat' first
    | (with_reducible first | assumption | apply State_setF_keeps | apply State_publish_keeps | apply keepsAt_of | apply keepsAt_draw
                            | apply keeps_fold | apply keeps_fold_pair | (intro _) | apply keeps_ite) | simp only [keeps_mk] | split

theorem State_activatePending_keeps {a s : State} (h : Keeps a s) : Keeps a (State.activatePending s) := by
  unfold State.activatePending
  repeat' first
    | (with_reducible first | assumption | apply State_activate_keeps | (intro _) | apply keeps_ite) | dsimp only | split

theorem State_checkHot_keeps {a s : State} (h : Keeps a s) : Keeps a (State.checkHot s) := by
  unfold State.checkHot
  repeat' first
    | (with_reducible first | assumption | apply State_setB_keeps | apply State_conflict_keeps | apply keeps_ite) | dsimp only | split

theorem State_commit_keeps {a s : State} (h : Keeps a s) : Keeps a (State.commit s) := by
  unfold State.commit
  repeat' first
    | (with_reducible first | assumption | apply State_setF_keeps | apply State_setB_keeps | apply State_activatePending_keeps
                            | apply State_checkHot_keeps | apply State_irq_keeps | apply keepsAt_of | apply keepsAt_draw | apply keeps_ite)
    | simp only [keeps_mk] | split

theorem State_afterRun_keeps {a s : State} (h : Keeps a s) (was : Bool) : Keeps a (State.afterRun s was) := by
  unfold State.afterRun
  repeat' first
    | (with_reducible first | assumption | apply State_setB_keeps | apply State_publish_keeps | apply State_checkHot_keeps | apply keepsAt_of
                            | apply keepsAt_draw | apply keeps_ite) | simp only [keeps_mk] | split

theorem State_armRelock_keeps {a s : State} (h : Keeps a s) : Keeps a (State.armRelock s) := by
  unfold State.armRelock
  repeat' first
    | (with_reducible first | assumption | apply State_setB_keeps | apply keeps_ite) | dsimp only | split

theorem State_applyBand_keeps {a s : State} (h : Keeps a s) : Keeps a (State.applyBand s) := by
  unfold State.applyBand
  repeat' first
    | (with_reducible first | assumption | apply State_checkHot_keeps | apply State_setF_keeps | apply keepsAt_of | apply keepsAt_draw
                            | apply keeps_ite) | simp only [keeps_mk] | split

theorem State_cutHosts_keeps {a s : State} (h : Keeps a s) : Keeps a (State.cutHosts s) := by
  unfold State.cutHosts
  repeat' first
    | (with_reducible first | assumption | apply State_cutHost_keeps | apply keeps_fold | apply keeps_fold_pair | (intro _) | apply keeps_ite)
    | dsimp only | split

theorem State_hold_keeps {a s : State} (h : Keeps a s) (c : Nat) (byRule : Nat) : Keeps a (State.hold s c byRule) := by
  unfold State.hold
  repeat' first
    | (with_reducible first | assumption | apply State_irq_keeps | apply State_setF_keeps | apply State_setB_keeps | apply State_record_keeps
                            | apply keeps_ite) | dsimp only | split

theorem State_unhold_keeps {a s : State} (h : Keeps a s) (c : Nat) : Keeps a (State.unhold s c) := by
  unfold State.unhold
  repeat' first
    | (with_reducible first | assumption | apply State_setB_keeps | apply keeps_ite) | dsimp only | split

theorem State_startRecord_keeps {a s : State} (h : Keeps a s) (shed : Nat) (c : Nat) : Keeps a (State.startRecord s shed c) := by
  unfold State.startRecord
  repeat' first
    | (with_reducible first | assumption | apply State_setF_keeps | apply State_unhold_keeps | apply State_hold_keeps | apply State_modCx_keeps
                            | apply keeps_ite) | dsimp only | split

theorem State_detachEdge_keeps {a s : State} (h : Keeps a s) (g : Nat) : Keeps a (State.detachEdge s g) := by
  unfold State.detachEdge
  repeat' first
    | (with_reducible first | assumption | apply State_modGrp_keeps | apply State_setB_keeps | apply State_finishCmd_keeps
                            | apply State_unhold_keeps | apply keeps_ite) | dsimp only | split

theorem State_attachEdge_keeps {a s : State} (h : Keeps a s) (g : Nat) : Keeps a (State.attachEdge s g) := by
  unfold State.attachEdge
  repeat' first
    | (with_reducible first | assumption | apply State_setB_keeps | apply State_modGrp_keeps | apply State_finishCmd_keeps
                            | apply State_raiseClock_keeps | apply keeps_fold | apply keeps_fold_pair | (intro _) | apply keeps_ite)
    | dsimp only | split

theorem State_endLink_keeps {a s : State} (h : Keeps a s) : Keeps a (State.endLink s) := by
  unfold State.endLink
  repeat' first
    | (with_reducible first | assumption | apply State_detachEdge_keeps | apply State_closeFrame_keeps | apply State_formDecision_keeps
                            | apply keepsAt_of | apply keepsAt_draw | apply keeps_fold | apply keeps_fold_pair | (intro _) | apply keeps_ite)
    | simp only [keeps_mk] | split

theorem State_beginLink_keeps {a s : State} (h : Keeps a s) (t : Nat) : Keeps a (State.beginLink s t) := by
  unfold State.beginLink
  repeat' first
    | (with_reducible first | assumption | apply State_attachEdge_keeps | apply State_openFrame_keeps | apply State_evalTx_keeps
                            | apply State_restTrig_keeps | apply State_latchLink_keeps | apply keeps_fold | apply keeps_fold_pair | (intro _)
                            | apply keeps_ite) | dsimp only | split

theorem State_clearPinned_keeps {a s : State} (h : Keeps a s) (c : Nat) (p : Program) : Keeps a (State.clearPinned s c p) := by
  unfold State.clearPinned
  repeat' first
    | (with_reducible first | assumption | apply State_startEpoch_keeps | apply State_switchTo_keeps | apply State_modCx_keeps
                            | apply State_modSlice_keeps | apply keeps_fold | apply keeps_fold_pair | (intro _) | apply keeps_ite) | dsimp only
    | split

theorem State_riseTickOut_keeps {a s : State} (h : Keeps a s) : Keeps a (State.riseTickOut s) := by
  unfold State.riseTickOut
  repeat' first
    | (with_reducible first | assumption | apply keepsAt_of | apply keepsAt_draw | apply keeps_ite) | simp only [keeps_mk] | split

theorem State_stopEdge_keeps {a s : State} (h : Keeps a s) : Keeps a (State.stopEdge s) := by
  unfold State.stopEdge
  repeat' first
    | (with_reducible first | assumption | apply State_stopLink_keeps | apply State_setB_keeps | apply State_applyBand_keeps
                            | apply State_riseTickOut_keeps | apply keepsAt_of | apply keepsAt_draw | apply keeps_ite) | simp only [keeps_mk] | split

theorem State_beginTick_keeps {a s : State} (h : Keeps a s) (t : Nat) (shed : Nat) : Keeps a (State.beginTick s t shed) := by
  unfold State.beginTick
  repeat' first
    | (with_reducible first | assumption | apply State_setB_keeps | apply State_setF_keeps | apply State_applyBand_keeps
                            | apply State_startRecord_keeps | apply State_beginLink_keeps | apply State_clearPinned_keeps | apply State_modCx_keeps
                            | apply State_riseTickOut_keeps | apply keepsAt_of | apply keepsAt_draw | apply keeps_fold | apply keeps_fold_pair
                            | (intro _) | apply keeps_ite) | simp only [keeps_mk] | split

theorem State_edge_keeps {a s : State} (h : Keeps a s) (at_ : Nat) (t : Nat) : Keeps a (State.edge s at_ t) := by
  unfold State.edge
  repeat' first
    | (with_reducible first | assumption | apply State_cutHosts_keeps | apply State_dropStaging_keeps | apply State_setF_keeps
                            | apply State_activatePending_keeps | apply State_governEdge_keeps | apply State_endLink_keeps
                            | apply State_beginTick_keeps | apply State_stopEdge_keeps | apply keepsAt_of | apply keepsAt_draw | apply keeps_fold
                            | apply keeps_fold_pair | (intro _) | apply keeps_ite) | simp only [keeps_mk] | split

theorem State_realEdge_keeps {a s : State} (h : Keeps a s) (at_ : Nat) (t : Nat) : Keeps a (State.realEdge s at_ t) := by
  unfold State.realEdge
  repeat' first
    | (with_reducible first | assumption | apply State_edge_keeps | apply State_setB_keeps | apply State_setF_keeps | apply keeps_ite) | dsimp only
    | split

theorem State_startStream_keeps {a s : State} (h : Keeps a s) (c : Nat) (p : Program) : Keeps a (State.startStream s c p) := by
  unfold State.startStream
  repeat' first
    | (with_reducible first | assumption | apply State_shed_keeps | apply State_modCx_keeps | apply State_setF_keeps | apply State_modSlice_keeps
                            | apply keeps_fold | apply keeps_fold_pair | (intro _) | apply keeps_ite) | dsimp only | split

theorem State_noteGranules_keeps {a s : State} (h : Keeps a s) (g : List (Nat × Nat × Nat)) : Keeps a (State.noteGranules s g) := by
  unfold State.noteGranules
  repeat' first
    | (with_reducible first | assumption | apply State_noteRead_keeps | apply keeps_fold | apply keeps_fold_pair | (intro _) | apply keeps_ite)
    | dsimp only | split

theorem State_hostRead_keeps {a s : State} (h : Keeps a s) (p : Nat) (bankView : Bool) (a1 : Nat) (n : Nat) :
    Keeps a (State.hostRead s p bankView a1 n).1 := by
  unfold State.hostRead
  repeat' first
    | (with_reducible first | assumption | apply State_noteGranules_keeps | apply State_readMem_keeps | apply State_bump_keeps
                            | (refine keeps_of_pair (p := State.readMem _ _ _ _ _) ‹_› ?_) | apply keeps_fold | apply keeps_fold_pair | (intro _)
                            | apply keeps_ite) | dsimp only | split

theorem State_readDone_keeps {a s : State} (h : Keeps a s) (p : Nat) : Keeps a (State.readDone s p) := by
  unfold State.readDone
  repeat' first
    | (with_reducible first | assumption | apply keepsAt_of | apply keepsAt_draw | apply keepsAt_drop | apply keeps_ite) | simp only [keeps_mk]
    | split

theorem State_writeUnder_keeps {a s : State} (h : Keeps a s) (beat : Nat) (off : Nat) (l : List Byte) (other : Nat) (badParity : Bool) :
    Keeps a (State.writeUnder s beat off l other badParity) := by
  unfold State.writeUnder
  repeat' first
    | (with_reducible first | assumption | apply State_bump_keeps | apply State_readBeat_keeps | apply State_storeBeat_keeps
                            | (refine keeps_of_pair (p := State.readBeat _ _ _) ‹_› ?_) | apply keeps_ite) | dsimp only | split

theorem State_hostBeat_keeps {a s : State} (h : Keeps a s) (p : Nat) (bankView : Bool) (beat : Nat) (off : Nat) (l : List Byte) (badParity : Bool) :
    Keeps a (State.hostBeat s p bankView beat off l badParity) := by
  unfold State.hostBeat
  repeat' first
    | (with_reducible first | assumption | apply State_writeBeat_keeps | apply State_writeUnder_keeps | apply keepsAt_of | apply keepsAt_draw
                            | apply keepsAt_put | apply keeps_ite) | simp only [keeps_mk] | split

theorem State_hostBytes_keeps {a s : State} (h : Keeps a s) (p : Nat) (bankView : Bool) (b : Nat) (l : List Byte) (badParity : Bool) :
    Keeps a (State.hostBytes s p bankView b l badParity) := by
  unfold State.hostBytes
  repeat' first
    | (with_reducible first | assumption | apply State_hostBeat_keeps | apply keeps_fold | apply keeps_fold_pair | (intro _) | apply keeps_ite)
    | dsimp only | split

theorem State_hostWrite_keeps {a s : State} (h : Keeps a s) (p : Nat) (bankView : Bool) (a1 : Nat) (l : List Byte) (badParity : Bool) :
    Keeps a (State.hostWrite s p bankView a1 l badParity) := by
  unfold State.hostWrite
  repeat' first
    | (with_reducible first | assumption | apply State_noteGranules_keeps | apply State_bump_keeps | apply State_setF_keeps
                            | apply State_hostBytes_keeps | apply keeps_fold | apply keeps_fold_pair | (intro _) | apply keeps_ite)
    | dsimp only | split

theorem State_access_keeps {a s : State} (h : Keeps a s) (h : HeldAcc) : Keeps a (State.access s h) := by
  unfold State.access
  repeat' first
    | (with_reducible first | assumption | apply State_emit_keeps | apply State_hostWrite_keeps | apply State_hostRead_keeps
                            | apply State_readDone_keeps | (refine keeps_of_pair (p := State.hostRead _ _ _ _ _) ‹_› ?_) | apply keeps_ite)
    | dsimp only | split

theorem State_arrive_keeps {a s : State} (h : Keeps a s) (h : HeldAcc) : Keeps a (State.arrive s h) := by
  unfold State.arrive
  repeat' first
    | (with_reducible first | assumption | apply State_emit_keeps | apply State_access_keeps | apply keepsAt_of | apply keepsAt_draw
                            | apply keeps_ite) | simp only [keeps_mk] | split

theorem State_strikeAll_keeps {a s : State} (h : Keeps a s) (u : List Flip) : Keeps a (State.strikeAll s u) := by
  unfold State.strikeAll
  repeat' first
    | (with_reducible first | assumption | apply State_strike_keeps | apply keeps_fold | apply keeps_fold_pair | (intro _) | apply keeps_ite)
    | dsimp only | split

theorem State_setDebt_keeps {a s : State} (h : Keeps a s) (d : Nat) : Keeps a (State.setDebt s d) := by
  unfold State.setDebt
  repeat' first
    | (with_reducible first | assumption | apply State_setF_keeps | apply keepsAt_of | apply keepsAt_draw | apply keeps_fold | apply keeps_fold_pair
                            | (intro _) | apply keeps_ite) | simp only [keeps_mk] | split

theorem State_dropHeld_keeps {a s : State} (h : Keeps a s) : Keeps a (State.dropHeld s) := by
  unfold State.dropHeld
  repeat' first
    | (with_reducible first | assumption | apply State_access_keeps | apply keepsAt_of | apply keepsAt_draw | apply keeps_fold
                            | apply keeps_fold_pair | (intro _) | apply keeps_ite) | simp only [keeps_mk] | split

theorem State_blankFabric_keeps {a s : State} (h : Keeps a s) : Keeps a (State.blankFabric s) := by
  unfold State.blankFabric
  repeat' first
    | (with_reducible first | assumption | apply State_setF_keeps | apply State_dropStaging_keeps | apply keepsAt_of | apply keepsAt_draw
                            | apply keeps_fold | apply keeps_fold_pair | (intro _) | apply keeps_ite) | simp only [keeps_mk] | split

theorem State_fabricReset_keeps {a s : State} (h : Keeps a s) : Keeps a (State.fabricReset s) := by
  unfold State.fabricReset
  repeat' first
    | (with_reducible first | assumption | apply State_resetPage_keeps | apply State_setBusy_keeps | apply State_blankFabric_keeps
                            | apply State_emit_keeps | apply keepsAt_of | apply keepsAt_draw | apply keeps_fold | apply keeps_fold_pair
                            | (intro _) | apply keeps_ite) | simp only [keeps_mk] | split

theorem State_floatIo_keeps {a s : State} (h : Keeps a s) : Keeps a (State.floatIo s) := by
  unfold State.floatIo
  repeat' first
    | (with_reducible first | assumption | apply keepsAt_of | apply keepsAt_draw | apply keeps_ite) | simp only [keeps_mk] | split

theorem State_stopClove_keeps {a s : State} (h : Keeps a s) : Keeps a (State.stopClove s) := by
  unfold State.stopClove
  repeat' first
    | (with_reducible first | assumption | apply State_setB_keeps | apply keepsAt_of | apply keepsAt_draw | apply keeps_ite) | simp only [keeps_mk]
    | split

theorem State_failLoad_keeps {a s : State} (h : Keeps a s) (cause : Nat) : Keeps a (State.failLoad s cause) := by
  unfold State.failLoad
  repeat' first
    | (with_reducible first | assumption | apply State_blankFabric_keeps | apply State_setB_keeps | apply State_setF_keeps
                            | apply State_reject_keeps | apply keepsAt_of | apply keepsAt_draw | apply keeps_ite) | simp only [keeps_mk] | split

theorem State_readImage_keeps {a s : State} (h : Keeps a s) (off : Nat) (n : Nat) : Keeps a (State.readImage s off n).1 := by
  unfold State.readImage
  repeat' first
    | (with_reducible first | assumption | apply State_readVa_keeps | (refine keeps_of_pair (p := State.readVa _ _ _ _ _) ‹_› ?_) | apply keeps_ite)
    | dsimp only | split

theorem State_putFrame_keeps {a s : State} (h : Keeps a s) (i : Nat) (l : List Byte) : Keeps a (State.putFrame s i l) := by
  unfold State.putFrame
  repeat' first
    | (with_reducible first | assumption | apply keepsAt_of | apply keepsAt_draw | apply keeps_ite) | simp only [keeps_mk] | split

theorem State_admitManifest_keeps {a s : State} (h : Keeps a s) (n : Nat) (m : List W32) (par : List (BitVec 4)) :
    Keeps a (State.admitManifest s n m par) := by
  unfold State.admitManifest
  repeat' first
    | (with_reducible first | assumption | apply State_setF_keeps | apply keeps_fold | apply keeps_fold_pair | (intro _) | apply keeps_ite)
    | dsimp only | split

theorem State_putEngine_keeps {a s : State} (h : Keeps a s) : Keeps a (State.putEngine s) := by
  unfold State.putEngine
  repeat' first
    | (with_reducible first | assumption | apply State_setF_keeps | apply keeps_fold | apply keeps_fold_pair | (intro _) | apply keeps_ite)
    | dsimp only | split

theorem State_giveGolden_keeps {a s : State} (h : Keeps a s) : Keeps a (State.giveGolden s) := by
  unfold State.giveGolden
  repeat' first
    | (with_reducible first | assumption | apply keepsAt_of | apply keepsAt_draw | apply keeps_ite) | simp only [keeps_mk] | split

theorem State_loadDone_keeps {a s : State} (h : Keeps a s) : Keeps a (State.loadDone s) := by
  unfold State.loadDone
  repeat' first
    | (with_reducible first | assumption | apply State_putEngine_keeps | apply State_admitManifest_keeps | apply State_setB_keeps
                            | apply State_bump_keeps | apply State_setF_keeps | apply State_giveGolden_keeps | apply State_finishCmd_keeps
                            | apply State_modSlice_keeps | apply State_boundClock_keeps | apply State_checkTarget_keeps | apply keepsAt_of
                            | apply keepsAt_draw | apply keeps_fold | apply keeps_fold_pair | (intro _) | apply keeps_ite)
    | simp only [keeps_mk] | split

theorem State_unverify_keeps {a s : State} (h : Keeps a s) : Keeps a (State.unverify s) := by
  unfold State.unverify
  repeat' first
    | (with_reducible first | assumption | apply State_setB_keeps | apply keepsAt_of | apply keepsAt_draw | apply keeps_ite) | simp only [keeps_mk]
    | split

theorem State_scrubFault_keeps {a s : State} (h : Keeps a s) (disagree : Bool) : Keeps a (State.scrubFault s disagree) := by
  unfold State.scrubFault
  repeat' first
    | (with_reducible first | assumption | apply State_irq_keeps | apply State_unverify_keeps | apply State_setB_keeps | apply State_record_keeps
                            | apply keeps_ite) | dsimp only | split

theorem State_failEngine_keeps {a s : State} (h : Keeps a s) (b : Bool) (cause : Nat) : Keeps a (State.failEngine s b cause) := by
  unfold State.failEngine
  repeat' first
    | (with_reducible first | assumption | apply State_setF_keeps | apply State_setB_keeps | apply State_scrubFault_keeps | apply State_record_keeps
                            | apply State_irq_keeps | apply keeps_ite) | dsimp only | split

theorem State_cfgUe_keeps {a s : State} (h : Keeps a s) (frame : Nat) (detail : Nat) : Keeps a (State.cfgUe s frame detail) := by
  unfold State.cfgUe
  repeat' first
    | (with_reducible first | assumption | apply State_record_keeps | apply State_irq_keeps | apply State_unverify_keeps | apply keeps_ite)
    | dsimp only | split

theorem State_scrubUnit_keeps {a s : State} (h : Keeps a s) (i : Nat) (u : Nat) : Keeps a (State.scrubUnit s i u).1 := by
  unfold State.scrubUnit
  repeat' first
    | (with_reducible first | assumption | apply State_cfgUe_keeps | apply State_bump_keeps | apply State_record_keeps | apply keepsAt_of
                            | apply keepsAt_draw | apply keepsAt_put | apply keeps_ite) | simp only [keeps_mk] | split

theorem State_strikeCfg_keeps {a s : State} (h : Keeps a s) (k : Nat) (bit : Nat) : Keeps a (State.strikeCfg s k bit) := by
  unfold State.strikeCfg
  repeat' first
    | (with_reducible first | assumption | apply keepsAt_of | apply keepsAt_draw | apply keepsAt_put | apply keeps_ite) | simp only [keeps_mk]
    | split

theorem State_endPass_keeps {a s : State} (h : Keeps a s) (b : Bool) : Keeps a (State.endPass s b) := by
  unfold State.endPass
  repeat' first
    | (with_reducible first | assumption | apply State_setF_keeps | apply State_bump_keeps | apply State_setB_keeps | apply State_cfgUe_keeps
                            | apply State_failEngine_keeps | apply State_scrubFault_keeps | apply keepsAt_of | apply keepsAt_draw | apply keeps_ite)
    | simp only [keeps_mk] | split

theorem State_pairReset_keeps {a s : State} (h : Keeps a s) : Keeps a (State.pairReset s) := by
  unfold State.pairReset
  repeat' first
    | (with_reducible first | assumption | apply State_setB_keeps | apply State_giveGolden_keeps | apply State_setF_keeps | apply keepsAt_of
                            | apply keepsAt_draw | apply keeps_fold | apply keeps_fold_pair | (intro _) | apply keeps_ite) | simp only [keeps_mk]
    | split

theorem State_dropRec_keeps {a s : State} (h : Keeps a s) (id : Nat) : Keeps a (State.dropRec s id) := by
  unfold State.dropRec
  repeat' first
    | (with_reducible first | assumption | apply keepsAt_of | apply keepsAt_draw | apply keeps_ite) | simp only [keeps_mk] | split

theorem State_settleLast_keeps {a s : State} (h : Keeps a s) (r : AniRec) (replay : Nat) (third : Nat) (outcome : Nat) :
    Keeps a (State.settleLast s r replay third outcome) := by
  unfold State.settleLast
  repeat' first
    | (with_reducible first | assumption | apply State_setF_keeps | apply keeps_ite) | dsimp only | split

theorem State_unresolved_keeps {a s : State} (h : Keeps a s) (r : AniRec) (replay : Nat) (third : Nat) :
    Keeps a (State.unresolved s r replay third) := by
  unfold State.unresolved
  repeat' first
    | (with_reducible first | assumption | apply State_record_keeps | apply State_dropRec_keeps | apply State_settleLast_keeps
                            | apply State_healthError_keeps | apply keeps_ite) | dsimp only | split

theorem State_disagree_keeps {a s : State} (h : Keeps a s) (r : AniRec) (n : Nat) (result : List Byte) : Keeps a (State.disagree s r n result) := by
  unfold State.disagree
  repeat' first
    | (with_reducible first | assumption | apply State_recordNum_keeps | apply State_bump_keeps | apply State_healthError_keeps
                            | apply State_setF_keeps | apply State_irq_keeps | apply State_modGrp_keeps | apply State_post_keeps | apply keepsAt_of
                            | apply keepsAt_draw | (refine keeps_of_pair (p := State.recordNum _ _) ‹_› ?_) | apply keeps_fold
                            | apply keeps_fold_pair | (intro _) | apply keeps_ite) | simp only [keeps_mk] | split

theorem State_third_keeps {a s : State} (h : Keeps a s) (r : AniRec) (replay : Nat) (old : List Byte) (n : Nat) (result : List Byte) :
    Keeps a (State.third s r replay old n result) := by
  unfold State.third
  repeat' first
    | (with_reducible first | assumption | apply State_record_keeps | apply State_healthError_keeps | apply State_dropRec_keeps
                            | apply State_settleLast_keeps | apply State_unresolved_keeps | apply keeps_ite) | dsimp only | split

theorem State_runItem_keeps {a s : State} (h : Keeps a s) (it : PatItem) (result : List Byte) : Keeps a (State.runItem s it result) := by
  unfold State.runItem
  repeat' first
    | (with_reducible first | assumption | apply State_bump_keeps | apply State_record_keeps | apply State_healthError_keeps | apply keepsAt_of
                            | apply keepsAt_draw | apply keeps_ite) | simp only [keeps_mk] | split

theorem State_clearHealth_keeps {a s : State} (h : Keeps a s) (n : Nat) : Keeps a (State.clearHealth s n) := by
  unfold State.clearHealth
  repeat' first
    | (with_reducible first | assumption | apply State_setF_keeps | apply State_setHealth_keeps | apply keeps_ite) | dsimp only | split

theorem State_testInterval_keeps {a s : State} (h : Keeps a s) (n : Nat) : Keeps a (State.testInterval s n) := by
  unfold State.testInterval
  repeat' first
    | (with_reducible first | assumption | apply State_modSlice_keeps | apply State_bump_keeps | apply State_setB_keeps | apply keeps_ite)
    | dsimp only | split

theorem State_startCold_keeps {a : State} {s : State} (h : Keeps a s) (cause : Nat) : Keeps a (State.startCold s cause) := by
  unfold State.startCold State.coldState
  apply State_bump_keeps
  apply State_setF_keeps
  simp only [keeps_mk]
  exact ⟨rfl, spFilter_wf h.regs _, by simp [Power.nested], h.pending, h.fuses, h.now, h.out, h.bits⟩

theorem State_clockEffect_keeps {a s : State} (h : Keeps a s) (k : RefClk) : Keeps a (State.clockEffect s k) := by
  unfold State.clockEffect
  repeat' first
    | (with_reducible first | assumption | apply State_startCold_keeps | apply State_loseLock_keeps | apply State_loseLink_keeps | apply keeps_fold
                            | apply keeps_fold_pair | (intro _) | apply keeps_ite) | dsimp only | split

theorem State_jtagIr_keeps {a s : State} (h : Keeps a s) (ir : Nat) (drive : Option (List Bool)) (floated : Bool) :
    Keeps a (State.jtagIr s ir drive floated) := by
  unfold State.jtagIr
  repeat' first
    | (with_reducible first | assumption | apply keepsAt_of | apply keepsAt_draw | apply keeps_ite) | simp only [keeps_mk] | split

theorem State_refuse_keeps {a s : State} (h : Keeps a s) (src : Src) (pg : Page) (locked : Bool) : Keeps a (State.refuse s src pg locked) := by
  unfold State.refuse
  repeat' first
    | (with_reducible first | assumption | apply State_setB_keeps | apply State_setF_keeps | apply State_bump_keeps | apply keeps_ite)
    | dsimp only | split

theorem State_strayWrite_keeps {a s : State} (h : Keeps a s) (src : Src) : Keeps a (State.strayWrite s src) := by
  unfold State.strayWrite
  repeat' first
    | (with_reducible first | assumption | apply State_setF_keeps | apply State_bump_keeps | apply keeps_ite) | dsimp only | split

theorem State_takeWr_keeps {a s : State} (h : Keeps a s) (pg : Page) (w : Wr) : Keeps a (State.takeWr s pg w) := by
  unfold State.takeWr
  repeat' first
    | (with_reducible first | assumption | apply State_setF_keeps | apply keeps_ite) | dsimp only | split

theorem State_softReset_keeps {a s : State} (h : Keeps a s) (pg : Page) : Keeps a (State.softReset s pg) := by
  unfold State.softReset
  repeat' first
    | (with_reducible first | assumption | apply State_setF_keeps | apply State_resetBlock_keeps | apply State_setBusy_keeps
                            | apply State_afterRun_keeps | apply State_publish_keeps | apply State_modSlice_keeps | apply State_loseLock_keeps
                            | apply State_evalGroups_keeps | apply State_checkTarget_keeps | apply keepsAt_of | apply keepsAt_draw
                            | apply keeps_fold | apply keeps_fold_pair | (intro _) | apply keeps_ite) | simp only [keeps_mk] | split

theorem State_hdrHook_keeps {a s : State} (h : Keeps a s) (pg : Page) (l : List Wr) : Keeps a (State.hdrHook s pg l) := by
  unfold State.hdrHook
  repeat' first
    | (with_reducible first | assumption | apply State_irq_keeps | apply State_softReset_keeps | apply keeps_ite) | dsimp only | split

theorem State_setZoneView_keeps {a s : State} (h : Keeps a s) (i : Nat) (v : Nat) : Keeps a (State.setZoneView s i v) := by
  unfold State.setZoneView
  repeat' first
    | (with_reducible first | assumption | apply State_bump_keeps | apply State_setF_keeps | apply keeps_ite) | dsimp only | split

theorem State_setFruHead_keeps {a s : State} (h : Keeps a s) (v : Nat) : Keeps a (State.setFruHead s v) := by
  unfold State.setFruHead
  repeat' first
    | (with_reducible first | assumption | apply State_setF_keeps | apply keeps_ite) | dsimp only | split

theorem State_clearTrip_keeps {a s : State} (h : Keeps a s) : Keeps a (State.clearTrip s) := by
  unfold State.clearTrip
  repeat' first
    | (with_reducible first | assumption | apply State_setB_keeps | apply keepsAt_of | apply keepsAt_draw | apply keeps_ite) | simp only [keeps_mk]
    | split

theorem State_resumeHold_keeps {a s : State} (h : Keeps a s) (c : Nat) : Keeps a (State.resumeHold s c) := by
  unfold State.resumeHold
  repeat' first
    | (with_reducible first | assumption | apply State_setB_keeps | apply State_modCx_keeps | apply keeps_ite) | dsimp only | split

theorem State_blockHook_keeps {a s : State} (h : Keeps a s) (was : State) (pg : Page) (l : List Wr) : Keeps a (State.blockHook s was pg l) := by
  unfold State.blockHook
  repeat' first
    | (with_reducible first | assumption | apply State_startCold_keeps | apply State_armHalt_keeps | apply State_setZoneView_keeps
                            | apply State_afterRun_keeps | apply State_armRelock_keeps | apply State_commit_keeps | apply State_requestCtx_keeps
                            | apply State_requestQueue_keeps | apply State_releaseQueue_keeps | apply State_setF_keeps
                            | apply State_sendMsix_keeps | apply State_ctxControl_keeps | apply State_resumeHold_keeps
                            | apply State_setDepth_keeps | apply State_setTail_keeps | apply State_refDoorbell_keeps | apply State_modSlice_keeps
                            | apply State_loseLock_keeps | apply State_evalGroups_keeps | apply State_pairReset_keeps
                            | apply State_setFruHead_keeps | apply State_clearHealth_keeps | apply State_checkTarget_keeps
                            | apply State_clearTrip_keeps | apply keepsAt_of | apply keepsAt_draw | apply keeps_fold | apply keeps_fold_pair
                            | (intro _) | apply keeps_ite) | simp only [keeps_mk] | split

theorem State_applyWords_keeps {a s : State} (h : Keeps a s) (src : Src) (pg : Page) (ok : List BusWord) (bad : List Bool) :
    Keeps a (State.applyWords s src pg ok bad) := by
  unfold State.applyWords
  repeat' first
    | (with_reducible first | assumption | apply State_takeWr_keeps | apply State_refuse_keeps | apply State_irqEdge_keeps
                            | apply State_blockHook_keeps | apply State_hdrHook_keeps | apply keeps_fold | apply keeps_fold_pair | (intro _)
                            | apply keeps_ite) | dsimp only | split

theorem State_pageWrite_keeps {a s : State} (h : Keeps a s) (src : Src) (ws : List BusWord) : Keeps a (State.pageWrite s src ws) := by
  unfold State.pageWrite
  repeat' first
    | (with_reducible first | assumption | apply State_strayWrite_keeps | apply State_applyWords_keeps | (intro _) | apply keeps_ite)
    | dsimp only | split

theorem State_busWrite_keeps {a s : State} (h : Keeps a s) (src : Src) (ws : List BusWord) : Keeps a (State.busWrite s src ws) := by
  unfold State.busWrite
  repeat' first
    | (with_reducible first | assumption | apply State_pageWrite_keeps | apply keeps_fold | apply keeps_fold_pair | (intro _) | apply keeps_ite)
    | dsimp only | split

theorem State_write4_keeps {a s : State} (h : Keeps a s) (src : Src) (pg : Page) (off : Nat) (v : Nat) : Keeps a (State.write4 s src pg off v) := by
  unfold State.write4
  repeat' first
    | (with_reducible first | assumption | apply State_busWrite_keeps | apply keeps_ite) | dsimp only | split

theorem State_clearRead_keeps {a s : State} (h : Keeps a s) (pg : Page) (lo : Nat) (hi : Nat) : Keeps a (State.clearRead s pg lo hi) := by
  unfold State.clearRead
  repeat' first
    | (with_reducible first | assumption | apply State_setF_keeps | apply keeps_fold | apply keeps_fold_pair | (intro _) | apply keeps_ite)
    | dsimp only | split

theorem State_pageRead_keeps {a s : State} (h : Keeps a s) (src : Src) (addr : Nat) (n : Nat) : Keeps a (State.pageRead s src addr n).1 := by
  unfold State.pageRead
  repeat' first
    | (with_reducible first | assumption | apply State_clearRead_keeps | apply keepsAt_of | apply keepsAt_draw | apply keeps_ite)
    | simp only [keeps_mk] | split

theorem State_busRead_keeps {a s : State} (h : Keeps a s) (src : Src) (addr : Nat) (n : Nat) : Keeps a (State.busRead s src addr n).1 := by
  unfold State.busRead
  repeat' first
    | (with_reducible first | assumption | apply State_pageRead_keeps | (refine keeps_of_pair (p := State.pageRead _ _ _ _) ‹_› ?_)
                            | apply keeps_fold | apply keeps_fold_pair | (intro _) | apply keeps_ite) | dsimp only | split

theorem State_smbAct_keeps {a s : State} (h : Keeps a s) (t : SbTxn) : Keeps a (State.smbAct s t) := by
  unfold State.smbAct
  repeat' first
    | (with_reducible first | assumption | apply State_busWrite_keeps | apply State_busRead_keeps | apply State_emit_keeps
                            | apply State_startCold_keeps | (refine keeps_of_pair (p := State.busRead _ _ _ _) ‹_› ?_) | apply keeps_ite)
    | dsimp only | split

theorem State_smb_keeps {a s : State} (h : Keeps a s) (t : SbTxn) : Keeps a (State.smb s t) := by
  unfold State.smb
  repeat' first
    | (with_reducible first | assumption | apply State_bump_keeps | apply State_smbAct_keeps | apply keeps_ite) | dsimp only | split

theorem State_answer_keeps {a s : State} (h : Keeps a s) (src : Src) (b : List Byte) : Keeps a (State.answer s src b) := by
  unfold State.answer
  repeat' first
    | (with_reducible first | assumption | apply State_emit_keeps | apply keeps_ite) | dsimp only | split

end Sys2Proof.Laws
end

