-- ==== Sys2Proof/Laws/PerInstr.lean ====
section
/-! SUPPORT. What well-formedness gives each command that names bytes of an aperture: they are at least one, and lie inside it (R20, R89, R293). -/

/-- The bytes that a command names, as (first, count, size of the aperture); none where it names none. -/
def Sys2Proof.Laws.WellFormed.span (i : Sys2Proof.Instr) : Option (Nat × Nat × Nat) :=
  match i with
  | .registerWrite _ a b _ => some (a, b.length, Sys2Proof.apertureBytes)
  | .readClear _ a n => some (a, n, Sys2Proof.apertureBytes)
  | .lowHalfShadowRead _ a => some (a, 4, Sys2Proof.apertureBytes)
  | .hostMemoryRead _ _ a n _ => some (a, n, 2 ^ 35)
  | .hostMemoryWrite _ _ a b _ => some (a, b.length, 2 ^ 35)
  | _ => none

/-- A well-formed command that names bytes names at least one, and none outside the aperture. -/
def Sys2Proof.Laws.WellFormed.Statement (i : Sys2Proof.Instr) : Prop :=
  i.wf = true → ∀ a n z, Sys2Proof.Laws.WellFormed.span i = some (a, n, z) → 1 ≤ n ∧ a + n ≤ z

theorem Sys2Proof.Laws.WellFormed.registerWrite (src : Src) (addr : Nat) (data : List Byte) (be : List Bool) : Sys2Proof.Laws.WellFormed.Statement (.registerWrite src addr data be) := by
  intro h a n z e
  injection e with e
  simp only [Sys2Proof.Instr.wf, Bool.and_eq_true, decide_eq_true_eq] at h
  injection e with e1 e2
  injection e2 with e2 e3
  subst e1 e2 e3
  omega
theorem Sys2Proof.Laws.WellFormed.readClear (src : Src) (addr len : Nat) : Sys2Proof.Laws.WellFormed.Statement (.readClear src addr len) := by
  intro h a n z e
  injection e with e
  simp only [Sys2Proof.Instr.wf, Bool.and_eq_true, decide_eq_true_eq] at h
  injection e with e1 e2
  injection e2 with e2 e3
  subst e1 e2 e3
  omega
theorem Sys2Proof.Laws.WellFormed.lowHalfShadowRead (src : Src) (addr : Nat) : Sys2Proof.Laws.WellFormed.Statement (.lowHalfShadowRead src addr) := by
  intro h a n z e
  injection e with e
  simp only [Sys2Proof.Instr.wf, Bool.and_eq_true, decide_eq_true_eq] at h
  injection e with e1 e2
  injection e2 with e2 e3
  subst e1 e2 e3
  omega
theorem Sys2Proof.Laws.WellFormed.pageLock (src : Src) (pg : Page) : Sys2Proof.Laws.WellFormed.Statement (.pageLock src pg) := fun _ _ _ _ e => by injection e
theorem Sys2Proof.Laws.WellFormed.softReset (src : Src) (pg : Page) : Sys2Proof.Laws.WellFormed.Statement (.softReset src pg) := fun _ _ _ _ e => by injection e
theorem Sys2Proof.Laws.WellFormed.resetBusyEnd (pg : Page) : Sys2Proof.Laws.WellFormed.Statement (.resetBusyEnd pg) := fun _ _ _ _ e => by injection e
theorem Sys2Proof.Laws.WellFormed.irqSet (src : Src) (pg : Page) (v : W32) : Sys2Proof.Laws.WellFormed.Statement (.irqSet src pg v) := fun _ _ _ _ e => by injection e
theorem Sys2Proof.Laws.WellFormed.adminPortWrite (src : Src) (v : BitVec 2) : Sys2Proof.Laws.WellFormed.Statement (.adminPortWrite src v) := fun _ _ _ _ e => by injection e
theorem Sys2Proof.Laws.WellFormed.zoneViewWrite (src : Src) (w : Fin 16) (v : W32) : Sys2Proof.Laws.WellFormed.Statement (.zoneViewWrite src w v) := fun _ _ _ _ e => by injection e
theorem Sys2Proof.Laws.WellFormed.runStart (src : Src) (v : W32) : Sys2Proof.Laws.WellFormed.Statement (.runStart src v) := fun _ _ _ _ e => by injection e
theorem Sys2Proof.Laws.WellFormed.runStop (src : Src) (v : W32) : Sys2Proof.Laws.WellFormed.Statement (.runStop src v) := fun _ _ _ _ e => by injection e
theorem Sys2Proof.Laws.WellFormed.firstTick : Sys2Proof.Laws.WellFormed.Statement .firstTick := fun _ _ _ _ e => by injection e
theorem Sys2Proof.Laws.WellFormed.tickInEdge : Sys2Proof.Laws.WellFormed.Statement .tickInEdge := fun _ _ _ _ e => by injection e
theorem Sys2Proof.Laws.WellFormed.syntheticEdge : Sys2Proof.Laws.WellFormed.Statement .syntheticEdge := fun _ _ _ _ e => by injection e
theorem Sys2Proof.Laws.WellFormed.relock (src : Src) (v : W32) : Sys2Proof.Laws.WellFormed.Statement (.relock src v) := fun _ _ _ _ e => by injection e
theorem Sys2Proof.Laws.WellFormed.internalTick : Sys2Proof.Laws.WellFormed.Statement .internalTick := fun _ _ _ _ e => by injection e
theorem Sys2Proof.Laws.WellFormed.computeStart : Sys2Proof.Laws.WellFormed.Statement .computeStart := fun _ _ _ _ e => by injection e
theorem Sys2Proof.Laws.WellFormed.computeEnd : Sys2Proof.Laws.WellFormed.Statement .computeEnd := fun _ _ _ _ e => by injection e
theorem Sys2Proof.Laws.WellFormed.gapEnd : Sys2Proof.Laws.WellFormed.Statement .gapEnd := fun _ _ _ _ e => by injection e
theorem Sys2Proof.Laws.WellFormed.refreshPoint : Sys2Proof.Laws.WellFormed.Statement .refreshPoint := fun _ _ _ _ e => by injection e
theorem Sys2Proof.Laws.WellFormed.hostCut (c : Fin 64) : Sys2Proof.Laws.WellFormed.Statement (.hostCut c) := fun _ _ _ _ e => by injection e
theorem Sys2Proof.Laws.WellFormed.commit (src : Src) : Sys2Proof.Laws.WellFormed.Statement (.commit src) := fun _ _ _ _ e => by injection e
theorem Sys2Proof.Laws.WellFormed.bandChange : Sys2Proof.Laws.WellFormed.Statement .bandChange := fun _ _ _ _ e => by injection e
theorem Sys2Proof.Laws.WellFormed.tickOutFall : Sys2Proof.Laws.WellFormed.Statement .tickOutFall := fun _ _ _ _ e => by injection e
theorem Sys2Proof.Laws.WellFormed.fabricLoad (cmd : Nat) : Sys2Proof.Laws.WellFormed.Statement (.fabricLoad cmd) := fun _ _ _ _ e => by injection e
theorem Sys2Proof.Laws.WellFormed.fabricResetComplete : Sys2Proof.Laws.WellFormed.Statement .fabricResetComplete := fun _ _ _ _ e => by injection e
theorem Sys2Proof.Laws.WellFormed.imageFrame (illegal : Bool) : Sys2Proof.Laws.WellFormed.Statement (.imageFrame illegal) := fun _ _ _ _ e => by injection e
theorem Sys2Proof.Laws.WellFormed.portCheck (a : PortAnswer) : Sys2Proof.Laws.WellFormed.Statement (.portCheck a) := fun _ _ _ _ e => by injection e
theorem Sys2Proof.Laws.WellFormed.ioBankCheck (options : List (List Byte)) : Sys2Proof.Laws.WellFormed.Statement (.ioBankCheck options) := fun _ _ _ _ e => by injection e
theorem Sys2Proof.Laws.WellFormed.hostMemoryRead (p : Fin 4) (ap : Aperture) (addr len : Nat) (upsets : List Flip) : Sys2Proof.Laws.WellFormed.Statement (.hostMemoryRead p ap addr len upsets) := by
  intro h a n z e
  injection e with e
  simp only [Sys2Proof.Instr.wf, Bool.and_eq_true, decide_eq_true_eq] at h
  injection e with e1 e2
  injection e2 with e2 e3
  subst e1 e2 e3
  omega
theorem Sys2Proof.Laws.WellFormed.hostMemoryWrite (p : Fin 4) (ap : Aperture) (addr : Nat) (bytes : List Byte) (badParity : Bool) : Sys2Proof.Laws.WellFormed.Statement (.hostMemoryWrite p ap addr bytes badParity) := by
  intro h a n z e
  injection e with e
  simp only [Sys2Proof.Instr.wf, Bool.and_eq_true, decide_eq_true_eq] at h
  injection e with e1 e2
  injection e2 with e2 e3
  subst e1 e2 e3
  omega
theorem Sys2Proof.Laws.WellFormed.repairWrite (k : Fin 4) (c : Fin 16) : Sys2Proof.Laws.WellFormed.Statement (.repairWrite k c) := fun _ _ _ _ e => by injection e
theorem Sys2Proof.Laws.WellFormed.memInitStart (untrained : BitVec 4) : Sys2Proof.Laws.WellFormed.Statement (.memInitStart untrained) := fun _ _ _ _ e => by injection e
theorem Sys2Proof.Laws.WellFormed.stackInitDone (k : Fin 4) : Sys2Proof.Laws.WellFormed.Statement (.stackInitDone k) := fun _ _ _ _ e => by injection e
theorem Sys2Proof.Laws.WellFormed.memInitDone : Sys2Proof.Laws.WellFormed.Statement .memInitDone := fun _ _ _ _ e => by injection e
theorem Sys2Proof.Laws.WellFormed.initFail (k : Fin 4) : Sys2Proof.Laws.WellFormed.Statement (.initFail k) := fun _ _ _ _ e => by injection e
theorem Sys2Proof.Laws.WellFormed.refreshDebtAccrue : Sys2Proof.Laws.WellFormed.Statement .refreshDebtAccrue := fun _ _ _ _ e => by injection e
theorem Sys2Proof.Laws.WellFormed.refresh : Sys2Proof.Laws.WellFormed.Statement .refresh := fun _ _ _ _ e => by injection e
theorem Sys2Proof.Laws.WellFormed.buNop (id : Nat) : Sys2Proof.Laws.WellFormed.Statement (.buNop id) := fun _ _ _ _ e => by injection e
theorem Sys2Proof.Laws.WellFormed.buDot (id n : Nat) : Sys2Proof.Laws.WellFormed.Statement (.buDot id n) := fun _ _ _ _ e => by injection e
theorem Sys2Proof.Laws.WellFormed.buFill (id n : Nat) : Sys2Proof.Laws.WellFormed.Statement (.buFill id n) := fun _ _ _ _ e => by injection e
theorem Sys2Proof.Laws.WellFormed.buCopy (id n : Nat) : Sys2Proof.Laws.WellFormed.Statement (.buCopy id n) := fun _ _ _ _ e => by injection e
theorem Sys2Proof.Laws.WellFormed.buDigest (id n : Nat) : Sys2Proof.Laws.WellFormed.Statement (.buDigest id n) := fun _ _ _ _ e => by injection e
theorem Sys2Proof.Laws.WellFormed.buRun (id : Nat) : Sys2Proof.Laws.WellFormed.Statement (.buRun id) := fun _ _ _ _ e => by injection e
theorem Sys2Proof.Laws.WellFormed.buCommandStart (id : Nat) : Sys2Proof.Laws.WellFormed.Statement (.buCommandStart id) := fun _ _ _ _ e => by injection e
theorem Sys2Proof.Laws.WellFormed.buCommandComplete (id : Nat) : Sys2Proof.Laws.WellFormed.Statement (.buCommandComplete id) := fun _ _ _ _ e => by injection e
theorem Sys2Proof.Laws.WellFormed.cycleLimit (id : Nat) : Sys2Proof.Laws.WellFormed.Statement (.cycleLimit id) := fun _ _ _ _ e => by injection e
theorem Sys2Proof.Laws.WellFormed.chainFlit (u : BuId) (badParity : Bool) : Sys2Proof.Laws.WellFormed.Statement (.chainFlit u badParity) := fun _ _ _ _ e => by injection e
theorem Sys2Proof.Laws.WellFormed.uNop (u : BuId) : Sys2Proof.Laws.WellFormed.Statement (.uNop u) := fun _ _ _ _ e => by injection e
theorem Sys2Proof.Laws.WellFormed.uEnd (u : BuId) : Sys2Proof.Laws.WellFormed.Statement (.uEnd u) := fun _ _ _ _ e => by injection e
theorem Sys2Proof.Laws.WellFormed.uLdi (u : BuId) : Sys2Proof.Laws.WellFormed.Statement (.uLdi u) := fun _ _ _ _ e => by injection e
theorem Sys2Proof.Laws.WellFormed.uMov (u : BuId) : Sys2Proof.Laws.WellFormed.Statement (.uMov u) := fun _ _ _ _ e => by injection e
theorem Sys2Proof.Laws.WellFormed.uAdd (u : BuId) : Sys2Proof.Laws.WellFormed.Statement (.uAdd u) := fun _ _ _ _ e => by injection e
theorem Sys2Proof.Laws.WellFormed.uAdds (u : BuId) : Sys2Proof.Laws.WellFormed.Statement (.uAdds u) := fun _ _ _ _ e => by injection e
theorem Sys2Proof.Laws.WellFormed.uSub (u : BuId) : Sys2Proof.Laws.WellFormed.Statement (.uSub u) := fun _ _ _ _ e => by injection e
theorem Sys2Proof.Laws.WellFormed.uSubs (u : BuId) : Sys2Proof.Laws.WellFormed.Statement (.uSubs u) := fun _ _ _ _ e => by injection e
theorem Sys2Proof.Laws.WellFormed.uMul (u : BuId) : Sys2Proof.Laws.WellFormed.Statement (.uMul u) := fun _ _ _ _ e => by injection e
theorem Sys2Proof.Laws.WellFormed.uMuls (u : BuId) : Sys2Proof.Laws.WellFormed.Statement (.uMuls u) := fun _ _ _ _ e => by injection e
theorem Sys2Proof.Laws.WellFormed.uDiv (u : BuId) : Sys2Proof.Laws.WellFormed.Statement (.uDiv u) := fun _ _ _ _ e => by injection e
theorem Sys2Proof.Laws.WellFormed.uRem (u : BuId) : Sys2Proof.Laws.WellFormed.Statement (.uRem u) := fun _ _ _ _ e => by injection e
theorem Sys2Proof.Laws.WellFormed.uNeg (u : BuId) : Sys2Proof.Laws.WellFormed.Statement (.uNeg u) := fun _ _ _ _ e => by injection e
theorem Sys2Proof.Laws.WellFormed.uAbs (u : BuId) : Sys2Proof.Laws.WellFormed.Statement (.uAbs u) := fun _ _ _ _ e => by injection e
theorem Sys2Proof.Laws.WellFormed.uAnd (u : BuId) : Sys2Proof.Laws.WellFormed.Statement (.uAnd u) := fun _ _ _ _ e => by injection e
theorem Sys2Proof.Laws.WellFormed.uOr (u : BuId) : Sys2Proof.Laws.WellFormed.Statement (.uOr u) := fun _ _ _ _ e => by injection e
theorem Sys2Proof.Laws.WellFormed.uXor (u : BuId) : Sys2Proof.Laws.WellFormed.Statement (.uXor u) := fun _ _ _ _ e => by injection e
theorem Sys2Proof.Laws.WellFormed.uShl (u : BuId) : Sys2Proof.Laws.WellFormed.Statement (.uShl u) := fun _ _ _ _ e => by injection e
theorem Sys2Proof.Laws.WellFormed.uShls (u : BuId) : Sys2Proof.Laws.WellFormed.Statement (.uShls u) := fun _ _ _ _ e => by injection e
theorem Sys2Proof.Laws.WellFormed.uShr (u : BuId) : Sys2Proof.Laws.WellFormed.Statement (.uShr u) := fun _ _ _ _ e => by injection e
theorem Sys2Proof.Laws.WellFormed.uSar (u : BuId) : Sys2Proof.Laws.WellFormed.Statement (.uSar u) := fun _ _ _ _ e => by injection e
theorem Sys2Proof.Laws.WellFormed.uMin (u : BuId) : Sys2Proof.Laws.WellFormed.Statement (.uMin u) := fun _ _ _ _ e => by injection e
theorem Sys2Proof.Laws.WellFormed.uMax (u : BuId) : Sys2Proof.Laws.WellFormed.Statement (.uMax u) := fun _ _ _ _ e => by injection e
theorem Sys2Proof.Laws.WellFormed.uAddi (u : BuId) : Sys2Proof.Laws.WellFormed.Statement (.uAddi u) := fun _ _ _ _ e => by injection e
theorem Sys2Proof.Laws.WellFormed.uBr (u : BuId) : Sys2Proof.Laws.WellFormed.Statement (.uBr u) := fun _ _ _ _ e => by injection e
theorem Sys2Proof.Laws.WellFormed.uBz (u : BuId) : Sys2Proof.Laws.WellFormed.Statement (.uBz u) := fun _ _ _ _ e => by injection e
theorem Sys2Proof.Laws.WellFormed.uBnz (u : BuId) : Sys2Proof.Laws.WellFormed.Statement (.uBnz u) := fun _ _ _ _ e => by injection e
theorem Sys2Proof.Laws.WellFormed.uBlt (u : BuId) : Sys2Proof.Laws.WellFormed.Statement (.uBlt u) := fun _ _ _ _ e => by injection e
theorem Sys2Proof.Laws.WellFormed.uLoop (u : BuId) : Sys2Proof.Laws.WellFormed.Statement (.uLoop u) := fun _ _ _ _ e => by injection e
theorem Sys2Proof.Laws.WellFormed.uLdb (u : BuId) : Sys2Proof.Laws.WellFormed.Statement (.uLdb u) := fun _ _ _ _ e => by injection e
theorem Sys2Proof.Laws.WellFormed.uStb (u : BuId) : Sys2Proof.Laws.WellFormed.Statement (.uStb u) := fun _ _ _ _ e => by injection e
theorem Sys2Proof.Laws.WellFormed.uLdw (u : BuId) : Sys2Proof.Laws.WellFormed.Statement (.uLdw u) := fun _ _ _ _ e => by injection e
theorem Sys2Proof.Laws.WellFormed.uStw (u : BuId) : Sys2Proof.Laws.WellFormed.Statement (.uStw u) := fun _ _ _ _ e => by injection e
theorem Sys2Proof.Laws.WellFormed.uXw (u : BuId) : Sys2Proof.Laws.WellFormed.Statement (.uXw u) := fun _ _ _ _ e => by injection e
theorem Sys2Proof.Laws.WellFormed.uIw (u : BuId) : Sys2Proof.Laws.WellFormed.Statement (.uIw u) := fun _ _ _ _ e => by injection e
theorem Sys2Proof.Laws.WellFormed.uDotb (u : BuId) : Sys2Proof.Laws.WellFormed.Statement (.uDotb u) := fun _ _ _ _ e => by injection e
theorem Sys2Proof.Laws.WellFormed.uDotm (u : BuId) : Sys2Proof.Laws.WellFormed.Statement (.uDotm u) := fun _ _ _ _ e => by injection e
theorem Sys2Proof.Laws.WellFormed.uBadd (u : BuId) : Sys2Proof.Laws.WellFormed.Statement (.uBadd u) := fun _ _ _ _ e => by injection e
theorem Sys2Proof.Laws.WellFormed.uBmul (u : BuId) : Sys2Proof.Laws.WellFormed.Statement (.uBmul u) := fun _ _ _ _ e => by injection e
theorem Sys2Proof.Laws.WellFormed.uBmax (u : BuId) : Sys2Proof.Laws.WellFormed.Statement (.uBmax u) := fun _ _ _ _ e => by injection e
theorem Sys2Proof.Laws.WellFormed.uBmin (u : BuId) : Sys2Proof.Laws.WellFormed.Statement (.uBmin u) := fun _ _ _ _ e => by injection e
theorem Sys2Proof.Laws.WellFormed.uCrecv (u : BuId) : Sys2Proof.Laws.WellFormed.Statement (.uCrecv u) := fun _ _ _ _ e => by injection e
theorem Sys2Proof.Laws.WellFormed.uCsend (u : BuId) : Sys2Proof.Laws.WellFormed.Statement (.uCsend u) := fun _ _ _ _ e => by injection e
theorem Sys2Proof.Laws.WellFormed.uCadd (u : BuId) : Sys2Proof.Laws.WellFormed.Statement (.uCadd u) := fun _ _ _ _ e => by injection e
theorem Sys2Proof.Laws.WellFormed.uFlags (u : BuId) : Sys2Proof.Laws.WellFormed.Statement (.uFlags u) := fun _ _ _ _ e => by injection e
theorem Sys2Proof.Laws.WellFormed.shadowFill (n : Fin 16) (badParity : Bool) : Sys2Proof.Laws.WellFormed.Statement (.shadowFill n badParity) := fun _ _ _ _ e => by injection e
theorem Sys2Proof.Laws.WellFormed.broadcastSwap (n : Fin 16) : Sys2Proof.Laws.WellFormed.Statement (.broadcastSwap n) := fun _ _ _ _ e => by injection e
theorem Sys2Proof.Laws.WellFormed.rippleSwap (n : Fin 16) : Sys2Proof.Laws.WellFormed.Statement (.rippleSwap n) := fun _ _ _ _ e => by injection e
theorem Sys2Proof.Laws.WellFormed.weightRowRead (n : Fin 16) (badParity : Bool) : Sys2Proof.Laws.WellFormed.Statement (.weightRowRead n badParity) := fun _ _ _ _ e => by injection e
theorem Sys2Proof.Laws.WellFormed.chainResultDelivery (id : Nat) : Sys2Proof.Laws.WellFormed.Statement (.chainResultDelivery id) := fun _ _ _ _ e => by injection e
theorem Sys2Proof.Laws.WellFormed.chainMerge (n : Fin 16) (z : Fin 4) (badParity : Bool) : Sys2Proof.Laws.WellFormed.Statement (.chainMerge n z badParity) := fun _ _ _ _ e => by injection e
theorem Sys2Proof.Laws.WellFormed.productComplete (n : Fin 16) : Sys2Proof.Laws.WellFormed.Statement (.productComplete n) := fun _ _ _ _ e => by injection e
theorem Sys2Proof.Laws.WellFormed.bundle (n : Fin 16) (up : Upset) : Sys2Proof.Laws.WellFormed.Statement (.bundle n up) := fun _ _ _ _ e => by injection e
theorem Sys2Proof.Laws.WellFormed.extResponse (n : Fin 16) (r : ExtRsp) : Sys2Proof.Laws.WellFormed.Statement (.extResponse n r) := fun _ _ _ _ e => by injection e
theorem Sys2Proof.Laws.WellFormed.extWatchdog (n : Fin 16) (tag : BitVec 4) : Sys2Proof.Laws.WellFormed.Statement (.extWatchdog n tag) := fun _ _ _ _ e => by injection e
theorem Sys2Proof.Laws.WellFormed.transferComplete (n : Fin 16) (i : Nat) (badParity : Bool) : Sys2Proof.Laws.WellFormed.Statement (.transferComplete n i badParity) := fun _ _ _ _ e => by injection e
theorem Sys2Proof.Laws.WellFormed.opResultWrite (n : Fin 16) (i : Nat) : Sys2Proof.Laws.WellFormed.Statement (.opResultWrite n i) := fun _ _ _ _ e => by injection e
theorem Sys2Proof.Laws.WellFormed.programEnd (c : Fin 64) : Sys2Proof.Laws.WellFormed.Statement (.programEnd c) := fun _ _ _ _ e => by injection e
theorem Sys2Proof.Laws.WellFormed.segmentEnd (c : Fin 64) : Sys2Proof.Laws.WellFormed.Statement (.segmentEnd c) := fun _ _ _ _ e => by injection e
theorem Sys2Proof.Laws.WellFormed.hostSegmentDispatch (c : Fin 64) : Sys2Proof.Laws.WellFormed.Statement (.hostSegmentDispatch c) := fun _ _ _ _ e => by injection e
theorem Sys2Proof.Laws.WellFormed.haltArm (src : Src) (h : Fin 4) (v : W32) : Sys2Proof.Laws.WellFormed.Statement (.haltArm src h v) := fun _ _ _ _ e => by injection e
theorem Sys2Proof.Laws.WellFormed.haltDump (h : Fin 4) : Sys2Proof.Laws.WellFormed.Statement (.haltDump h) := fun _ _ _ _ e => by injection e
theorem Sys2Proof.Laws.WellFormed.entryFetch (p : Fin 4) (q : Fin 256) (entry : Option (List Byte)) : Sys2Proof.Laws.WellFormed.Statement (.entryFetch p q entry) := fun _ _ _ _ e => by injection e
theorem Sys2Proof.Laws.WellFormed.queueNop (cmd : Nat) : Sys2Proof.Laws.WellFormed.Statement (.queueNop cmd) := fun _ _ _ _ e => by injection e
theorem Sys2Proof.Laws.WellFormed.objCreate (cmd : Nat) (frames : Option (List Byte)) : Sys2Proof.Laws.WellFormed.Statement (.objCreate cmd frames) := fun _ _ _ _ e => by injection e
theorem Sys2Proof.Laws.WellFormed.objImport (cmd : Nat) : Sys2Proof.Laws.WellFormed.Statement (.objImport cmd) := fun _ _ _ _ e => by injection e
theorem Sys2Proof.Laws.WellFormed.objUnmap (cmd : Nat) : Sys2Proof.Laws.WellFormed.Statement (.objUnmap cmd) := fun _ _ _ _ e => by injection e
theorem Sys2Proof.Laws.WellFormed.descWrite (cmd : Nat) (source : Option (List Byte)) : Sys2Proof.Laws.WellFormed.Statement (.descWrite cmd source) := fun _ _ _ _ e => by injection e
theorem Sys2Proof.Laws.WellFormed.buCmd (cmd : Nat) : Sys2Proof.Laws.WellFormed.Statement (.buCmd cmd) := fun _ _ _ _ e => by injection e
theorem Sys2Proof.Laws.WellFormed.admitProgram (cmd : Nat) : Sys2Proof.Laws.WellFormed.Statement (.admitProgram cmd) := fun _ _ _ _ e => by injection e
theorem Sys2Proof.Laws.WellFormed.admitUprog (cmd : Nat) : Sys2Proof.Laws.WellFormed.Statement (.admitUprog cmd) := fun _ _ _ _ e => by injection e
theorem Sys2Proof.Laws.WellFormed.admitRoutine (cmd : Nat) : Sys2Proof.Laws.WellFormed.Statement (.admitRoutine cmd) := fun _ _ _ _ e => by injection e
theorem Sys2Proof.Laws.WellFormed.admissionComplete : Sys2Proof.Laws.WellFormed.Statement .admissionComplete := fun _ _ _ _ e => by injection e
theorem Sys2Proof.Laws.WellFormed.release (cmd : Nat) : Sys2Proof.Laws.WellFormed.Statement (.release cmd) := fun _ _ _ _ e => by injection e
theorem Sys2Proof.Laws.WellFormed.progRun (cmd : Nat) : Sys2Proof.Laws.WellFormed.Statement (.progRun cmd) := fun _ _ _ _ e => by injection e
theorem Sys2Proof.Laws.WellFormed.streamAttach (cmd : Nat) : Sys2Proof.Laws.WellFormed.Statement (.streamAttach cmd) := fun _ _ _ _ e => by injection e
theorem Sys2Proof.Laws.WellFormed.streamDetach (cmd : Nat) : Sys2Proof.Laws.WellFormed.Statement (.streamDetach cmd) := fun _ _ _ _ e => by injection e
theorem Sys2Proof.Laws.WellFormed.patternLoad (cmd : Nat) : Sys2Proof.Laws.WellFormed.Statement (.patternLoad cmd) := fun _ _ _ _ e => by injection e
theorem Sys2Proof.Laws.WellFormed.query (cmd : Nat) : Sys2Proof.Laws.WellFormed.Statement (.query cmd) := fun _ _ _ _ e => by injection e
theorem Sys2Proof.Laws.WellFormed.commandComplete (cmd : Nat) : Sys2Proof.Laws.WellFormed.Statement (.commandComplete cmd) := fun _ _ _ _ e => by injection e
theorem Sys2Proof.Laws.WellFormed.eventDelivery (c : Fin 64) : Sys2Proof.Laws.WellFormed.Statement (.eventDelivery c) := fun _ _ _ _ e => by injection e
theorem Sys2Proof.Laws.WellFormed.evqHeadWrite (src : Src) (c : Fin 64) (v : W32) : Sys2Proof.Laws.WellFormed.Statement (.evqHeadWrite src c v) := fun _ _ _ _ e => by injection e
theorem Sys2Proof.Laws.WellFormed.doorbell (src : Src) (q : Fin 256) (v : W32) : Sys2Proof.Laws.WellFormed.Statement (.doorbell src q v) := fun _ _ _ _ e => by injection e
theorem Sys2Proof.Laws.WellFormed.qdbCfgWrite (src : Src) (q : Fin 256) (v : W32) : Sys2Proof.Laws.WellFormed.Statement (.qdbCfgWrite src q v) := fun _ _ _ _ e => by injection e
theorem Sys2Proof.Laws.WellFormed.refAdd (src : Src) (q : Fin 256) (obj : BitVec 16) : Sys2Proof.Laws.WellFormed.Statement (.refAdd src q obj) := fun _ _ _ _ e => by injection e
theorem Sys2Proof.Laws.WellFormed.refSubtract (src : Src) (q : Fin 256) (obj : BitVec 16) : Sys2Proof.Laws.WellFormed.Statement (.refSubtract src q obj) := fun _ _ _ _ e => by injection e
theorem Sys2Proof.Laws.WellFormed.refDbNop (src : Src) (q : Fin 256) (obj : BitVec 16) (both : Bool) : Sys2Proof.Laws.WellFormed.Statement (.refDbNop src q obj both) := fun _ _ _ _ e => by injection e
theorem Sys2Proof.Laws.WellFormed.ctxRequest (src : Src) (p : Fin 4) (stream : Bool) (group : BitVec 2) : Sys2Proof.Laws.WellFormed.Statement (.ctxRequest src p stream group) := fun _ _ _ _ e => by injection e
theorem Sys2Proof.Laws.WellFormed.queueGrant (src : Src) (p : Fin 4) : Sys2Proof.Laws.WellFormed.Statement (.queueGrant src p) := fun _ _ _ _ e => by injection e
theorem Sys2Proof.Laws.WellFormed.queueRelease (src : Src) (p : Fin 4) (q : BitVec 9) : Sys2Proof.Laws.WellFormed.Statement (.queueRelease src p q) := fun _ _ _ _ e => by injection e
theorem Sys2Proof.Laws.WellFormed.queueReleaseDone (q : Fin 256) : Sys2Proof.Laws.WellFormed.Statement (.queueReleaseDone q) := fun _ _ _ _ e => by injection e
theorem Sys2Proof.Laws.WellFormed.contextReset (src : Src) (c : Fin 64) : Sys2Proof.Laws.WellFormed.Statement (.contextReset src c) := fun _ _ _ _ e => by injection e
theorem Sys2Proof.Laws.WellFormed.contextRelease (src : Src) (c : Fin 64) : Sys2Proof.Laws.WellFormed.Statement (.contextRelease src c) := fun _ _ _ _ e => by injection e
theorem Sys2Proof.Laws.WellFormed.portLoss (p : Fin 4) (why : Loss) : Sys2Proof.Laws.WellFormed.Statement (.portLoss p why) := fun _ _ _ _ e => by injection e
theorem Sys2Proof.Laws.WellFormed.teardownEdge (t : TearTarget) : Sys2Proof.Laws.WellFormed.Statement (.teardownEdge t) := fun _ _ _ _ e => by injection e
theorem Sys2Proof.Laws.WellFormed.teardownDone (t : TearTarget) : Sys2Proof.Laws.WellFormed.Statement (.teardownDone t) := fun _ _ _ _ e => by injection e
theorem Sys2Proof.Laws.WellFormed.powerStateChange (p : Fin 4) (d3hot : Bool) : Sys2Proof.Laws.WellFormed.Statement (.powerStateChange p d3hot) := fun _ _ _ _ e => by injection e
theorem Sys2Proof.Laws.WellFormed.linkUp (p : Fin 4) (rate : Fin 6) : Sys2Proof.Laws.WellFormed.Statement (.linkUp p rate) := fun _ _ _ _ e => by injection e
theorem Sys2Proof.Laws.WellFormed.perstRelease (p : Fin 4) : Sys2Proof.Laws.WellFormed.Statement (.perstRelease p) := fun _ _ _ _ e => by injection e
theorem Sys2Proof.Laws.WellFormed.rxAlignBlock (l : Fin 32) (payload : BitVec 56) : Sys2Proof.Laws.WellFormed.Statement (.rxAlignBlock l payload) := fun _ _ _ _ e => by injection e
theorem Sys2Proof.Laws.WellFormed.alignMissed (l : Fin 32) : Sys2Proof.Laws.WellFormed.Statement (.alignMissed l) := fun _ _ _ _ e => by injection e
theorem Sys2Proof.Laws.WellFormed.invalidSyncHeader (l : Fin 32) : Sys2Proof.Laws.WellFormed.Statement (.invalidSyncHeader l) := fun _ _ _ _ e => by injection e
theorem Sys2Proof.Laws.WellFormed.rxIdleBlock (l : Fin 32) : Sys2Proof.Laws.WellFormed.Statement (.rxIdleBlock l) := fun _ _ _ _ e => by injection e
theorem Sys2Proof.Laws.WellFormed.rxReservedBlock (l : Fin 32) (type : Byte) : Sys2Proof.Laws.WellFormed.Statement (.rxReservedBlock l type) := fun _ _ _ _ e => by injection e
theorem Sys2Proof.Laws.WellFormed.rxFrameBlock (l : Fin 32) (payload : BitVec 56) : Sys2Proof.Laws.WellFormed.Statement (.rxFrameBlock l payload) := fun _ _ _ _ e => by injection e
theorem Sys2Proof.Laws.WellFormed.rxSegBlock (l : Fin 32) (payload : BitVec 56) : Sys2Proof.Laws.WellFormed.Statement (.rxSegBlock l payload) := fun _ _ _ _ e => by injection e
theorem Sys2Proof.Laws.WellFormed.rxDataBlock (l : Fin 32) (data : W64) : Sys2Proof.Laws.WellFormed.Statement (.rxDataBlock l data) := fun _ _ _ _ e => by injection e
theorem Sys2Proof.Laws.WellFormed.rxSegEndBlock (l : Fin 32) (payload : BitVec 56) : Sys2Proof.Laws.WellFormed.Statement (.rxSegEndBlock l payload) := fun _ _ _ _ e => by injection e
theorem Sys2Proof.Laws.WellFormed.decisionOutput : Sys2Proof.Laws.WellFormed.Statement .decisionOutput := fun _ _ _ _ e => by injection e
theorem Sys2Proof.Laws.WellFormed.trigPulseEnd (j : Fin 16) : Sys2Proof.Laws.WellFormed.Statement (.trigPulseEnd j) := fun _ _ _ _ e => by injection e
theorem Sys2Proof.Laws.WellFormed.sensorSample (r : Sample) : Sys2Proof.Laws.WellFormed.Statement (.sensorSample r) := fun _ _ _ _ e => by injection e
theorem Sys2Proof.Laws.WellFormed.governorEvaluation : Sys2Proof.Laws.WellFormed.Statement .governorEvaluation := fun _ _ _ _ e => by injection e
theorem Sys2Proof.Laws.WellFormed.clockStep : Sys2Proof.Laws.WellFormed.Statement .clockStep := fun _ _ _ _ e => by injection e
theorem Sys2Proof.Laws.WellFormed.tripClear (src : Src) (v : W32) : Sys2Proof.Laws.WellFormed.Statement (.tripClear src v) := fun _ _ _ _ e => by injection e
theorem Sys2Proof.Laws.WellFormed.sampleShip (n : Fin 16) (done : Shipment) : Sys2Proof.Laws.WellFormed.Statement (.sampleShip n done) := fun _ _ _ _ e => by injection e
theorem Sys2Proof.Laws.WellFormed.aniseReplay (i : Nat) (n : Fin 16) (result : Replayed) : Sys2Proof.Laws.WellFormed.Statement (.aniseReplay i n result) := fun _ _ _ _ e => by injection e
theorem Sys2Proof.Laws.WellFormed.sampleExpire (i : Nat) : Sys2Proof.Laws.WellFormed.Statement (.sampleExpire i) := fun _ _ _ _ e => by injection e
theorem Sys2Proof.Laws.WellFormed.aniCtrlWrite (src : Src) (v : W32) : Sys2Proof.Laws.WellFormed.Statement (.aniCtrlWrite src v) := fun _ _ _ _ e => by injection e
theorem Sys2Proof.Laws.WellFormed.healthRecover (n : Fin 16) : Sys2Proof.Laws.WellFormed.Statement (.healthRecover n) := fun _ _ _ _ e => by injection e
theorem Sys2Proof.Laws.WellFormed.hltClear (src : Src) (v : W32) : Sys2Proof.Laws.WellFormed.Statement (.hltClear src v) := fun _ _ _ _ e => by injection e
theorem Sys2Proof.Laws.WellFormed.reverification : Sys2Proof.Laws.WellFormed.Statement .reverification := fun _ _ _ _ e => by injection e
theorem Sys2Proof.Laws.WellFormed.builtInTest (n : Fin 16) (digests : List (Nat × W64)) (finished : Bool) : Sys2Proof.Laws.WellFormed.Statement (.builtInTest n digests finished) := fun _ _ _ _ e => by injection e
theorem Sys2Proof.Laws.WellFormed.patternRun : Sys2Proof.Laws.WellFormed.Statement .patternRun := fun _ _ _ _ e => by injection e
theorem Sys2Proof.Laws.WellFormed.patMinSerialWrite (src : Src) (v : W64) : Sys2Proof.Laws.WellFormed.Statement (.patMinSerialWrite src v) := fun _ _ _ _ e => by injection e
theorem Sys2Proof.Laws.WellFormed.fruHeadWrite (src : Src) (v : W32) : Sys2Proof.Laws.WellFormed.Statement (.fruHeadWrite src v) := fun _ _ _ _ e => by injection e
theorem Sys2Proof.Laws.WellFormed.resume (src : Src) (c : Fin 64) : Sys2Proof.Laws.WellFormed.Statement (.resume src c) := fun _ _ _ _ e => by injection e
theorem Sys2Proof.Laws.WellFormed.scrubPass (selfCheck : Bool) : Sys2Proof.Laws.WellFormed.Statement (.scrubPass selfCheck) := fun _ _ _ _ e => by injection e
theorem Sys2Proof.Laws.WellFormed.scrubFrame (upsets : List Flip) : Sys2Proof.Laws.WellFormed.Statement (.scrubFrame upsets) := fun _ _ _ _ e => by injection e
theorem Sys2Proof.Laws.WellFormed.heartbeatTimeout (engineB : Bool) : Sys2Proof.Laws.WellFormed.Statement (.heartbeatTimeout engineB) := fun _ _ _ _ e => by injection e
theorem Sys2Proof.Laws.WellFormed.pairReset (src : Src) : Sys2Proof.Laws.WellFormed.Statement (.pairReset src) := fun _ _ _ _ e => by injection e
theorem Sys2Proof.Laws.WellFormed.powerReset : Sys2Proof.Laws.WellFormed.Statement .powerReset := fun _ _ _ _ e => by injection e
theorem Sys2Proof.Laws.WellFormed.powerResetEnd (smbAddr : BitVec 2) : Sys2Proof.Laws.WellFormed.Statement (.powerResetEnd smbAddr) := fun _ _ _ _ e => by injection e
theorem Sys2Proof.Laws.WellFormed.coldReset : Sys2Proof.Laws.WellFormed.Statement .coldReset := fun _ _ _ _ e => by injection e
theorem Sys2Proof.Laws.WellFormed.coldResetEnd (bifur adminSel : BitVec 2) : Sys2Proof.Laws.WellFormed.Statement (.coldResetEnd bifur adminSel) := fun _ _ _ _ e => by injection e
theorem Sys2Proof.Laws.WellFormed.glbReset (src : Src) (v : W32) : Sys2Proof.Laws.WellFormed.Statement (.glbReset src v) := fun _ _ _ _ e => by injection e
theorem Sys2Proof.Laws.WellFormed.railFault (r : Rail) : Sys2Proof.Laws.WellFormed.Statement (.railFault r) := fun _ _ _ _ e => by injection e
theorem Sys2Proof.Laws.WellFormed.railInBand (r : Rail) : Sys2Proof.Laws.WellFormed.Statement (.railInBand r) := fun _ _ _ _ e => by injection e
theorem Sys2Proof.Laws.WellFormed.clockLoss (k : RefClk) : Sys2Proof.Laws.WellFormed.Statement (.clockLoss k) := fun _ _ _ _ e => by injection e
theorem Sys2Proof.Laws.WellFormed.timebaseLock : Sys2Proof.Laws.WellFormed.Statement .timebaseLock := fun _ _ _ _ e => by injection e
theorem Sys2Proof.Laws.WellFormed.criticalTemp : Sys2Proof.Laws.WellFormed.Statement .criticalTemp := fun _ _ _ _ e => by injection e
theorem Sys2Proof.Laws.WellFormed.sbWrite (t : SbTxn) : Sys2Proof.Laws.WellFormed.Statement (.sbWrite t) := fun _ _ _ _ e => by injection e
theorem Sys2Proof.Laws.WellFormed.sbRead (t : SbTxn) : Sys2Proof.Laws.WellFormed.Statement (.sbRead t) := fun _ _ _ _ e => by injection e
theorem Sys2Proof.Laws.WellFormed.sbColdReset (t : SbTxn) : Sys2Proof.Laws.WellFormed.Statement (.sbColdReset t) := fun _ _ _ _ e => by injection e
theorem Sys2Proof.Laws.WellFormed.alertResponse : Sys2Proof.Laws.WellFormed.Statement .alertResponse := fun _ _ _ _ e => by injection e
theorem Sys2Proof.Laws.WellFormed.bypass : Sys2Proof.Laws.WellFormed.Statement .bypass := fun _ _ _ _ e => by injection e
theorem Sys2Proof.Laws.WellFormed.idcode : Sys2Proof.Laws.WellFormed.Statement .idcode := fun _ _ _ _ e => by injection e
theorem Sys2Proof.Laws.WellFormed.samplePreload (levels cells : List Bool) : Sys2Proof.Laws.WellFormed.Statement (.samplePreload levels cells) := fun _ _ _ _ e => by injection e
theorem Sys2Proof.Laws.WellFormed.extest : Sys2Proof.Laws.WellFormed.Statement .extest := fun _ _ _ _ e => by injection e
theorem Sys2Proof.Laws.WellFormed.clamp : Sys2Proof.Laws.WellFormed.Statement .clamp := fun _ _ _ _ e => by injection e
theorem Sys2Proof.Laws.WellFormed.highz : Sys2Proof.Laws.WellFormed.Statement .highz := fun _ _ _ _ e => by injection e
theorem Sys2Proof.Laws.WellFormed.blockLock (l : Fin 32) : Sys2Proof.Laws.WellFormed.Statement (.blockLock l) := fun _ _ _ _ e => by injection e
theorem Sys2Proof.Laws.WellFormed.clockReturn (k : RefClk) : Sys2Proof.Laws.WellFormed.Statement (.clockReturn k) := fun _ _ _ _ e => by injection e
theorem Sys2Proof.Laws.WellFormed.tripleLatchUpset (engineB : Bool) (illegal : Bool) : Sys2Proof.Laws.WellFormed.Statement (.tripleLatchUpset engineB illegal) := fun _ _ _ _ e => by injection e
end

