-- ==== Sys2Proof/Machine/Fleet.lean ====
section
/-! DEFINITION. The fleet form of a fault record: one CBOR map, as Ovsin's record converter produces it from the 64 bytes of a record (R378, R380). -/

namespace Sys2Proof.Machine

/-- The head of a CBOR item: major type `m` and argument `n`, in the shortest form (R380). -/
def cborHead (m n : Nat) : List Byte :=
  if n < 24 then leBytes 1 (32 * m + n)
  else if n < 2 ^ 8 then leBytes 1 (32 * m + 24) ++ beBytes 1 n
  else if n < 2 ^ 16 then leBytes 1 (32 * m + 25) ++ beBytes 2 n
  else if n < 2 ^ 32 then leBytes 1 (32 * m + 26) ++ beBytes 4 n
  else leBytes 1 (32 * m + 27) ++ beBytes 8 n

/-- A 16-bit two's complement number: unsigned, or negative as major type 1 (R380). -/
def cborTemp (v : Nat) : List Byte := if v < 2 ^ 15 then cborHead 0 v else cborHead 1 (2 ^ 16 - 1 - v)

/-- The keys of a record that are not omitted, ascending, each with its encoded value; `serial` is the Device Serial Number where the converter is
given it (R380). -/
def fleetPairs (r : List Byte) (serial : Option (List Byte)) : List (Nat × List Byte) :=
  let u := fun (off n : Nat) => cborHead 0 (leAt r off n)
  let but := fun (b : Bool) (l : List (Nat × List Byte)) => if b then [] else l
  let noCtx := decide (leAt r 0x18 1 = 0xFF)
  [(0, cborHead 0 1), (1, u 0x00 8), (2, u 0x08 8), (3, u 0x10 4), (4, u 0x14 1), (5, u 0x15 1), (6, u 0x16 2)] ++
  but noCtx [(7, u 0x18 1)] ++ but (leAt r 0x19 1 = 7) [(8, u 0x19 1)] ++ but noCtx [(9, u 0x1A 2)] ++
  [(10, cborTemp (leAt r 0x1C 2)), (11, u 0x1E 2)] ++
  but (leAt r 0x3A 1 = 0) [(12, u 0x20 8), (13, u 0x3A 1)] ++ [(14, u 0x28 8), (15, u 0x30 8)] ++
  but (leAt r 0x38 2 = 0) [(16, u 0x38 2)] ++ [(17, u 0x3B 1), (18, u 0x3C 1)] ++
  match serial with
  | some l => [(19, cborHead 2 l.length ++ l)]
  | none => []

/-- The fleet form of a record (R380). -/
def fleetForm (r : List Byte) (serial : Option (List Byte)) : List Byte :=
  let l := fleetPairs r serial
  cborHead 5 l.length ++ l.flatMap fun e => cborHead 0 e.1 ++ e.2

end Sys2Proof.Machine
end

