-- ==== Sys2Proof/Machine/Package.lean ====
section
/-! DEFINITION. The package as data: ball groups, the figures of the rails and reference clocks, and the levels of the user I/O cells
(R404 to R407, R417, R424 to R426). -/

namespace Sys2Proof.Machine

/-- The groups of balls, with how many each has (R404). -/
inductive BallGroup where
  | pcie | stream | userIo | tick | system | sideband | sense | power | ground | rsvd
  deriving DecidableEq, Repr

def BallGroup.all : List BallGroup := [.pcie, .stream, .userIo, .tick, .system, .sideband, .sense, .power, .ground, .rsvd]

def BallGroup.count : BallGroup → Nat
  | .pcie => 76 | .stream => 84 | .userIo => 192 | .tick => 19 | .system => 8 | .sideband => 10 | .sense => 4
  | .power => 2020 | .ground => 2746 | .rsvd => 25

/-- Whether the module drives, or draws current through, balls of a group at all: none of the reserved ones (R405). -/
def BallGroup.used (g : BallGroup) : Bool := g ≠ .rsvd

/-- The figures of a rail, in mV and mA (R406). -/
structure RailFig where
  nominal : Nat
  lo : Nat
  hi : Nat
  absMax : Nat
  maxMa : Nat
  balls : Nat
  deriving DecidableEq, Repr

/-- The rails with a fixed nominal voltage (R406). -/
def Rail.fig : Rail → RailFig
  | .core => ⟨800, 776, 824, 900, 320000, 1100⟩
  | .bu => ⟨750, 728, 772, 850, 100000, 400⟩
  | .vddSt => ⟨1100, 1067, 1133, 1300, 40000, 240⟩
  | .vppSt => ⟨1800, 1710, 1890, 2000, 3000, 32⟩
  | .xcvr => ⟨900, 873, 927, 1000, 36000, 120⟩
  | .xaux => ⟨1200, 1164, 1236, 1350, 10000, 48⟩
  | .aux => ⟨1800, 1746, 1854, 2000, 6000, 32⟩

/-- VCCIO of a bank with a declared voltage code: nominal ± 5 % (R80, R406). -/
def vccioFig (code : Nat) : RailFig :=
  let v := vccioMv code
  ⟨v, v * 95 / 100, v * 105 / 100, 3630, 1500, 6⟩

/-- Whether a voltage lies in the operating band. -/
def RailFig.inBand (f : RailFig) (mv : Nat) : Bool := decide (f.lo ≤ mv) && decide (mv ≤ f.hi)

/-- The order in which the board raises the rails: one step after the other (R407). -/
def Rail.mayRise (r : Rail) (up : List Rail) : Bool := Rail.all.all fun q => up.contains q || decide (Rail.step r ≤ Rail.step q)

/-- The frequency in kHz that the board gives a reference clock (R417). -/
def RefClk.kHz : RefClk → Nat
  | .sys => 100000
  | .stref _ => 156250
  | .pcie _ => 100000

/-- Its accuracy in ppm (R417). -/
def RefClk.ppm : RefClk → Nat
  | .sys => 100
  | .stref _ => 100
  | .pcie _ => 300

/-- The reference clock of a receive lane (R417). -/
def rxClock (l : Fin 32) : RefClk := .stref ⟨l.val / 16, by omega⟩

/-- The DC figures of a user I/O cell at a declared voltage, in mV: the highest low input, the lowest high input, the highest low output, how far a
high output may lie below VCCIO, and the highest drive in mA (R424). -/
structure IoDc where
  vil : Nat
  vih : Nat
  vol : Nat
  vohDrop : Nat
  maxMa : Nat
  deriving DecidableEq, Repr

/-- The figures of a voltage code (R80, R424). -/
def ioDc : Nat → Option IoDc
  | 1 => some ⟨420, 780, 300, 300, 8⟩
  | 2 => some ⟨530, 980, 350, 350, 16⟩
  | 3 => some ⟨630, 1170, 400, 400, 16⟩
  | 4 => some ⟨700, 1700, 400, 400, 16⟩
  | 5 => some ⟨800, 2000, 400, 400, 16⟩
  | _ => none

/-- What a cell reads at a pin voltage: low, high, or neither that R424 states. -/
def IoDc.reads (d : IoDc) (mv : Nat) : Option Bool :=
  if mv ≤ d.vil then some false else if d.vih ≤ mv then some true else none

/-- The range of pin voltages in mV at which a cell of a bank with supply `vccio` shows a level that it drives (R424). -/
def IoDc.drives (d : IoDc) (vccio : Nat) (v : Bool) : Nat × Nat := if v then (vccio - d.vohDrop, vccio) else (0, d.vol)

/-- Rise time in ps from 20 % to 80 % into 10 pF, and toggle rate in MHz, by `SLEW` (R425). -/
def IoCell.edge (c : IoCell) : Nat × Nat := if c.fast then (800, 400) else (2500, 100)

/-- A line of TRIG_OUT: the lowest high and the highest low output in mV, the drive in mA, and its edge in ps (R426). -/
def trigOutFig : Nat × Nat × Nat × Nat := (1400, 400, 8, 1000)

end Sys2Proof.Machine
end

