-- ==== Sys2Proof/Tests/Slice0.lean ====
section
/-! SUPPORT. The package's own tests: commands that are not well formed, worked cases of the specification, and for each statement a state and
operands that meet its hypotheses. -/

set_option maxRecDepth 4000
set_option Elab.async false

namespace Sys2Proof.Tests
open Sys2Proof Sys2Proof.Machine

/-! ## Helpers -/

/-- Set fields of registers. -/
def with_ (s : State) (l : List (Page × Fld × Nat)) : State := l.foldl (fun s e => s.setF e.1 e.2.1 e.2.2) s

/-- A module with its timebase locked, memory initialised, and two host links up. -/
def up : State :=
  with_ { State.reset with time := 5000000, power := { State.reset.power with locked := true, now := 7000000, initAt := some 2000000 } }
    [(linkP 0, HptLink.UP, 1), (linkP 1, HptLink.UP, 1), (carveP, GlbCarve.MEM_INIT_DONE, 1)]

/-- The state that a command leaves. -/
def after (c : Instr) (s : State) : State :=
  match exec c s with
  | .next t => t
  | _ => State.reset

/-- Where no stored beat holds an error, every place that a statement asks to be clean is clean. -/
theorem clean_states (s : State) (h : s.syn = []) :
    (∀ v a n, s.cleanAt v a n) ∧ (∀ c va, s.walkClean c va) ∧ (∀ g, s.tablesClean g) ∧ ∀ n, s.descsClean n := by
  have k : ∀ v a n, s.cleanAt v a n := fun v a n i _ => by rw [h]; rfl
  exact ⟨k, fun c va p _ => ⟨k _ _ _, fun _ => k _ _ _⟩, fun g e _ _ => ⟨k _ _ _, fun _ => k _ _ _⟩, fun n x _ => ⟨k _ _ _, fun _ => k _ _ _⟩⟩

/-- No run-ahead tile is held where the slices that are listed hold none. -/
theorem none_held (s : State) (h : ∀ e ∈ s.slices, e.2.ra = []) : s.noneHeld := by
  have k : ∀ (l : Sp Slice) (n : Nat), (∀ e ∈ l, e.2.ra = []) → (spGet {} l n).ra = [] := by
    intro l
    induction l with
    | nil => intro n _; rfl
    | cons e l ih =>
      intro n hl
      unfold spGet
      split
      · exact hl e (by simp)
      · exact ih n fun x hx => hl x (by simp [hx])
  exact fun n => k s.slices n h

/-! ## Commands that are not well formed: one for each check -/

theorem test_ill_formed :
    (Instr.registerWrite .sideband 0x3FFFFFC [1, 2, 3, 4, 5] (List.replicate 5 true)).wf = false ∧ (Instr.registerWrite .sideband 0 [] []).wf = false ∧
    (Instr.registerWrite .sideband 0 [1] []).wf = false ∧ (Instr.readClear .sideband 0 0).wf = false ∧ (Instr.readClear .sideband 0x3FFFFFE 4).wf = false ∧
    (Instr.lowHalfShadowRead .sideband 2).wf = false ∧ (Instr.lowHalfShadowRead .sideband 0x4000000).wf = false ∧ (Instr.pageLock .sideband ⟨.qdb, 256, 0⟩).wf = false ∧
    (Instr.softReset .sideband ⟨.hptPace, 4, 0⟩).wf = false ∧ (Instr.resetBusyEnd ⟨.stkCh, 0, 16⟩).wf = false ∧ (Instr.irqSet .sideband ⟨.ctx, 64, 0⟩ 1).wf = false ∧
    (Instr.softReset .sideband ⟨.slcTb, 16, 0⟩).wf = false ∧ (Instr.pageLock .sideband ⟨.sibGrp, 4, 0⟩).wf = false ∧ (Instr.pageLock .sideband ⟨.mgtLimit, 0, 1⟩).wf = false ∧
    (Instr.pageLock .sideband ⟨.mgtLimit, 0, 0⟩).wf = true := by decide +kernel

theorem test_ill_formed_operands :
    (Instr.portCheck { ident := 0, memLoop := true, resLoop := true, echo := true, manPar := List.replicate 64 0, manifest := [] }).wf = false ∧
    (Instr.portCheck { ident := 0, memLoop := true, resLoop := true, echo := true, manPar := [], manifest := List.replicate 64 0 }).wf = false ∧
    (Instr.ioBankCheck []).wf = false ∧ (Instr.ioBankCheck (List.replicate 8 [])).wf = false ∧ (Instr.hostMemoryRead 0 .linear 0 0 []).wf = false ∧
    (Instr.hostMemoryRead 0 .linear (2 ^ 35) 1 []).wf = false ∧ (Instr.hostMemoryRead 0 .linear 0 1 [⟨0, 272⟩]).wf = false ∧
    (Instr.hostMemoryWrite 0 .linear 0 [] false).wf = false ∧ (Instr.hostMemoryWrite 0 .linear (2 ^ 35) [1] false).wf = false ∧
    (Instr.entryFetch 0 0 (some [])).wf = false ∧ (Instr.extResponse 0 { tag := 0, lanes := 0, data := [], par := List.replicate 64 0, cpar := true, err := false }).wf = false ∧
    (Instr.extResponse 0 { tag := 0, lanes := 0, data := List.replicate 64 0, par := [], cpar := true, err := false }).wf = false ∧
    (Instr.bundle 0 { regs := [.scalar 28] }).wf = false ∧ (Instr.bundle 0 { regs := [.lane 0 64] }).wf = false ∧
    (Instr.aniseReplay 0 0 { answer := [] }).wf = false ∧ (Instr.aniseReplay 0 0 { answer := List.replicate 128 0, flips := [4096] }).wf = false ∧ (Instr.queueRelease .sideband 0 256).wf = false ∧
    (Instr.sensorSample { temps := [], milliVolts := [], vccio := [], deciAmps := [], deciWatts := 0 }).wf = false ∧ (Instr.scrubFrame [⟨0, 272⟩]).wf = false ∧
    (Instr.samplePreload [] []).wf = false := by decide +kernel

/-! ## The machine as a whole: states that meet the hypotheses -/

theorem test_front_command : ({ up with pending := [.idcode] } : State).pending = .idcode :: [] := rfl

theorem test_idle : up.pending = [] ∧ up.power.critical = false := by decide +kernel

/-- A group's lanes that drive carry an ALIGN block each as 16,384 blocks have passed (R342). -/
theorem test_tx_align :
    (let s := (up.setF txP (SibTx.TX_EN.at 2) 1).modGrp 0 fun g => { g with txAct := [2], txPs := alignPs 0 - 1000, txMark := 9 }
     (match step s with
     | .next t => decide ((t.grp 0).txMark = 10 ∧ (t.grp 0).txPs = 0 ∧ t.out.length = 1 ∧ t.time = s.time + 1)
     | _ => false) = true) := by decide +kernel

theorem test_wf_step : up.wf = true ∧ step up = .next { up with power := { up.power with now := 7000001 }, time := 5000001 } :=
  ⟨by decide +kernel, rfl⟩

theorem test_wf_command : up.wf = true ∧ exec .idcode up = .next (after .idcode up) := ⟨by decide +kernel, rfl⟩

def hot : State := { up with power := { up.power with critical := true } }

theorem test_critical : hot.power.critical = true ∧ Instr.coldReset ≠ .powerReset ∧
    exec .coldReset hot = .next { hot with pins := { hot.pins with sysRstLow := true } } := ⟨rfl, by decide, rfl⟩

def cold : State := { State.reset with power := { inCold := true } }

theorem test_cold : cold.power.inCold = true ∧ exec .firstTick cold = .next cold := ⟨rfl, rfl⟩

theorem test_beyond_aperture : exec (.hostMemoryRead 0 .linear (2 ^ 35 - 1) 2 []) up = .fault .outsideAperture := rfl

/-! ## Register pages -/

theorem test_page_lock : up.letsWrite 0 winP = true ∧ up.letsWrite 0 limP = true := by decide +kernel

def locked : State := up.setB winP Hdr.LOCK true

theorem test_locked_page : locked.reaches (.port 0) = true ∧ locked.on (linkP 0) HptLink.TEARDOWN_BUSY = false ∧
    locked.pageAt winP.base = some winP ∧ locked.isBusy winP = false ∧ winP.kind.lockable = true ∧ locked.on winP Hdr.LOCK = true ∧ locked.mayWrite (.port 0) winP Hdr.LOCK = true ∧
    (∃ e ∈ fieldsAt .tkgWin 0x40, e.1.acc = .rw) ∧ (∀ e ∈ fieldsAt .tkgWin 0x40, e.1.acc ≠ .rwl ∧ e.1.acc ≠ .rwa) ∧
    (after (.registerWrite (.port 0) (winP.base + 0x40) (leBytes 4 5) [true, true, true, true]) locked).on winP Hdr.REFUSED_LOCK = true := by decide +kernel

theorem test_no_right : up.reaches (.port 1) = true ∧ up.on (linkP 1) HptLink.TEARDOWN_BUSY = false ∧ up.isBusy winP = false ∧ up.admin ≠ 1 ∧
    up.owner winP ≠ some 1 ∧ up.pageAt winP.base = some winP ∧ ∃ e ∈ fieldsAt .tkgWin 0x40, e.1.acc ≠ .ro ∧ e.1.acc ≠ .rc := by decide +kernel

theorem test_whole_word : up.letsWrite 0 trigP = true ∧ trigP.wf = true ∧
    (∃ e ∈ fieldsAt .sibTrig 0x44, e.2 = false ∧ (e.1.acc = .rw ∨ e.1.acc = .rwa)) ∧
    (∀ e ∈ fieldsAt .sibTrig 0x44, e.1.acc ≠ .wo ∧ e.1.acc ≠ .w1c ∧ e.1.acc ≠ .rwl) ∧
    ∀ e ∈ fieldsAt .sibTrig 0x44, e.1.acc = .rwa → up.admin = 0 := by decide +kernel

/-- A write of twelve bytes sets three words at once, and one to a page that is not implemented is counted once (R20, R34). -/
theorem test_wide_write :
    (let t := after (.registerWrite (.port 0) (winP.base + 0x40) (leBytes 4 2000 ++ leBytes 4 70 ++ leBytes 4 900) (List.replicate 12 true)) up
     t.f winP TkgWin.PERIOD = 2000 ∧ t.f winP TkgWin.COMPUTE_START = 70 ∧ t.f winP TkgWin.COMPUTE_END = 900) ∧
    (let t := after (.registerWrite (.port 0) 0x3FFF000 (leBytes 8 0) (List.replicate 8 true)) up
     up.pageAt 0x3FFF000 = none ∧ t.f glbP GlbCtrl.STRAY_WR_CNT = 1) := by decide +kernel

theorem test_read : up.reaches (.port 0) = true ∧ up.pageAt (winP.base + 0x40) = some winP ∧ counterAt .tkgWin 0x40 true = false ∧
    up.pageAt (srcP.base + 0x5C) = some srcP ∧ (srcP.base + 0x5C) % 4 = 0 ∧ up.mayRead (.port 0) srcP = true ∧
    up.on (linkP 0) HptLink.TEARDOWN_BUSY = false ∧ counterAt .tkgSrc 0x5C false = true ∧ 0 < up.shadows.length := by decide +kernel

theorem test_read_clears : patP.wf = true ∧ up.pageAt patP.base = some patP ∧ up.mayRead (.port 1) patP = true ∧
    Pattern.RUNS ∈ blockFields .pattern ∧ Pattern.RUNS.cnt = 1 ∧ Pattern.RUNS.acc = .rc ∧ Pattern.RUNS.lo = 0 ∧ Pattern.RUNS.hi = 31 ∧
    up.clears (.port 0) patP = true ∧ up.clears (.port 1) patP = false := by decide +kernel

theorem test_irq_set :
    (let s := up.setF winP Hdr.IRQ_MASK 0
     let t := after (.irqSet (.port 0) winP 0xF) s
     s.letsWrite 0 winP = true ∧ s.irqOn winP = false ∧ t.irqOn winP = true ∧ s.owner winP = some 0 ∧ s.portUp 0 = true ∧
       s.on ⟨.hptEvent, 0, 0⟩ (HptEvent.MSIX_MASK.at 64) = false ∧ t.f winP Hdr.IRQ_STAT = 3 ∧ t.out = [.msix 0 64 0 0]) := by decide +kernel

theorem test_soft_reset :
    (let s := with_ up [(limP, MgtLimit.CORE_I_LIMIT, 5), (limP, Hdr.IRQ_MASK, 9)]
     let t := after (.softReset (.port 0) limP) s
     s.letsWrite 0 limP = true ∧ limP.wf = true ∧ limP.kind ∉ [PageKind.glbCtrl, .tkgSrc, .tkgWin, .sibRx, .sibTx, .sibGrp, .mgtGov] ∧
       t.f limP MgtLimit.CORE_I_LIMIT = 0xC80 ∧ t.f limP Hdr.IRQ_MASK = 9 ∧ spGet 0 t.busy limP.base = s.time + 8) ∧
    (let s : State := { up with hib := { up.hib with depths := [(5, 7)] } }
     let t := after (.softReset (.port 0) (qdbP 5)) (s.setF (qdbP 5) Qdb.TAIL 9)
     s.letsWrite 0 (qdbP 5) = true ∧ (qdbP 5).wf = true ∧ t.f (qdbP 5) Qdb.DEPTH_LOG2 = 7 ∧ t.f (qdbP 5) Qdb.TAIL = 0) ∧
    up.letsWrite 0 govP = true ∧ govP.wf = true ∧
    (let t := after (.softReset (.port 0) govP) (with_ up [(govP, MgtGov.TARGET_MHZ, 500), (govP, MgtGov.CLK_MHZ, 700)])
     t.f govP MgtGov.TARGET_MHZ = 600 ∧ t.f govP MgtGov.CLK_MHZ = 700 ∧ t.gov.clkGoal = some 600) ∧
    (let s := up.setBusy limP 5000000
     s.live = true ∧ spGet 0 s.busy limP.base ≠ 0 ∧ spGet 0 s.busy limP.base ≤ s.time ∧ (after (.resetBusyEnd limP) s).isBusy limP = false) := by
  decide +kernel

theorem test_admin_moves : up.letsWrite 0 glbP = true ∧ up.reaches .sideband = true ∧ up.power.inCold = false ∧ up.isBusy glbP = false ∧
    (after (.adminPortWrite (.port 0) 1) up).admin = 1 ∧ (after (.adminPortWrite .sideband 2) up).admin = 2 := by decide +kernel

theorem test_zone_view :
    (let s := up.setZones 1 3
     let t := after (.zoneViewWrite (.port 0) 0 7) s
     s.letsWrite 0 carveP = true ∧ s.zones 1 ≠ 0 ∧ t.f carveP (GlbCarve.ZONE_VIEW.at 0) = 5 ∧ t.f carveP GlbCarve.ZONE_REJ_CNT = 1 ∧
       (after (.zoneViewWrite (.port 0) 15 0xFFFFFFFF) s).f carveP (GlbCarve.ZONE_VIEW.at 15) = 0xFFFFFF) := by decide +kernel

theorem test_glb_reset : up.letsWrite 0 glbP = true ∧ up.readWord glbP 0xC0 = 0 ∧ (0xC4 : W32).toNat % 256 ≠ 0xC5 ∧ (0x1C5 : W32).toNat % 256 = 0xC5 ∧
    (after (.glbReset (.port 0) 0x1C5) up).power.inCold = true ∧ (after (.glbReset (.port 0) 0xC4) up).power.inCold = false := by decide +kernel

theorem test_run_bits : up.letsWrite 0 srcP = true ∧ up.tkg.phase = .stopped ∧ up.on srcP TkgSrc.RUN = false ∧
    (let t := after (.runStart (.port 0) 2) up
     t.on srcP TkgSrc.RUN = true ∧ t.tkg.phase = .armed ∧ t.tkg.internal = true ∧ t.tkg.armAt = up.time ∧ t.letsWrite 0 srcP = true ∧
       (after (.runStop (.port 0) 0) t).tkg.phase = .stopped ∧ (after (.relock (.port 0) 0) t).on srcP TkgSrc.RELOCK_ARMED = true) := by decide +kernel

/-- A long-mode schedule that passes; with 1 ns less of gap it fails check 3 (R60). -/
def sched40 : State :=
  with_ up [(winP, TkgWin.PERIOD, 40000), (winP, TkgWin.COMPUTE_START, 100), (winP, TkgWin.COMPUTE_END, 4000), (winP, TkgWin.GAP_END, 5820),
    (winP, TkgWin.DECISION_OFFSET, 100), (winP, TkgWin.TOL, 100)]

theorem test_commit : sched40.letsWrite 0 winP = true ∧ sched40.tkg.phase = .stopped ∧
    (let t := after (.commit (.port 0)) sched40
     t.f winP TkgWin.INVALID_CAUSE = 0 ∧ t.f winP TkgWin.ACT_PERIOD = 40000 ∧ t.on winP TkgWin.COMMIT_PENDING = false) ∧
    (let t := after (.commit (.port 0)) (sched40.setF winP TkgWin.GAP_END 5819)
     t.f winP TkgWin.INVALID_CAUSE = 3 ∧ t.on winP TkgWin.SCHEDULE_INVALID = true ∧ (t.f winP Hdr.IRQ_STAT).testBit 1 = true) ∧
    (let s : State := { sched40 with tkg := { sched40.tkg with phase := .host } }
     let t := after (.commit (.port 0)) s
     s.letsWrite 0 winP = true ∧ s.tkg.phase ≠ .stopped ∧ t.on winP TkgWin.COMMIT_PENDING = true ∧ t.f winP TkgWin.ACT_PERIOD ≠ 40000) := by
  decide +kernel

/-! ## Queues, references, contexts -/

/-- Context 4 is LIVE on port 0 with queue 0, and maps object 0 at 0x10000, frame 3 of zone 0 in linear mode, with table pages 0 and 1. -/
def ctx4 : State :=
  let s := after (.ctxRequest (.port 0) 0 false 0) up
  let s := after (.queueGrant (.port 0) 0) (with_ s [(linkP 0, HptLink.QREQ_CTX, 4), (linkP 0, HptLink.QREQ_DEPTH_LOG2, 4), (linkP 0, HptLink.QREQ_RING, 16)])
  let s := (s.setFrame 3 0 true).setZones 0 1
  let s := s.setObj 0 { ctxs := 2 ^ 4, va := 0x10000, count := 1, bank := false, owner := 4, key := 7, cookie := 9 }
  let s : State := { s with tpages := [0, 1], objInfo := [(0, { gen := (s.cx 4).gen, frames := [3] })] }
  let s := (s.modCx 4 fun y => { y with l1 := some 0 }).poke false (tableAddr 0 0) (leBytes 8 3)
  (s.poke false (tableAddr 1 1) (leBytes 8 (1 + 3 * 4))).setRefs 0 (withRefPort 0 0 1)

theorem test_ctx4 : ctx4.ctxState 4 = stLive ∧ ctx4.queueOwned 0 = true ∧ ctx4.queueCtx 0 = 4 ∧ ctx4.maps 4 0 = true ∧ refPort (ctx4.refs 0) 0 = 1 ∧
    ctx4.xlate 4 0x10020 = some (false, 0x30020) ∧ ctx4.wf = true := by decide +kernel

theorem test_doorbell : ctx4.letsWrite 0 (qdbP 0) = true ∧ ctx4.depth 0 = 16 ∧
    (after (.doorbell (.port 0) 0 16) ctx4).f (qdbP 0) Qdb.TAIL = 16 ∧ (after (.doorbell (.port 0) 0 17) ctx4).on (qdbP 0) Qdb.OVERFLOW = true ∧
    (after (.doorbell (.port 0) 0 17) ctx4).f (qdbP 0) Qdb.TAIL = 0 ∧
    (let s := after (.qdbCfgWrite (.port 0) 0 0) ctx4
     s.depth 0 = 0 ∧ s.letsWrite 0 (qdbP 0) = true ∧ (after (.qdbCfgWrite (.port 0) 0 5) s).depth 0 = 32 ∧ (after (.qdbCfgWrite (.port 0) 0 3) s).depth 0 = 0) ∧
    ctx4.letsWrite 0 (ctxP 4) = true ∧ (after (.evqHeadWrite (.port 0) 4 0x30005) ctx4).f (ctxP 4) Ctx.EVQ_HEAD = 0x10005 := by decide +kernel

theorem test_ref_doorbell : ctx4.wf = true ∧ ctx4.letsWrite 0 (qdbP 0) = true ∧ ctx4.f (qdbP 0) Hdr.OWNER_CONTEXT = 4 ∧ ctx4.maps 4 0 = true ∧
    ctx4.maps 4 1 = false ∧ refPort (ctx4.refs 0) 0 = 1 ∧
    (let s := after (.refAdd (.port 0) 0 0) ctx4
     let t := after (.refSubtract (.port 0) 0 0) s
     refPort (s.refs 0) 0 = 2 ∧ s.f (qdbP 0) Qdb.RS_FIELD = 2 ∧ refPort (t.refs 0) 0 = 1 ∧ t.f (qdbP 0) Qdb.RS_FIELD = 1) ∧
    (let s := ctx4.setRefs 0 0xFFF
     s.maps 4 0 = true ∧ refPort (s.refs 0) 0 = 0xFFF ∧ (after (.refAdd (.port 0) 0 0) s).f (qdbP 0) Qdb.RS_RES = 3) ∧
    (after (.refAdd (.port 0) 0 1) ctx4).f (qdbP 0) Qdb.RS_RES = 1 ∧ (after (.refDbNop (.port 0) 0 0 true) ctx4).f (qdbP 0) Qdb.RS_FIELD = 1 := by decide +kernel

def fullSlots : State := with_ up ((List.range 60).map fun i => (ctxP (4 + i), Ctx.STATE, 1))

theorem test_ctx_request : up.letsWrite 0 (linkP 0) = true ∧ up.ctxState 4 = stFree ∧ up.ctxState 3 = stFree ∧ up.admin = 0 ∧
    up.letsWrite 0 (linkP 1) = true ∧ (1 : Fin 4).val ≠ up.admin ∧
    (let t := after (.ctxRequest (.port 0) 0 true 3) up
     t.ctxState 3 = stLive ∧ t.isStream 3 = true ∧ t.f (linkP 0) HptLink.CGRANT_SLOT = 3) ∧
    (after (.ctxRequest (.port 0) 1 true 3) up).f (linkP 1) HptLink.CGRANT_RESULT = 2 ∧
    fullSlots.letsWrite 0 (linkP 0) = true ∧ (∀ c, c < 64 → 4 ≤ c → fullSlots.ctxState c ≠ stFree) ∧
    (after (.ctxRequest (.port 0) 0 false 0) fullSlots).f (linkP 0) HptLink.CGRANT_RESULT = 1 := by decide +kernel

theorem test_queue_grant : ctx4.letsWrite 0 (linkP 0) = true ∧ ctx4.f (linkP 0) HptLink.QREQ_CTX = 4 ∧ ctx4.ctxState 4 = stLive ∧ ctx4.ctxPort 4 = 0 ∧
    ctx4.f (linkP 0) HptLink.QREQ_DEPTH_LOG2 = 4 ∧ ctx4.queueOwned 1 = false ∧ (∀ r, r < 1 → ctx4.queueOwned r = true) ∧
    (after (.queueGrant (.port 0) 0) ctx4).queueCtx 1 = 4 ∧ up.letsWrite 0 (linkP 1) = true ∧
    up.ctxState (up.f (linkP 1) HptLink.QREQ_CTX) ≠ stLive ∧
    (let s := after (.queueRelease (.port 0) 0 0) ctx4
     ctx4.queuePort 0 = 0 ∧ ctx4.hib.closing = [] ∧ s.hib.closing = [0] ∧ s.live = true ∧ s.cmds = [] ∧ s.eventsWait 0 = false ∧
       (after (.queueReleaseDone 0) s).queueOwned 0 = false) := by decide +kernel

/-- A queue is not reset while a command of it is left, or an event of one is undelivered (R301). -/
theorem test_queue_waits :
    (let c : Cmd := { id := 9, port := 0, queue := 0, ctx := 4, index := 0, opcode := 0, ev := true, order := false, len := 1, cookie := 7, objs := [],
                      body := [], st := .done 0 0 0 }
     let s := { after (.queueRelease (.port 0) 0 0) ctx4 with cmds := [c] }
     let t := after (.commandComplete 9) s
     c ∈ s.cmds ∧ c.queue = 0 ∧ after (.queueReleaseDone 0) s = s ∧ t.cmds = [] ∧ t.eventsWait 0 = true ∧ after (.queueReleaseDone 0) t = t) := by
  decide +kernel

theorem test_context_teardown : ctx4.letsWrite 0 (ctxP 4) = true ∧ ctx4.ctxState 4 = stLive ∧ ctx4.cmds = [] ∧
    (after (.contextReset (.port 0) 4) ctx4).ctxState 4 = stTear ∧ ((after (.contextRelease (.port 0) 4) ctx4).cx 4).tearRelease = true := by decide +kernel

theorem test_clears : up.letsWrite 0 limP = true ∧ up.letsWrite 0 hltP = true ∧ up.letsWrite 0 cloveP = true ∧ up.letsWrite 0 aniP = true ∧
    up.letsWrite 0 patP = true ∧ up.letsWrite 0 fruP = true ∧
    (let s := (with_ up [(limP, MgtLimit.TRIPPED, 1), (senseP, MgtSense.TEMP_MAX, 800)])
     (after (.tripClear (.port 0) 0) s).on limP MgtLimit.TRIPPED = false ∧
       (after (.tripClear (.port 0) 0) (s.setF senseP MgtSense.TEMP_MAX 801)).on limP MgtLimit.TRIPPED = true) ∧
    (after (.hltClear (.port 0) 2) (up.setF (slhP 1) SlcHealth.HSTATE 2)).f (slhP 1) SlcHealth.HSTATE = hlNormal ∧
    (let s := ctx4.setB (ctxP 4) Ctx.STREAM_HELD true
     s.letsWrite 0 (ctxP 4) = true ∧ (s.cx 4).program = none ∧ s.on (ctxP 4) Ctx.STREAM_HELD = true ∧ ((after (.resume (.port 0) 4) s).cx 4).resumeReq = true) ∧
    (after (.pairReset (.port 0)) (up.setB cloveP Clove.A_FAILED true)).on cloveP Clove.A_FAILED = false ∧
    (after (.aniCtrlWrite (.port 0) 0x12340069) up).f aniP Anise.SEED = 0x1234 ∧
    (after (.patMinSerialWrite (.port 0) 4) (up.setF patP Pattern.MIN_SERIAL 5)).f patP Pattern.MIN_SERIAL = 5 ∧
    (after (.fruHeadWrite (.port 0) 1) up).f fruP Fru.HEAD = 0 ∧ (after (.fruHeadWrite (.port 0) 0xF001) (up.setF fruP Fru.TAIL 1)).f fruP Fru.HEAD = 0xF001 := by
  decide +kernel

/-- A host program of two bundles in context 4, on slice 0. -/
def prog4 : Program :=
  { stream := false, sfu := 0, base := 16, count := 2, entry := 0, gang := [0], segments := 1, calls := 0, bounds := [], certNs := 100, handles := [],
    objs := [], bus := [], image := [] }

def run4 : State := ctx4.modCx 4 fun y => { y with program := some prog4 }

theorem test_halt_arm : ctx4.letsWrite 0 plvP = true ∧ (ctx4.cx 4).program = none ∧
    (after (.haltArm (.port 0) 1 (4 * 4 + 4096 * 17)) ctx4).on plvP (Plv.HALT_ARM_BAD.at 1) = true ∧
    (let s := with_ run4 [(plvP, Plv.HALT_DUMP.at 1, 0x100), (plvP, Plv.HALT_COUNT.at 1, 3)]
     let t := after (.haltArm (.port 0) 1 (4 * 4 + 4096 * 17)) s
     s.letsWrite 0 plvP = true ∧ (s.cx 4).program = some prog4 ∧ s.unmapped 4 (0x100 * 256) (1 * 0x2200) = none ∧
       t.on plvP (Plv.HALT_ARM.at 1) = true ∧ t.f plvP (Plv.HALT_REMAIN.at 1) = 3) := by decide +kernel

/-! ## The tick -/

/-- In the host window of a tick that began at 4,900,000 ns, with the schedule of worked case 3.a active, as tick 41. -/
def ticking : State :=
  with_ { up with tkg := { up.tkg with phase := .host, edgeAt := 4900000, gapEndAt := 3380 } }
    [(srcP, TkgSrc.RUN, 1), (srcP, TkgSrc.RUNNING, 1), (srcP, TkgSrc.LOCKED, 1), (srcP, TkgSrc.TICK_NUM, 41), (winP, TkgWin.ACT_PERIOD, 4000),
     (winP, TkgWin.ACT_CSTART, 60), (winP, TkgWin.ACT_CEND, 2860), (winP, TkgWin.ACT_GEND, 3380), (winP, TkgWin.ACT_DECISION_OFFSET, 100),
     (winP, TkgWin.ACT_TOL, 20)]

/-- The same at another time, and in another phase. -/
def atTime (s : State) (t : Nat) : State := { s with time := t }
def inPhase (s : State) (p : Phase) : State := { s with tkg := { s.tkg with phase := p } }

theorem test_first_tick :
    (let s := { (ticking.setF srcP TkgSrc.TICK_START 5) with tkg := { ticking.tkg with phase := .armed, armAt := 4999900 } }
     s.live = true ∧ s.on carveP GlbCarve.MEM_INIT_DONE = true ∧ s.tkg.phase = .armed ∧ s.on srcP TkgSrc.RUN = true ∧
       s.tkg.armAt + (if s.tkg.internal then 1000 else 100) ≤ s.time ∧ (after .firstTick s).began 5 5000000 = true) := by decide +kernel

theorem test_internal_tick :
    (let s := { atTime ticking 4904000 with tkg := { ticking.tkg with internal := true } }
     s.live = true ∧ s.tkg.internal = true ∧ s.tkg.phase = .host ∧ s.tkg.edgeAt + s.sched.period = s.time ∧ s.on srcP TkgSrc.RUN = true ∧
       (after .internalTick s).began 42 4904000 = true ∧
       (let t := after .internalTick (s.setB srcP TkgSrc.RUN false)
        t.tkg.phase = .stopped ∧ t.on srcP TkgSrc.RUNNING = false ∧ t.tickNum = 41)) := by decide +kernel

theorem test_tick_in_edge :
    (let s := atTime ticking 4904020
     s.live = true ∧ s.tkg.internal = false ∧ s.tkg.phase = .host ∧ s.on srcP TkgSrc.RUN = true ∧ s.tkg.edgeAt + s.sched.period ≤ s.time + s.sched.tol ∧
       s.time = s.tkg.edgeAt + s.sched.period + s.sched.tol ∧ (after .tickInEdge s).began 42 4904020 = true) ∧
    (let s := atTime ticking 4903979
     s.live = true ∧ s.tkg.internal = false ∧ s.ticking = true ∧ s.on srcP TkgSrc.RELOCK_ARMED = false ∧
       s.time + s.sched.tol < s.tkg.edgeAt + s.sched.period ∧ (after .tickInEdge s).f srcP TkgSrc.STRAY_CNT = 1 ∧ (after .tickInEdge s).tickNum = 41) := by
  decide +kernel

/-- An armed relock takes an edge before its time, and neither it nor another takes one that comes too late (R51, R52). -/
theorem test_relock :
    (let s := (atTime ticking 4903500).setF srcP TkgSrc.RELOCK_ARMED 1
     let t := after .tickInEdge s
     s.live = true ∧ s.tkg.internal = false ∧ s.tkg.phase = .host ∧ s.on srcP TkgSrc.RUN = true ∧ s.on srcP TkgSrc.RELOCK_ARMED = true ∧
       s.time ≤ s.tkg.edgeAt + s.sched.period + s.sched.tol ∧ t.began 42 4903500 = true ∧ t.on srcP TkgSrc.RELOCK_ARMED = false) ∧
    (let s := (atTime ticking 4904021).setF srcP TkgSrc.RELOCK_ARMED 1
     s.tkg.edgeAt + s.sched.period + s.sched.tol < s.time ∧ after .tickInEdge s = s) := by decide +kernel

theorem test_synthetic_edge :
    (let s := atTime ticking 4904020
     s.live = true ∧ s.tkg.internal = false ∧ s.tkg.phase = .host ∧ s.on srcP TkgSrc.RUN = true ∧
       s.tkg.edgeAt + s.sched.period + s.sched.tol = s.time ∧ (after .syntheticEdge s).began 42 4904020 = true ∧
       (after .syntheticEdge s).f srcP TkgSrc.SYNTH_RUN = 1 ∧
       (let t := after .syntheticEdge (s.setF srcP TkgSrc.SYNTH_RUN 7)
        t.on srcP TkgSrc.LOCKED = false ∧ t.on srcP TkgSrc.TICK_LOST = true)) := by decide +kernel

/-- Group 0 is attached with a frame to compute, and its context runs a program of slice 2. -/
def stream0 : State :=
  let p : Program := { prog4 with stream := true, gang := [2], base := 32, entry := 1 }
  let s := with_ ticking [(ctxP 0, Ctx.STATE, 1), (ctxP 0, Ctx.STREAM, 1), (grpP 0, SibGrp.ATTACHED, 1)]
  let s := s.modCx 0 fun y => { y with program := some p }
  s.modGrp 0 fun g => { g with computing := some { tick := 40, missing := false, partial_ := false } }

theorem test_compute_start :
    (let s := inPhase stream0 .beforeCompute
     let t := after .computeStart s
     s.live = true ∧ s.tkg.phase = .beforeCompute ∧ s.tkg.edgeAt + s.sched.cstart ≤ s.time ∧ s.clocked = true ∧ s.attached 0 = true ∧
       s.ctxRuns 0 = true ∧ (s.grp 0).missAct = false ∧ t.tkg.offerAt = some s.time ∧ (s.cx 0).tick.held = false ∧ (s.cx 0).tick.shed = false ∧ (s.cx 0).program.isSome = true ∧
       (∀ d, d < 4 → d ≠ 0 → (s.cx d).program = none) ∧ (t.cx 0).started = true ∧ (t.slice 2).run = true ∧ (t.slice 2).pc = 33 ∧
       t.f (ctxP 0) Ctx.RUNNING = 1) ∧
    (let s := inPhase ticking .beforeCompute
     (∀ c, c < 4 → (s.cx c).program = none) ∧ (after .computeStart s).regs = s.regs) := by decide +kernel

/-- The stream program of group 0 at work in the compute window. -/
def streaming : State := after .computeStart (inPhase stream0 .beforeCompute)

theorem test_compute_end : streaming.live = true ∧ streaming.tkg.phase = .compute ∧ streaming.tkg.edgeAt + streaming.sched.cend ≤ streaming.time ∧
    streaming.overruns 0 = true ∧ streaming.streamBusy 0 = true ∧ (∀ c, c < 64 → streaming.cuts c = false) ∧
    (let t := after .computeEnd streaming
     (t.cx 0).tick.ovr = true ∧ t.running 0 = [] ∧ t.f ovrP (TkgOvr.OVR_CNT.at 0) = 1 ∧ t.f ovrP (TkgOvr.OVR_TICK.at 0) = 41 ∧ t.tkg.phase = .gap) ∧
    (let s := inPhase ticking .compute
     (∀ c, c < 4 → s.overruns c = false) ∧ (∀ n, n < 16 → (s.slice n).staging = none) ∧ (∀ c, c < 64 → s.cuts c = false) ∧
       (after .computeEnd s).regs = s.regs) := by decide +kernel

/-- A fault in the cycle of COMPUTE_END: the frame carries `OVR` and `FAULT` (R387). -/
theorem test_fault_and_cut :
    (let s := streaming.programFault 2 { cause := fcLoopBound, slot := 0 }
     let t := after .computeEnd s
     s.overruns 0 = true ∧ s.streamBusy 0 = false ∧ (∀ c, c < 64 → s.cuts c = false) ∧ (t.cx 0).tick.ovr = true ∧ (t.cx 0).tick.fault = true ∧
       t.f ovrP (TkgOvr.OVR_CNT.at 0) = 1 ∧ t.f (ctxP 0) Ctx.CONSEC = 1) ∧
    (let s := streaming.programFault 2 { cause := fcLoopBound, slot := 0 }
     ({ s with time := s.time + 1 } : State).overruns 0 = false) := by decide +kernel

theorem test_gap_end : (inPhase ticking .gap).live = true ∧ (inPhase ticking .gap).tkg.edgeAt + (inPhase ticking .gap).tkg.gapEndAt ≤ ticking.time ∧
    ∀ c, (inPhase ticking .gap).cuts c = false := ⟨by decide +kernel, by decide +kernel, fun _ => rfl⟩

/-- Worked case 3.b's long tick, in its host window. -/
def longTick : State :=
  with_ ticking [(winP, TkgWin.ACT_PERIOD, 50000), (winP, TkgWin.ACT_CEND, 12000), (winP, TkgWin.ACT_GEND, 13820)]

theorem test_refresh_point : longTick.live = true ∧ longTick.tkg.phase = .host ∧ longTick.sched.points = [25780, 39560, 48160] ∧
    (atTime longTick 4925780).tkg.edgeAt + 25780 ≤ (atTime longTick 4925780).time ∧
    (∀ n, n < 16 → (longTick.slice n).staging = none) ∧
    ∀ c, longTick.cuts c = false :=
  ⟨by decide +kernel, by decide +kernel, by decide +kernel, by decide +kernel, by decide +kernel, fun _ => rfl⟩

/-- The host program of context 4 at work on slice 0, in a tick. -/
def hosting : State :=
  let s := { run4 with tkg := ticking.tkg, regs := ticking.regs }
  let s := with_ s [(ctxP 4, Ctx.STATE, 1), (ctxP 4, Hdr.OWNER_VALID, 1)]
  (s.modCx 4 fun y => { y with host := some { cmd := 3, active := true } }).modSlice 0 fun x => { x with run := true, ctx := 4 }

theorem test_host_cut : hosting.live = true ∧ hosting.isStream 4 = false ∧ hosting.running 4 = [0] ∧ hosting.slotEnd = none ∧
    (hosting.cx 4).halting = [] ∧ (hosting.cx 4).host = some { cmd := 3, active := true } ∧
    (let t := after (.hostCut 4) hosting
     t.running 4 = [] ∧ (t.cx 4).host = some { cmd := 3, active := false } ∧ t.f ovrP TkgOvr.HOST_CUT_CNT = 1) ∧
    (let s := hosting.programFault 0 { cause := fcLoopBound, slot := 0 }
     let t := after (.hostCut 4) s
     s.faultedNow 4 = true ∧ s.slotEnd = none ∧ s.isStream 4 = false ∧ (t.cx 4).host = none ∧ t.faultedNow 4 = false ∧
       t.f ovrP TkgOvr.HOST_CUT_CNT = 1) := by decide +kernel

theorem test_band_change :
    (let s : State := { up with tkg := { up.tkg with pendBand := some 1 } }
     s.live = true ∧ s.ticking = false ∧ s.tkg.pendBand = some 1 ∧ (after .bandChange s).f winP TkgWin.BAND = 1) ∧
    (let s : State := { up with pins := { up.pins with tickOut := true } }
     s.pins.tickOut = true ∧ s.pins.tickOutFallAt ≤ s.time ∧ (after .tickOutFall s).pins.tickOut = false) := by decide +kernel

/-! ## Memory -/

theorem test_two_views : linToBank 0x30020 < 2 ^ 35 ∧ bankToLin (linToBank 0x30020) = 0x30020 ∧ linToBank (bankToLin 0x7FFFFFFFF) = 0x7FFFFFFFF := by
  decide +kernel

/-- After 2 ms, before training has ended; and while the fill goes on. -/
def training : State := with_ { up with power := { up.power with initAt := none } } [(carveP, GlbCarve.MEM_INIT_DONE, 0)]
def filling : State := { after (.memInitStart 0) training with time := 5000000 + 2097152, tkg := { accruedAt := 5000000 + 2097000 } }

theorem test_fill : training.live = true ∧ training.power.locked = true ∧ 2000000 ≤ training.time ∧ training.power.initAt = none ∧
    filling.wf = true ∧ filling.live = true ∧ filling.power.initAt = some 5000000 ∧ filling.on (mcrP 2) StkMcr.INIT_BUSY = true ∧ filling.tkg.debt = 0 ∧
    filling.time < filling.tkg.accruedAt + filling.interval ∧ 5000000 + 2097152 + tRef * filling.power.fillRefs ≤ filling.time ∧
    (let t := after (.stackInitDone 2) (filling.poke true 0x400000020 [7])
     t.on (mcrP 2) StkMcr.INIT_DONE = true ∧ t.peek true 0x400000020 1 = [0]) ∧
    (after (.memInitStart 8) training).on (mcrP 3) StkMcr.INIT_FAIL = true ∧
    (let s := with_ training ((List.range 4).map fun k => (mcrP k, StkMcr.INIT_DONE, 1))
     s.live = true ∧ s.on carveP GlbCarve.MEM_INIT_DONE = false ∧ (∀ k, k < 4 → s.on (mcrP k) StkMcr.INIT_DONE = true) ∧
       (after .memInitDone s).on carveP GlbCarve.MEM_INIT_DONE = true) ∧
    (after (.initFail 1) filling).on (mcrP 1) StkMcr.INIT_FAIL = true := by decide +kernel

theorem test_refresh :
    (let s : State := { up with tkg := { up.tkg with accruedAt := 4996100 } }
     s.live = true ∧ s.power.initAt.isSome = true ∧ s.tkg.accruedAt + s.interval = s.time ∧ (after .refreshDebtAccrue s).f (refP 3) StkRefresh.DEBT_NOW = 1) ∧
    (let s : State := { up with tkg := { up.tkg with debt := 2, accruedAt := 5000000 }, buSt := [(5, { row := some 3 })] }
     s.live = true ∧ 0 < s.tkg.debt ∧ s.refreshRoom tRef = true ∧ s.tkg.refFree ≤ s.time ∧ s.power.initAt.isSome = true ∧ s.tkg.repFree = [] ∧
       (let t := after .refresh s
        t.tkg.debt = 1 ∧ (spGet {} t.buSt 5).row = none ∧ t.f (refP 0) StkRefresh.REF_CNT = 1)) := by decide +kernel

/-- A repair of one beat waits in channel 1 of stack 0. -/
def repairing : State := { up with repairs := [(1, [{ addr := 0x20000040, bytes := List.replicate 32 9 }])], tkg := { up.tkg with accruedAt := 5000000 } }

theorem test_repair : repairing.wf = true ∧ repairing.live = true ∧
    spGet [] repairing.repairs (0 * 16 + 1) = [{ addr := 0x20000040, bytes := List.replicate 32 9 }] ∧ repairing.tkg.debt = 0 ∧
    repairing.refreshRoom 40 = true ∧
    (let t := after (.repairWrite 0 1) repairing
     repairing.tkg.refFree ≤ repairing.time ∧ t.peek true 0x2000003F 3 = [0, 9, 9] ∧ spGet 0 t.tkg.repFree 1 = 5000040 ∧ t.f (mcrP 0) StkMcr.REPAIR_CNT = 1) := by decide +kernel

theorem test_host_write : ctx4.wf = true ∧ ctx4.reaches (.port 0) = true ∧ ctx4.on (linkP 0) HptLink.TEARDOWN_BUSY = false ∧
    ctx4.on carveP GlbCarve.MEM_INIT_DONE = true ∧ ctx4.initFailed = false ∧
    (∀ g ∈ hostGranules false 0x3001E 5, inCarve g.1 = false ∧ ctx4.portFrame 0 (frameOf (ctx4.zoneBank (zoneOf g.1)) g.1) = true) ∧ ctx4.syn = [] ∧ ctx4.twoViews = [] ∧
    (let t := after (.hostMemoryWrite 0 .linear 0x3001E [1, 2, 3, 4, 5] false) ctx4
     t.peek false 0x3001D 7 = [0, 1, 2, 3, 4, 5, 0] ∧
       (after (.hostMemoryRead 0 .linear 0x3001D 7 []) t).out = [.completion 0 [0, 1, 2, 3, 4, 5, 0] false]) ∧
    ctx4.barOk 0 (hostGranules true 0x40000 4) = false ∧ (after (.hostMemoryWrite 0 .bank 0x40000 [1, 2, 3, 4] false) ctx4).f (xlP 0) HptXlate.BAR_DENY_CNT = 1 ∧
    (after (.hostMemoryRead 0 .bank 0x40000 4 []) ctx4).out = [.completion 0 [0, 0, 0, 0] false] ∧
    (let t := after (.hostMemoryWrite 0 .linear 0x7DFFFFFFE [1, 2, 3, 4] false) ctx4
     ctx4.barOk 0 (hostGranules false 0x7DFFFFFFE 4) = false ∧ (hostGranules false 0x7DFFFFFFE 4).any (fun g => inCarve g.1) = true ∧
       t.f carveP GlbCarve.CARVE_WR_CNT = 1 ∧ t.f (xlP 0) HptXlate.BAR_DENY_CNT = 1) := by decide +kernel

theorem test_crossed_writes :
    (let a := linToBank 0x30020
     let s := after (.hostMemoryWrite 0 .linear 0x30020 (List.replicate 32 7) false) ctx4
     s.wf = true ∧ s.syn = [] ∧ s.crossed 0 .bank (a / 32) = 2 ^ 32 - 1 ∧ s.crossed 0 .linear (a / 32) = 0 ∧ a % 32 = 0 ∧ inCarve a = false ∧
       s.portFrame 0 (frameOf (s.zoneBank (zoneOf a)) a) = true ∧
       (after (.hostMemoryRead 0 .bank a 32 []) s).crossed 0 .bank (a / 32) = 0) := by decide +kernel

theorem test_flips : inCarve (linToBank 0x30020) = false ∧ linToBank 0x30020 % 32 = 0 ∧ linToBank 0x30020 / 32 < 2 ^ 30 ∧
    ctx4.portFrame 0 (frameOf (ctx4.zoneBank (zoneOf (linToBank 0x30020))) (linToBank 0x30020)) = true ∧
    (let s := ctx4.poke false 0x30020 [0x55]
     let a := linToBank 0x30020
     let t := after (.hostMemoryRead 0 .bank a 32 [⟨a / 32, 3⟩]) s
     let u := after (.hostMemoryRead 0 .bank a 32 [⟨a / 32, 3⟩, ⟨a / 32, 271⟩]) s
     let pg : Page := ⟨.stkEcc, a / 2 ^ 33, 0⟩
     s.wf = true ∧ s.syn = [] ∧ t.out = [.completion 0 (0x55 :: List.replicate 31 0) false] ∧ t.f pg StkEcc.CE_CNT = 1 ∧
       t.f pg StkEcc.LAST_ADDR = a ∧ u.f pg StkEcc.UE_CNT = 1 ∧ u.f pg StkEcc.CE_CNT = 0) := by decide +kernel

/-! ## Bank units -/

/-- A command of slice 2 for context 4 in banks of stack 0, channel 1, whose row of its bank unit is not open. -/
def cmd8 (op : Nat) (st : BuSt) (parts : List BuPart) : BuCmd :=
  { id := 8, issuer := .engine 2, op := op, ctx := 4, stack := 0, chan := 1, parts := parts, dstOff := 64, srcOff := 32, word3 := 0x04030201,
    count := 2, kcBeats := 1, batch := 1, slice := 2, st := st }

def bu8 (c : BuCmd) : State := { up with bus := [c] }
def part3 : BuPart := { bank := 3, slot := 0 }

theorem test_bu_start :
    ((bu8 (cmd8 0 .queued [part3])).clocked = true ∧ (bu8 (cmd8 0 .queued [part3])).findBu 8 = some (cmd8 0 .queued [part3]) ∧
      (after (.buNop 8) (bu8 (cmd8 0 .queued [part3]))).findBu 8 = some { cmd8 0 .queued [part3] with st := .done }) ∧
    (let s := bu8 (cmd8 2 .queued [{ part3 with yielded := true }])
     s.findBu 8 = some (cmd8 2 .queued [{ part3 with yielded := true }]) ∧ (cmd8 2 .queued []).issuer.isEngine = true ∧
       (∀ d ∈ s.bus, d.id ≠ 8 → False) ∧ (after (.buCommandStart 8) s).findBu 8 = some (cmd8 2 .running [{ part3 with started := true }]) ∧
       ((after (.buCommandStart 8) s).bu (buKey 0 1 3)).cmd = some 8) ∧
    (let c := cmd8 2 .queued [part3]
     let d := { cmd8 2 .running [part3] with id := 7 }
     let s : State := { up with bus := [d, c] }
     s.findBu 8 = some c ∧ d ∈ s.bus ∧ d.id ≠ 8 ∧ d.key part3 = c.key part3 ∧ after (.buCommandStart 8) s = s) ∧
    (let q := { part3 with yielded := true }
     let c := { cmd8 2 .queued [q] with issuer := .hib 1 }
     let s := bu8 c
     s.findBu 8 = some c ∧ c.issuer.isEngine = false ∧ s.hostPartOk 8 (c.key q) q = true ∧
       (after (.buCommandStart 8) s).findBu 8 = some { c with st := .running, parts := [{ part3 with started := true }] }) := by decide +kernel

/-- A part of the host starts in no bank unit that a live stream program names while a compute window is open, and one that had started resumes
there (R133). -/
theorem test_host_part :
    (let s := streaming.modCx 0 fun y => { y with program := y.program.map fun p => { p with bus := [buKey 0 1 3] } }
     let c := { cmd8 2 .queued [part3] with issuer := .host 5 }
     let s : State := { s with bus := [c] }
     s.tkg.phase = .compute ∧ s.hostPartOk 8 (c.key part3) part3 = false ∧ s.hostPartOk 8 (c.key part3) { part3 with started := true } = true) := by decide +kernel

theorem test_bu_run :
    (let s := bu8 { cmd8 5 .running [part3, { part3 with bank := 4 }] with entry := 0x20 }
     let b := (after (.buRun 8) s).bu (buKey 0 1 4)
     s.clocked = true ∧ ([part3, { part3 with bank := 4 }].map (cmd8 5 .running []).key).Nodup ∧ b.cmd = some 8 ∧ b.pc = 0x20 ∧ b.reg 1 = 32 ∧
       b.reg 2 = 64 ∧ b.reg 3 = 0x04030201 ∧ b.reg 4 = 2 ∧ b.reg 5 = 1 ∧ b.reg 6 = 2) ∧
    (let s := bu8 { cmd8 5 .running [{ part3 with cyc := 9 }] with limit := 9 }
     s.clocked = true ∧ ((after (.cycleLimit 8) s).findBu 8).map (fun c => c.parts.map (·.fault)) = some [0x15]) ∧
    (let f : Flit := { cmd := 8, vals := [5], poison := false }
     let s : State := { bu8 { cmd8 1 .running [{ part3 with cyc := 9 }, { part3 with bank := 4 }] with limit := 9 } with buSt := [(buKey 0 1 4, { link := [f] })] }
     let t := after (.cycleLimit 8) s
     s.clocked = true ∧ (t.findBu 8).map (fun c => c.parts.map (·.fault)) = some [0x15, 0x15] ∧ (t.bu (buKey 0 1 4)).link = []) ∧
    (let t := after (.cycleLimit 8) (bu8 { cmd8 1 .running [{ part3 with cyc := 9 }] with limit := 9, runahead := true })
     t.findBu 8 = none ∧ t.f (perfP 2) SlcPerf.RA_DROPPED = 1) ∧
    (let c := { cmd8 2 .running [{ part3 with fin := true }] with issuer := .host 5 }
     let t := after (.buCommandComplete 8) (bu8 c)
     c.ready = true ∧ (bu8 c).hib.jobs = [] ∧ t.findBu 8 = none ∧ t.f (buP 0) StkBu.BU_CMD_CNT = 1) ∧
    (let c := cmd8 5 .running [{ part3 with fin := true, flags := 5 }]
     let t := after (.buCommandComplete 8) (bu8 c)
     c.ready = true ∧ c.issuer = .engine 2 ∧ c.abandoned = false ∧ (t.slice 2).flags = sliceFlags 5) ∧
    (let c := { cmd8 2 .running [{ part3 with fin := true, fault := 0x12 }] with issuer := .host 5 }
     let t := after (.buCommandComplete 8) (bu8 c)
     c.ready = true ∧ c.partStatus.1 = 0x12 ∧ t.f (buP 0) StkBu.BU_FAULT_CNT = 1 ∧ t.f (buP 0) StkBu.LF_STATUS = 0x12) := by decide +kernel

/-- Beat 33 of bank 3, the source of the second beat, holds 32 bytes. -/
def beat33 (c : BuCmd) : State := (bu8 c).poke true (bankAddr 0 1 3 64) ((List.range 32).map fun i => BitVec.ofNat 8 (i + 1))

theorem test_bu_beats :
    (let s := bu8 (cmd8 2 .running [{ part3 with at_ := 1 }])
     let t := after (.buFill 8 1) s
     s.wf = true ∧ s.clocked = true ∧ t.peek true (bankAddr 0 1 3 94) 5 = [0, 0, 1, 2, 3] ∧
       t.findBu 8 = some (cmd8 2 .running [{ part3 with at_ := 2, cyc := 1, fin := true }])) ∧
    (let ps := [part3, { part3 with bank := 4, fin := true }, { part3 with bank := 5 }]
     let s := bu8 { cmd8 2 .running ps with limit := 2 }
     let t := after (.buFill 8 2) s
     (ps.map (·.bank)).Nodup ∧ t.peek true (bankAddr 0 1 3 127) 2 = [4, 0] ∧ t.peek true (bankAddr 0 1 4 64) 1 = [0] ∧ t.peek true (bankAddr 0 1 5 64) 2 = [1, 2] ∧
       (t.findBu 8).map (fun c => c.parts.map fun p => (p.at_, p.cyc, p.fin)) = some [(2, 2, true), (0, 0, true), (2, 2, true)]) ∧
    (let s := beat33 (cmd8 3 .running [{ part3 with at_ := 1 }])
     let t := after (.buCopy 8 1) s
     s.wf = true ∧ s.syn = [] ∧ t.peek true (bankAddr 0 1 3 95) 3 = [0x20, 1, 2] ∧
       t.findBu 8 = some (cmd8 3 .running [{ part3 with at_ := 2, cyc := 6, fin := true }])) ∧
    (let s := beat33 (cmd8 4 .running [{ part3 with at_ := 1 }])
     let t := after (.buDigest 8 1) s
     s.wf = true ∧ t.peek true (bankAddr 0 1 3 64) 8 = leBytes 8 (mace ((List.range 32).map fun i => BitVec.ofNat 8 (i + 1))) ∧
       t.peek true (bankAddr 0 1 3 72) 1 = [9]) ∧
    (let c := { cmd8 1 .running [part3] with word3 := 0, srcOff := 64 }
     let s := (beat33 c).poke true (bankAddr 0 1 3 0) [2, 3]
     let t := after (.buDot 8 1) s
     s.wf = true ∧ c.count = 2 ∧ (t.findBu 8).map (fun d => d.parts.map fun q => (q.at_, q.own.map (·.val.toNat), q.sent)) = some [(1, [8], 0)] ∧
       (let u := after (.buDot 8 2) (bu8 { c with runahead := true, slice := 2 })
        (u.findBu 8).map (·.st) = some .held ∧ u.f (perfP 2) SlcPerf.RA_BEATS = 3)) := by
  decide +kernel

def unit3 : BuId := ⟨0, 1, 3⟩

theorem test_chain :
    (let f : Flit := { cmd := 8, vals := [5, 6], poison := false }
     let s : State := { up with buSt := [(buKey 0 1 4, { link := [f] })] }
     s.clocked = true ∧ unit3.bank.val < 15 ∧ (s.bu (buIdKey unit3 + 1)).link = [f] ∧ s.dotPart unit3 8 = none ∧ (s.bu (buIdKey unit3)).cmd = none ∧
       ((after (.chainFlit unit3 false) s).bu (buIdKey unit3)).link = [f]) ∧
    (let f : Flit := { cmd := 8, vals := [5, 6], poison := false }
     let p := { part3 with own := [⟨10, false⟩, ⟨20, true⟩] }
     let s : State := { bu8 (cmd8 1 .running [part3, p, { part3 with bank := 4 }] |> fun c => { c with parts := [p, { part3 with bank := 4 }] }) with
       buSt := [(buKey 0 1 4, { link := [f] })] }
     (s.dotPart unit3 8).map (·.2) = some p ∧ ((after (.chainFlit unit3 false) s).bu (buIdKey unit3)).link = [{ cmd := 8, vals := [15, 26], poison := true }]) ∧
    (let f : Flit := { cmd := 8, vals := [5, 6], poison := false }
     let c := { cmd8 1 .running [{ part3 with bank := 0 }] with batch := 2 }
     let s : State := { bu8 c with buSt := [(buKey 0 1 0, { link := [f] })] }
     let t := after (.chainResultDelivery 8) s
     s.clocked = true ∧ s.findBu 8 = some c ∧ ((t.slice 2).plane.map fun e => (e.1, e.2.row, e.2.col, e.2.val.toNat)) = [(0, 0, 0, 5), (0, 0, 1, 6)]) := by
  decide +kernel

/-! ## Micro-programs -/

def word (op rd ra rb imm : Nat) (fmt : Nat := 0) (bsel : Nat := 0) : W64 :=
  BitVec.ofNat 64 (op <<< 58 ||| rd <<< 54 ||| ra <<< 50 ||| rb <<< 46 ||| fmt <<< 43 ||| bsel <<< 42 ||| imm)

/-- A RUN of context 4 in bank 3 at word 0x21 of a program at 0x20 to 0x27, where register 1 holds `a` and register 2 holds `b`; zone 0 is in bank
mode, and its frames of the bank's first 64 KiB belong to the context. -/
def micro (w : W64) (a b : Nat) (r : BuState := {}) : State :=
  let c := { cmd8 5 .running [part3] with entry := 0x20 }
  let g : Uprog := { ctx := 4, base := 0x20, count := 8, stackMask := 1, chans := 2, banks := 8, bounds := [], cost := 0, words := [] }
  let s : State := { ctx4 with bus := [c], plv := { ctx4.plv with uprogs := [g] }, ustore := [(buKey 0 1 3 * 1024 + 0x21, w)] }
  let s := s.setBu (buKey 0 1 3) { r with cmd := some 8, pc := 0x21, scr := spPut 0 (spPut 0 [] 1 (BitVec.ofNat 32 a)) 2 (BitVec.ofNat 32 b) }
  (s.setF carveP (GlbCarve.ZONE_VIEW.at 0) 1).setFrame (frameOf true (bankAddr 0 1 3 0)) 0 true

def ctxOf : UCtx := { c := { cmd8 5 .running [part3] with entry := 0x20 }, p := part3, lo := 0x20, hi := 0x28 }

/-- What a word leaves: register 5, the flags, the cycles and the program counter. -/
def left (c : Instr) (s : State) : Nat × Nat × Nat × Nat :=
  let t := after c s
  let b := t.bu (buKey 0 1 3)
  (b.reg 5, b.flags, (((t.findBu 8).map fun c => c.parts.map (·.cyc)).getD []).headD 0, b.pc)

theorem test_at_word : (micro (word 0x04 5 1 2 0) 7 9).atWord unit3 0x04 ctxOf (uWord (word 0x04 5 1 2 0)) ((micro (word 0x04 5 1 2 0) 7 9).bu (buKey 0 1 3)) := by
  unfold State.atWord; decide +kernel

/-- Integer words on worked operands (R211): wraps, saturations, the division corners and shifts. -/
theorem test_integer_words :
    ([(Instr.uAdd unit3, 0x04, 0xFFFFFFFF, 2, 1, 0, 1), (.uAdds unit3, 0x05, 0x7FFFFFFF, 1, 0x7FFFFFFF, 4, 1), (.uSub unit3, 0x06, 1, 2, 0xFFFFFFFF, 0, 1),
      (.uSubs unit3, 0x07, 0x80000000, 1, 0x80000000, 4, 1), (.uMul unit3, 0x08, 0x10000, 0x10001, 0x10000, 0, 1),
      (.uMuls unit3, 0x09, 0x10000, 0x10001, 0x7FFFFFFF, 4, 1), (.uDiv unit3, 0x0A, 0xFFFFFFF9, 2, 0xFFFFFFFD, 0, 8),
      (.uDiv unit3, 0x0A, 7, 0, 0x7FFFFFFF, 1, 8), (.uDiv unit3, 0x0A, 0x80000000, 0xFFFFFFFF, 0x7FFFFFFF, 4, 8),
      (.uRem unit3, 0x0B, 0xFFFFFFF9, 2, 0xFFFFFFFF, 0, 8), (.uRem unit3, 0x0B, 7, 0, 7, 1, 8), (.uNeg unit3, 0x0C, 0x80000000, 0, 0x7FFFFFFF, 4, 1),
      (.uAbs unit3, 0x0D, 0xFFFFFFFE, 0, 2, 0, 1), (.uAnd unit3, 0x0E, 12, 10, 8, 0, 1), (.uOr unit3, 0x0F, 12, 10, 14, 0, 1),
      (.uXor unit3, 0x10, 12, 10, 6, 0, 1), (.uShl unit3, 0x11, 3, 31, 0x80000000, 0, 1), (.uShl unit3, 0x11, 3, 32, 0, 0, 1),
      (.uShls unit3, 0x12, 3, 30, 0x7FFFFFFF, 4, 1), (.uShr unit3, 0x13, 0x80000000, 31, 1, 0, 1), (.uSar unit3, 0x14, 0x80000000, 40, 0xFFFFFFFF, 0, 1),
      (.uMin unit3, 0x15, 0xFFFFFFFF, 1, 0xFFFFFFFF, 0, 1), (.uMax unit3, 0x16, 0xFFFFFFFF, 1, 1, 0, 1)] : List (Instr × Nat × Nat × Nat × Nat × Nat × Nat)).all
      (fun (c, op, a, b, v, fl, n) => left c (micro (word op 5 1 2 0) a b) = (v, fl, n, 0x22)) = true ∧
    left (.uAddi unit3) (micro (word 0x17 5 1 0 0xFFFFFFFF) 7 0) = (6, 0, 1, 0x22) := by decide +kernel

theorem test_moves :
    left (.uNop unit3) (micro (word 0x00 0 0 0 0) 7 0) = (0, 0, 1, 0x22) ∧ left (.uLdi unit3) (micro (word 0x02 5 0 0 77) 7 0) = (77, 0, 1, 0x22) ∧
    left (.uMov unit3) (micro (word 0x03 5 1 0 0) 7 0) = (7, 0, 1, 0x22) ∧
    left (.uXw unit3) (micro (word 0x24 5 0 0 1) 0 0 { beat0 := [0, 0, 0, 0, 9] }) = (9, 0, 1, 0x22) ∧
    ((after (.uIw unit3) (micro (word 0x25 0 1 0 7 0 1) 0x0A0B 0)).bu (buKey 0 1 3)).beat true = List.replicate 28 0 ++ [0x0B, 0x0A, 0, 0] ∧
    left (.uFlags unit3) (micro (word 0x38 5 0 0 0) 0 0 { flags := 5 }) = (5, 5, 1, 0x22) ∧
    ((after (.uEnd unit3) (micro (word 0x01 0 0 0 0) 0 0)).findBu 8).map (fun c => c.parts.map (·.fin)) = some [true] := by
  decide +kernel

theorem test_branches :
    left (.uBr unit3) (micro (word 0x18 0 0 0 0x20) 0 0) = (0, 0, 2, 0x20) ∧ left (.uBz unit3) (micro (word 0x19 0 1 0 0x27) 1 0) = (0, 0, 1, 0x22) ∧
    left (.uBnz unit3) (micro (word 0x1A 0 1 0 0x27) 1 0) = (0, 0, 2, 0x27) ∧ left (.uBlt unit3) (micro (word 0x1B 0 1 2 0x27) 0xFFFFFFFF 0) = (0, 0, 2, 0x27) ∧
    left (.uLoop unit3) (micro (word 0x1C 1 0 0 0x20) 2 0) = (0, 0, 2, 0x20) ∧ left (.uLoop unit3) (micro (word 0x1C 1 0 0 0x20) 0 0) = (0, 0, 1, 0x22) ∧
    ((after (.uBr unit3) (micro (word 0x18 0 0 0 0x28) 0 0)).findBu 8).map (fun c => c.parts.map fun p => (p.fin, p.fault)) = some [(true, 0x17)] := by
  decide +kernel

def bank3 (off : Nat) : Nat := bankAddr 0 1 3 off

theorem test_memory_words :
    (let s := (micro (word 0x20 0 1 0 32) 32 0).poke true (bank3 64) [1, 2, 3]
     let t := after (.uLdb unit3) s
     s.wf = true ∧ s.uCheck ctxOf 64 32 = 0 ∧ s.syn = [] ∧ (t.bu (buKey 0 1 3)).beat0.take 4 = [1, 2, 3, 0] ∧ left (.uLdb unit3) s = (0, 0, 5, 0x22)) ∧
    (let t := after (.uStb unit3) (micro (word 0x21 0 1 0 32) 32 0 { beat0 := List.replicate 32 7 })
     t.peek true (bank3 63) 2 = [0, 7] ∧ t.peek true (bank3 95) 2 = [7, 0]) ∧
    (let s := (micro (word 0x22 5 1 0 4) 32 0).poke true (bank3 36) [1, 2, 3, 4]
     s.uCheck ctxOf 36 4 = 0 ∧ left (.uLdw unit3) s = (0x04030201, 0, 5, 0x22)) ∧
    (after (.uStw unit3) (micro (word 0x23 2 1 0 4) 32 0x0A0B0C0D)).peek true (bank3 35) 6 = [0, 0x0D, 0x0C, 0x0B, 0x0A, 0] ∧
    (let s := micro (word 0x22 5 1 0 2) 32 0
     s.uCheck ctxOf 34 4 = 0x13 ∧ ((after (.uLdw unit3) s).findBu 8).map (fun c => c.parts.map (·.fault)) = some [0x13]) ∧
    (let s := micro (word 0x20 5 1 0 0) 65536 0
     s.uCheck ctxOf 65536 32 = 0x12 ∧ ((after (.uLdb unit3) s).findBu 8).map (fun c => c.parts.map (·.fault)) = some [0x12]) := by decide +kernel

theorem test_beat_words :
    left (.uDotb unit3) (micro (word 0x28 5 0 0 0 0) 0 0 { beat0 := [2, 0xFF], beat1 := [3, 4] }) = (2, 0, 1, 0x22) ∧
    left (.uDotm unit3) ((micro (word 0x29 5 1 0 0 0) 64 0 { beat0 := [2, 0xFF] }).poke true (bank3 64) [3, 4]) = (2, 0, 5, 0x22) ∧
    (((after (.uBadd unit3) (micro (word 0x2A 0 0 0 0 1) 0 0 { beat0 := [0x7F, 1], beat1 := [1, 2] })).bu (buKey 0 1 3)).beat0.take 3 = [0x7F, 3, 0]) ∧
    (((after (.uBmul unit3) (micro (word 0x2B 0 0 0 0 1) 0 0 { beat0 := [3, 0xFF], beat1 := [5, 2] })).bu (buKey 0 1 3)).beat0.take 3 = [15, 0xFE, 0]) ∧
    (((after (.uBmax unit3) (micro (word 0x2C 0 0 0 0 1) 0 0 { beat0 := [3, 0xFF], beat1 := [5, 2] })).bu (buKey 0 1 3)).beat0.take 3 = [5, 2, 0]) ∧
    (((after (.uBmin unit3) (micro (word 0x2D 0 0 0 0 1) 0 0 { beat0 := [3, 0xFF], beat1 := [5, 2] })).bu (buKey 0 1 3)).beat0.take 3 = [3, 0xFF, 0]) ∧
    ((after (.uDotb unit3) (micro (word 0x28 5 0 0 0 5) 0 0)).findBu 8).map (fun c => c.parts.map (·.fault)) = some [0x17] ∧
    left (.uCrecv unit3) (micro (word 0x30 5 0 0 0) 0 0 { input := [⟨6, false⟩] }) = (6, 0, 1, 0x22) ∧
    left (.uCrecv unit3) (micro (word 0x30 5 0 0 0) 0 0) = (0, 0, 1, 0x21) ∧
    ((after (.uCsend unit3) (micro (word 0x31 0 1 0 0) 7 0)).bu (buKey 0 1 3)).half = some ⟨7, false⟩ ∧
    ((after (.uCadd unit3) (micro (word 0x32 0 1 0 0) 7 0 { input := [⟨6, true⟩], half := some ⟨2, false⟩ })).bu (buKey 0 1 3)).link = [⟨8, [2, 13], true⟩] := by
  decide +kernel

/-! ## The matrix array -/

/-- A product of 2 rows by 3 columns over 2 positions in INT8, from bytes 0 to 15 of the stationary buffer. -/
def prod : Product := { w := 1, s := 2, z := 1, clear := true, m := 2, n := 3, kt := 2, fmt := 1, sOff := 0, bank := false, dot := none, bundle := 0 }

/-- Slice 0 runs it; columns 0, 1 and 2 of the operand are (1, 4), (2, 5) and (3, -6). -/
def array0 (q : Product) (g : Slice → Slice := id) : State :=
  (up.modSlice 0 fun x => x.tbWrite 0 0 ([1, 2, 3, 0, 0, 0, 0, 0, 4, 5, 0xFA, 0, 0, 0, 0, 0].map fun b => (b, false))).modSlice 0 fun x =>
    g { x with run := true, cur := some q }

/-- A cycle of the array in the next engine cycle. -/
def cycle0 (s : State) : State := after (.weightRowRead 0 false) (s.modSlice 0 fun x => { x with cyc := x.cyc + 1 })

def filled0 : State := after (.shadowFill 0 false) (array0 prod)
def ready0 : State := cycle0 (cycle0 filled0)
def swapped0 : State :=
  (after (.broadcastSwap 0) ready0).modSlice 0 fun x => { x with cyc := 3, fifo := [⟨[7, 0xFF], 128, false, 1⟩, ⟨[1, 1], 128, true, 1⟩] }
def read0 : State := cycle0 swapped0
def leaving0 : State := cycle0 (cycle0 (cycle0 (cycle0 (cycle0 read0))))
def skid0 : State := cycle0 leaving0
def done0 : State := cycle0 (cycle0 skid0)
def slice0 (s : State) : Slice := s.slice 0

theorem test_array :
    (array0 prod).clocked = true ∧ (slice0 (array0 prod)).run = true ∧ (slice0 (array0 prod)).cur = some prod ∧ (slice0 (array0 prod)).front = none ∧
    (array0 prod).spanPending 0 prod = false ∧ (slice0 filled0).cur = some { prod with filled := true } ∧ (slice0 filled0).fillLeft = 2 ∧
    ((slice0 filled0).shadow.cols.map fun l => l.take 3) = [[1, 4, 0], [2, 5, 0], [3, 0xFA, 0], [0, 0, 0]] ∧
    (slice0 ready0).fillLeft = 0 ∧ (slice0 ready0).ripple = false ∧ (∀ r ∈ (slice0 ready0).pipe, r = none) ∧
    (slice0 swapped0).cur = some { prod with swapped := true } ∧ swapped0.f (perfP 0) SlcPerf.BCAST = 1 ∧
    (slice0 swapped0).active = (slice0 filled0).shadow ∧ colSum 1 128 2 [7, 0xFF] [1, 4] = 3 := by decide +kernel

/-- Behind a row of the same format the array enters the next pass by a ripple swap, and not by a broadcast swap (R163 to R165). -/
theorem test_ripple :
    (let s := filled0.modSlice 0 fun x => { x with lastFmt := some 1, fillLeft := 2, passNo := 1, waited := 1, pipe := (slice0 read0).pipe }
     let t := after (.rippleSwap 0) s
     (slice0 s).pipe[0]?.bind id = (slice0 read0).pipe[0]?.bind id ∧ ((slice0 s).pipe[0]?.bind id).isSome = true ∧ after (.broadcastSwap 0) s = s ∧
       (slice0 t).front = some 0 ∧ (slice0 t).cur = some { prod with swapped := true } ∧ t.f (perfP 0) SlcPerf.RIPPLE = 1 ∧ t.f (perfP 0) SlcPerf.ARR_BUBBLES = 1) ∧
    (let s := filled0.modSlice 0 fun x => { x with lastFmt := some 1, fillLeft := 1, ripple := true }
     (after (.rippleSwap 0) s).f (perfP 0) SlcPerf.RIPPLE = 1) ∧
    (slice0 filled0).lastFmt ≠ some 1 ∧ after (.rippleSwap 0) filled0 = filled0 ∧
    (let q := { prod with n := 5, filled := true, swapped := true, row := 2 }
     q.after 128 4 = some (1, 0)) := by decide +kernel

theorem test_weight_rows :
    (slice0 swapped0).arrAt ≠ (slice0 swapped0).cyc + 1 ∧ (slice0 swapped0).skid = [] ∧
    (cycle0 (swapped0.modSlice 0 fun x => { x with fifo := [] })).f (perfP 0) SlcPerf.ARR_BUBBLES = 1 ∧
    (let s := swapped0.modSlice 0 fun x => { x with skid := List.replicate 4 (prod.rowOf 128 4 1 ⟨[], 0, false, 0⟩ false) }
     let t := cycle0 s
     (slice0 s).skid.length = 4 ∧ t.f (perfP 0) SlcPerf.ARR_HOLDS = 1 ∧ (slice0 t).fifo = (slice0 s).fifo) ∧
    (((slice0 read0).pipe[0]?.bind id).map fun r => (r.row, r.k, r.poison, r.fresh)) = some (0, 2, false, true) ∧ (slice0 read0).fifo.length = 1 ∧
    ((slice0 leaving0).pipe[5]?.bind id).isSome = true ∧ ((slice0 skid0).skid.map fun k => (k.fmt, k.sums.map (·.toNat))) = [(1, [3, 9, 27])] ∧
    (slice0 skid0).skid.all (fun k => !(slice0 skid0).portTaken k) = true ∧
    ((List.range 4).map fun c => (spGet 0 (slice0 (cycle0 skid0)).z (zKey 1 0 c)).toInt) = [3, 9, 27, 0] ∧
    ((List.range 4).map fun c => (spGet false (slice0 done0).zPoison (zKey 1 1 c))) = [true, true, true, false] ∧
    (slice0 done0).skid = [] ∧ (∀ k ∈ (slice0 done0).pipe, k = none) ∧ (slice0 done0).done = [{ prod with swapped := true, row := 2, opened := true }] ∧
    (slice0 (after (.productComplete 0) done0)).done = [] := by decide +kernel

theorem test_chain_merge :
    (let c : ChainRes := { cmd := 8, fmt := 1, row := 0, col := 1, val := 30, poison := false }
     let s := done0.modSlice 0 fun x => { x with plane := [(1, c)] }
     s.clocked = true ∧ (slice0 s).mergeNext (s.kphys 0) (s.nphys 0) 1 = some (c, none) ∧ (slice0 s).portUsed 5 = false ∧
       (spGet 0 (slice0 (after (.chainMerge 0 1 false) s)).z (zKey 1 0 1)).toInt = 39 ∧
       (after (.chainMerge 0 1 false) s).f (perfP 0) SlcPerf.ARR_MERGES = 1) := by decide +kernel

/-! ## The sequencer -/

/-- The word of a bundle. -/
def bundleOf (sc : Nat) (ve ld st : Nat := 0) (rept : Nat := 1) (pred : Nat := 0) : BitVec 256 :=
  BitVec.ofNat 256 (rept ||| pred <<< 8 ||| sc <<< 16 ||| ve <<< 56 ||| ld <<< 144 ||| st <<< 184)

def scWord (op rd ra rb imm : Nat) : Nat := op ||| rd <<< 6 ||| ra <<< 11 ||| rb <<< 16 ||| imm <<< 16

/-- Slice 0 runs context 4's program, at bundle 17; A1 holds 7, and C0 and C1 hold `a` and `b`. -/
def running (w : BitVec 256) (a b : Nat := 0) (g : Slice → Slice := id) : State :=
  (ctx4.modCx 4 fun y => { y with program := some { prog4 with bounds := [⟨2, 0, 3⟩] } }).modSlice 0 fun x =>
    g { x with run := true, ctx := 4, pc := 18, begun := true, cyc := 10, store := [(18, w)], a := [(1, 7)],
               c := spPut 0 (spPut 0 [] 0 (BitVec.ofNat 32 a)) 1 (BitVec.ofNat 32 b) }

/-- What a bundle leaves: C2, A2 and the flags. -/
def scLeft (s : State) : Nat × Int × Nat × Nat × Nat :=
  let x := (after (.bundle 0 {}) s).slice 0
  ((spGet 0 x.c 2).toNat, x.wide 2, x.flags.toNat, x.pc, x.cyc)

theorem test_at_bundle : (running (bundleOf (scWord 0x05 18 16 17 0)) 5 6).atBundle 0 (Bundle.ofWord (bundleOf (scWord 0x05 18 16 17 0))) := by
  unfold State.atBundle; decide +kernel

/-- Scalar words on worked operands (R211, R226). -/
theorem test_scalar_slot :
    ([(0x05, 0x7FFFFFFF, 1, 0x7FFFFFFF, 2), (0x07, 0x80000000, 1, 0x80000000, 2), (0x08, 0x10000, 0x10001, 0x10000, 0), (0x09, 0x10000, 0x10001, 0x7FFFFFFF, 2),
      (0x0E, 0x80000000, 0, 0x7FFFFFFF, 2), (0x0F, 0xFFFFFFFE, 0, 2, 0), (0x10, 12, 10, 8, 0), (0x11, 12, 10, 14, 0), (0x12, 12, 10, 6, 0), (0x13, 3, 31, 0x80000000, 0),
      (0x13, 3, 32, 0, 0), (0x14, 3, 30, 0x7FFFFFFF, 2), (0x15, 0x80000000, 31, 1, 0), (0x16, 0x80000000, 40, 0xFFFFFFFF, 0), (0x17, 0xFFFFFFFF, 1, 0xFFFFFFFF, 0),
      (0x18, 0xFFFFFFFF, 1, 1, 0)] : List (Nat × Nat × Nat × Nat × Nat)).all
      (fun (op, a, b, v, fl) => scLeft (running (bundleOf (scWord op 18 16 (if op = 14 ∨ op = 15 then 0 else 17) 0)) a b) = (v, 0, fl, 19, 11)) = true := by decide +kernel

theorem test_scalar_wide :
    ([(scWord 0x00 0 0 0 0, 0, 0, 0, 0), (scWord 0x01 2 0 0 0xFFFFFE, 0, 0, -2, 0), (scWord 0x03 2 16 0 0, 0xFFFFFFFF, 0, -1, 0), (scWord 0x04 2 1 16 0, 5, 0, 12, 0),
      (scWord 0x06 18 1 16 0, 9, 0xFFFFFFFE, 0, 0), (scWord 0x0A 2 1 0 3, 0, 0, 10, 0), (scWord 0x0B 18 16 0 3, 0x7FFFFFFE, 0x7FFFFFFF, 0, 2)] : List (Nat × Nat × Nat × Int × Nat)).all
      (fun (w, a, v, x, fl) => scLeft (running (bundleOf w) a) = (v, x, fl, 19, 11)) = true := by decide +kernel

/-- A branch, a bound met, a bundle passed over, one that is not legal, and one that waits for a register. -/
theorem test_sequencer :
    (let s := running (bundleOf (scWord 0x20 0 0 0 40))
     let t := after (.bundle 0 {}) s
     s.boundAt 0 4 0 18 = some 3 ∧ (t.slice 0).pc = 40 ∧ (t.slice 0).cyc = 12) ∧
    (((after (.bundle 0 {}) (running (bundleOf (scWord 0x21 0 24 0 17)))).slice 0).pc = 17) ∧
    (((after (.bundle 0 {}) (running (bundleOf (scWord 0x22 0 24 0 17)) 1)).slice 0).pc = 17) ∧
    (let t := after (.bundle 0 {}) (running (bundleOf (scWord 0x20 0 0 0 17)) 0 0 fun x => { x with brCount := [(18, 3)] })
     t.f (ctxP 4) Ctx.LAST_CAUSE = 3 ∧ t.running 4 = []) ∧
    (let s := running (bundleOf (scWord 0x01 2 0 0 5) 0 0 0 0)
     (s.slice 0).fetch.rept = 0 ∧ ((after (.bundle 0 {}) s).slice 0).pc = 19 ∧ ((after (.bundle 0 {}) s).slice 0).wide 2 = 0) ∧
    (let s := running (bundleOf (scWord 0x3F 0 0 0 0))
     (s.slice 0).fetch.bad.isSome = true ∧ (after (.bundle 0 {}) s).f (ctxP 4) Ctx.LAST_CAUSE = 1 ∧ (after (.bundle 0 {}) s).running 4 = []) ∧
    (let s := running (bundleOf (scWord 0x05 18 16 17 0)) 5 6 fun x => { x with pend := [⟨1, 20, .c 0 3⟩] }
     let b := (s.slice 0).fetch
     (s.slice 0).begun = true ∧ (s.slice 0).blocks (b.reads (fun h => s.desc 4 h) (s.slice 0)) b.writes = true ∧ (vSlot b.ve).op < 0xE0 ∧
       (after (.bundle 0 {}) s).f (perfP 0) SlcPerf.STALLS = 1 ∧ ((after (.bundle 0 {}) s).slice 0).stalled = true) := by decide +kernel

/-- A slice whose pending results are no accumulator reads; and one that has begun nothing, with clean descriptors. -/
theorem test_no_zrd : (∀ z, ((running 0 0 0 fun x => { x with pend := [⟨1, 20, .c 0 3⟩] }).slice 0).zrdNext z = none) ∧
    (running 0 0 0 fun x => { x with begun := false }).syn = [] := ⟨fun _ => rfl, by decide +kernel⟩

theorem test_results :
    (let s := running 0 0 0 fun x => { x with pend := [⟨1, 20, .c 0 3⟩, ⟨2, 10, .c 3 9⟩, ⟨3, 9, .a 4 8⟩, ⟨4, 9, .lanes 5 [(3, 7, true), (63, 8, false)]⟩] }
     s.clocked = true ∧ after (.opResultWrite 0 1) s = s ∧ spGet 0 ((after (.opResultWrite 0 2) s).slice 0).c 3 = 9 ∧
       spGet 0 ((after (.opResultWrite 0 3) s).slice 0).a 4 = 8 ∧ (spGet (0, 0, []) (s.slice 0).vlast 5).1 ≠ (s.slice 0).cyc ∧
       ((after (.opResultWrite 0 4) s).slice 0).lane 5 3 = 7 ∧ ((after (.opResultWrite 0 4) s).slice 0).laneBad 5 3 = true ∧
       ((after (.opResultWrite 0 4) s).slice 0).lane 5 63 = 8) ∧
    (let got := (List.range 64).map fun i => (BitVec.ofNat 32 (100 + i), decide (i = 9))
     let s := running 0 0 0 fun x => { x with pend := [⟨5, 0, .zrd 6 1 0 [0, 9] false []⟩, ⟨6, 9, .zrd 7 1 0 [0, 9] false got⟩] }
     let t := after (.opResultWrite 0 6) s
     after (.opResultWrite 0 5) s = s ∧ got.length = 64 ∧ (t.slice 0).lane 7 0 = 100 ∧ (t.slice 0).lane 7 9 = 109 ∧ (t.slice 0).laneBad 7 9 = true ∧
       (t.slice 0).lane 7 1 = 0) := by decide +kernel

theorem test_transfers :
    (let s := (running 0 0 0 fun x => { x with xfers := [⟨1, .claim [⟨[1], 1, false, 1⟩], 0⟩, ⟨2, .stv 2 64 [(5, false)], 0⟩, ⟨3, .lds (.c 3) 0x20000, 0⟩,
        ⟨4, .lds (.c 3) 0x10020, 0⟩, ⟨5, .store [⟨0x10041, 6, 0, false⟩] [], 0⟩, ⟨6, .store [⟨0x20000, 6, 0, false⟩] [], 0⟩] }).poke false 0x30020 [1, 2, 3, 4]
     s.wf = true ∧ s.clocked = true ∧ (s.slice 0).run = true ∧ (s.slice 0).ctx = 4 ∧ (s.slice 0).stale = [] ∧ (∀ t ∈ (s.slice 0).xfers.take 5, (s.slice 0).xferBlocked (fun h => s.desc 4 h) t = false) ∧
       ((after (.transferComplete 0 1 false) s).slice 0).fifo = [⟨[1], 1, false, 1⟩] ∧ ((after (.transferComplete 0 2 false) s).slice 0).tb ≠ (s.slice 0).tb ∧
       s.walk 4 0x20000 = none ∧ (after (.transferComplete 0 3 false) s).f (ctxP 4) Ctx.LAST_CAUSE = 4 ∧ s.xlate 4 0x10020 = some (false, 0x30020) ∧
       spGet 0 ((after (.transferComplete 0 4 false) s).slice 0).c 3 = 0x04030201 ∧ s.xlate 4 0x10041 = some (false, 0x30041) ∧ s.syn = [] ∧
       (after (.transferComplete 0 5 false) s).peek false 0x30040 3 = [0, 6, 0]) ∧
    (let s := running 0 0 0 fun x => { x with xfers := [⟨6, .store [⟨0x20000, 6, 0, false⟩] [], 0⟩] }
     s.storeMiss 4 [⟨0x20000, 6, 0, false⟩] = some 0x20000 ∧ (s.slice 0).xferBlocked (fun h => s.desc 4 h) ⟨6, .store [⟨0x20000, 6, 0, false⟩] [], 0⟩ = false ∧
       (after (.transferComplete 0 6 false) s).f (ctxP 4) Ctx.LAST_CAUSE = 4) := by
  decide +kernel

/-- A response with lanes 0 and 2, and one request that waits for it. -/
def rsp3 : ExtRsp := { tag := 3, lanes := 5, data := [11, 12, 13], par := [bytePar 11, 0, bytePar 13], cpar := false, err := false }
def asking (d : Nat) : State := running 0 0 0 fun x => { x with ext := [{ tag := 3, op := 0xE0, lanes := 5, shapeR := 2, vd := 6, deadline := d, order := 0, bundle := 17 }] }

theorem test_extension :
    (let t := after (.extResponse 0 rsp3) (asking 10)
     (asking 10).clocked = true ∧ rsp3.cpar = parity (3 + 16 * 5) 68 ∧ ((asking 10).slice 0).ext.map (fun e => (e.required, e.tile)) = [(5, none)] ∧ (spGet (0, 0, []) ((asking 10).slice 0).vlast 6).1 ≠ ((asking 10).slice 0).cyc ∧ (t.slice 0).ext = [] ∧
       (t.slice 0).lane 6 0 = 11 ∧ (t.slice 0).lane 6 1 = 0 ∧ (t.slice 0).lane 6 2 = 13) ∧
    after (.extResponse 0 rsp3) (asking 9) = asking 9 ∧
    (∀ e ∈ [({ rsp3 with cpar := true }, 7), ({ rsp3 with tag := 4, cpar := true }, 8), ({ rsp3 with err := true }, 7), ({ rsp3 with lanes := 4, cpar := true }, 8), ({ rsp3 with par := [bytePar 11, 0, 0] }, 7)],
      (after (.extResponse 0 e.1) (asking 10)).f (ctxP 4) Ctx.LAST_CAUSE = e.2 ∧ (after (.extResponse 0 e.1) (asking 10)).f (extP 0) SlcExt.FAULT_CNT = 1) ∧
    (after (.extWatchdog 0 3) (asking 9)).f (extP 0) SlcExt.TIMEOUT_CNT = 1 ∧ (after (.extWatchdog 0 3) (asking 9)).running 4 = [] := by decide +kernel

/-! ## Programs -/

def cmd4 (id op : Nat) (len : Nat := 0) (body : List Byte := []) : Cmd :=
  { id := id, port := 0, queue := 0, ctx := 4, index := 0, opcode := op, ev := false, order := false, len := len, cookie := 0x77, objs := [], body := body }

/-- The host program waits at END; the stream program of group 0 waits at END after a tick with a fault and one without. -/
def ending (w : Wait) : State := { hosting.modSlice 0 fun x => { x with wait := some w, pc := 17 } with cmds := [{ cmd4 3 0x0C with st := .started }] }

theorem test_program_end :
    (let s := ending .finish
     let t := after (.programEnd 4) s
     s.clocked = true ∧ s.gangAt 4 (fun w => w = .finish) = true ∧ s.isStream 4 = false ∧ (s.cx 4).host.isSome = true ∧ t.running 4 = [] ∧ (t.cx 4).host = none ∧
       t.cmds.map (·.st) = [.done 0 0 0]) ∧
    (let s := (streaming.modSlice 2 fun x => { x with wait := some .finish }).setF (ctxP 0) Ctx.CONSEC 5
     let t := after (.programEnd 0) s
     s.gangAt 0 (fun w => w = .finish) = true ∧ s.isStream 0 = true ∧ (s.cx 0).tick.fault = false ∧ (t.cx 0).tick.ended = true ∧ t.f (ctxP 0) Ctx.CONSEC = 0) := by
  decide +kernel

theorem test_segment_end :
    (let s := ending .tbar
     s.wf = true ∧ s.clocked = true ∧ s.gangAt 4 (fun w => w = .segend || w = .tbar) = true ∧ (s.cx 4).host = some { cmd := 3, active := true } ∧
       s.running 4 = [0] ∧ (s.slice 0).member = 0) := by decide +kernel

/-- Context 4's program waits for slice 0 in the host window of tick 41. -/
def offering : State :=
  let s := { (ending .finish).modSlice 0 (fun _ => {}) with cmds := [{ cmd4 3 0x0C with st := .started }] }
  (s.modCx 4 fun y => { y with host := some { cmd := 3, a0 := [5, 6, 7, 8] } }).setF govP MgtGov.HOST_DUTY 8

/-- The same as the slot is offered; and with a segment done, whose record stands in memory. -/
def offered4 : State := let s := atTime offering 4903400; { s with tkg := { s.tkg with offerAt := some 4903400 } }
def resuming : State :=
  (offered4.poke false (saveAddr 4) (leBytes 2 17 ++ leBytes 4 1 ++ zeros 2 ++ leBytes 8 3 ++ zeros 48 ++ leBytes 8 77 ++ zeros 120 ++ leBytes 4 66)).modCx 4 fun y =>
    { y with host := some { cmd := 3, a0 := [5, 6, 7, 8], fresh := false, seg := 1 } }

theorem test_dispatch :
    (let s := offered4
     s.clocked = true ∧ (s.cx 4).program = some prog4 ∧ (s.cx 4).host = some { cmd := 3, a0 := [5, 6, 7, 8] } ∧ s.offering = true ∧ s.canDispatch 4 = true ∧
       s.offered 4 = true ∧ prog4.gang.Nodup ∧
       (let t := after (.hostSegmentDispatch 4) s
        t.f (ctxP 4) Ctx.RUNNING = 1 ∧ (t.slice 0).run = true ∧ (t.slice 0).pc = 16 ∧ (t.slice 0).aReg 2 = 7 ∧ t.ctxLast = 4)) ∧
    (let s := resuming
     s.clocked = true ∧ (s.cx 4).program = some prog4 ∧ s.offering = true ∧ s.canDispatch 4 = true ∧ s.offered 4 = true ∧ s.syn = [] ∧
       (let t := after (.hostSegmentDispatch 4) s
        (t.slice 0).run = true ∧ (t.slice 0).pc = 17 ∧ (t.slice 0).seg = 1 ∧ (t.slice 0).flags = 3 ∧ (t.slice 0).aReg 0 = 77 ∧ (t.slice 0).cReg 0 = 66)) := by
  decide +kernel

theorem test_halt_dump :
    (let d : Dump := { chan := 1, ctx := 4, va := 0x10040, bytes := [(1, false), (2, true)], late := false }
     let s := ctx4.modSlice 3 fun x => { x with dumps := [d] }
     let t := after (.haltDump 1) s
     s.live = true ∧ s.unmapped 4 0x10040 2 = none ∧ (∀ m, m < 16 → m ≠ 3 → (s.slice m).dumps = []) ∧ t.on plvP (Plv.HALT_DUMPED.at 1) = true ∧
       t.peek false 0x30040 2 = [1, 2]) ∧
    (let d : Dump := { chan := 1, ctx := 4, va := 0x20040, bytes := [(1, false)], late := false }
     let s := ctx4.modSlice 3 fun x => { x with dumps := [d] }
     s.unmapped 4 0x20040 1 ≠ none ∧ (after (.haltDump 1) s).on plvP (Plv.HALT_DUMP_LOST.at 1) = true) := by decide +kernel

/-! ## Queue commands -/

/-- A fetched command of context 4 waits alone. -/
def asked (s : State) (op : Nat) (len : Nat) (body : List Byte) : State := { s with cmds := [cmd4 9 op len body] }
def windows (s : State) : State := with_ s [(xlP 0, HptXlate.WIN_EN.at 0, 1), (xlP 0, HptXlate.WIN_BASE.at 0, 0), (xlP 0, HptXlate.WIN_LIMIT.at 0, 0xFF)]
def resultOf (c : Instr) (s : State) : Option CmdSt := ((after c s).findCmd 9).map (·.st)

theorem test_ready : (asked ctx4 0 1 []).ready 9 0 (cmd4 9 0 1) ∧ resultOf (.queueNop 9) (asked ctx4 0 1 []) = some (.done 0 0 0) := by
  unfold State.ready; decide +kernel

/-- OBJ_CREATE of frame 5 at 0x20000: its checks pass in linear mode; a frame in use, one in the carve-out and a range in use do not. -/
theorem test_obj_create :
    (let s := windows (asked ctx4 1 1 (leBytes 8 0x20000 ++ leBytes 8 0x4000 ++ zeros 24))
     s.wf = true ∧ s.hostOk 0 0x4000 4 = true ∧ s.createCheck 4 0x20000 1 false true (pfnsOf (leBytes 4 5) 1) = 0 ∧ s.freeObj = some 1 ∧
       resultOf (.objCreate 9 (some (leBytes 4 3))) s = some (.done 2 6 0) ∧ resultOf (.objCreate 9 (some (leBytes 4 0x7E001))) s = some (.done 2 5 0)) ∧
    (let s := windows (asked ctx4 1 1 (leBytes 8 0x10000 ++ leBytes 8 0x4000 ++ zeros 24))
     resultOf (.objCreate 9 (some (leBytes 4 5))) s = some (.done 2 3 0)) := by decide +kernel

/-- The object of frame 5 is created: its fills are under way, and another creation waits; the last fill ends the command. -/
def creating : State := after (.objCreate 9 (some (leBytes 4 5))) (windows (asked ctx4 1 1 (leBytes 8 0x20000 ++ leBytes 8 0x4000 ++ zeros 24)))
def lastFill : BuCmd := { cmd8 2 .running [{ part3 with fin := true, started := true }] with issuer := .hib 1 }
def filled : State := { creating with bus := [lastFill], hib := { creating.hib with jobs := [{ obj := 1, why := .create 9, bank := false, next := 64 }] } }

theorem test_obj_fills :
    (let s := creating
     s.creating = true ∧ (s.findCmd 9).map (·.st) = some .started ∧ (spGet {} s.objInfo 1).frames = [5] ∧ s.hib.jobs.map (fun j => (j.obj, j.next)) = [(1, 64)] ∧
       s.bus.length = 64 ∧ (s.bus.head?).map (fun c => (c.op, c.count, c.parts.length, c.issuer)) = some (2, 8, 4, .hib 1) ∧
       (let u := { s with cmds := s.cmds ++ [{ cmd4 10 1 1 (leBytes 8 0x40000 ++ leBytes 8 0x4000 ++ zeros 24) with port := 0 }] }
        after (.objCreate 10 (some (leBytes 4 6))) u = u)) ∧
    (let s := filled
     let t := after (.buCommandComplete 8) s
     s.wf = true ∧ s.clocked = true ∧ s.findBu 8 = some lastFill ∧ lastFill.ready = true ∧ (∀ d ∈ s.bus, d.issuer = .hib 1 → d.id = 8) ∧
       (s.hib.jobs.all fun j => decide (s.jobFills j ≤ j.next)) = true ∧ (t.findCmd 9).map (·.st) = some (.done 0 0 1) ∧ t.refs 1 = 1 ∧ t.hib.jobs = []) := by
  decide +kernel

theorem test_obj_import :
    (let s := asked (ctx4.setObj 0 { ctxs := 2 ^ 5, va := 0x20000, count := 1, bank := false, owner := 5, key := 7, cookie := 9 }) 2 1
       (leBytes 2 0 ++ zeros 18 ++ leBytes 4 7 ++ zeros 16)
     s.importCheck 4 0 7 = 0) ∧ resultOf (.objImport 9) (asked ctx4 2 1 (leBytes 2 0 ++ zeros 18 ++ leBytes 4 8 ++ zeros 16)) = some (.done 2 0xA 0) := by
  decide +kernel

theorem test_obj_unmap :
    (let s := asked ctx4 3 1 (zeros 40)
     s.maps 4 0 = true ∧ (∀ d ∈ s.cmds, d.id ≠ 9 → d.ctx = 4 → 0 ∉ d.refs) ∧ s.spannedBy 4 0 = false ∧
       resultOf (.objUnmap 9) (asked ctx4 3 1 (leBytes 40 1)) = some (.done 2 9 0) ∧
       resultOf (.objUnmap 9) { s with cmds := s.cmds ++ [{ cmd4 10 0 1 with objs := [0], refs := [0] }] } = some (.done 2 0xB 0)) := by decide +kernel

/-- A descriptor over 32 bytes of memory at 0x10040, in INT8. -/
def desc1 : List Byte := leBytes 8 (0x10040 ||| 1 <<< 43) ++ leBytes 4 32 ++ leBytes 4 1 ++ leBytes 4 0x10001 ++ zeros 12 ++ leBytes 4 0x10020 ++ zeros 28

theorem test_desc_write :
    (let s := windows (asked ctx4 4 1 (leBytes 8 0x4000 ++ leBytes 2 7 ++ zeros 30))
     s.wf = true ∧ s.hostOk 0 0x4000 64 = true ∧ s.descCheck 4 7 (Desc.ofBytes desc1) = 0 ∧ resultOf (.descWrite 9 (some desc1)) s = some (.done 0 0 0) ∧
       (after (.descWrite 9 (some desc1)) s).desc 4 7 = Desc.ofBytes desc1 ∧
       resultOf (.descWrite 9 (some (leBytes 64 (0x10040 ||| 7 <<< 43)))) s = some (.done 2 1 7)) ∧
    resultOf (.descWrite 9 (some [])) (asked ctx4 4 2 (leBytes 8 0 ++ leBytes 2 1023 ++ zeros 30)) = some (.done 2 0xC 0) := by decide +kernel

/-- A command of 32 bytes from 0x10080 to 0x10040, in frame 3 in bank mode. -/
def buAsked (op : Nat) (dst : Nat := 0x10040) : State :=
  asked ((ctx4.setF carveP (GlbCarve.ZONE_VIEW.at 0) 1).mapPage 4 0x10000 { bank := true, pfn := 3, obj := 0 }) 5 1
    ([BitVec.ofNat 8 op, 0, 0, 0] ++ leBytes 4 0x11111111 ++ leBytes 8 0x10080 ++ leBytes 8 dst ++ zeros 16)

theorem test_bu_cmd :
    (buAsked 2).bankSpan 4 0x10040 32 = some 0x6000040 ∧ (buAsked 3).bankSpan 4 0x10080 32 = some 0x6000080 ∧
    ([2, 3, 4].all fun op => (after (.buCmd 9) (buAsked op)).bus.map (fun c => (c.op, c.srcOff, c.dstOff, c.word3, c.st)) =
      [(op, if op = 2 then 0 else 0x80, 0x40, 0x11111111, .queued)]) = true ∧
    ([0, 2, 3, 4, 9].all fun op => resultOf (.buCmd 9) (buAsked op) = some .started) = true ∧
    (after (.buCmd 9) (buAsked 0)).bus.map (fun c => c.parts.map (·.fin)) = [[true]] ∧ (after (.buCmd 9) (buAsked 9)).bus.map (·.status) = [0x16] ∧
    resultOf (.buCmd 9) (buAsked 3 0x20040) = some (.done 2 0xD 0) ∧
    (let l := (List.range 16).map fun i => { cmd8 2 .queued [{ part3 with slot := i }] with id := 100 + i, chan := 0 }
     let s : State := { buAsked 2 with bus := l }
     (∀ i, i < 16 → i ∈ s.slotsUsed (buKey 0 0 3)) ∧ after (.buCmd 9) s = s) := by decide +kernel

theorem test_query :
    (let s := windows (asked ctx4 0x14 8 (leBytes 8 0x4000 ++ zeros 32))
     s.hostOk 0 0x4000 8 = true ∧ (after (.query 9) s).out = [.hostWrite 0 0x4000 (leBytes 8 5000000)] ∧ resultOf (.query 9) s = some (.done 0 0 0)) ∧
    (let s := windows (asked ctx4 0x14 129 (leBytes 8 0x4000 ++ zeros 32))
     s.hostOk 0 0x4000 129 = true ∧ resultOf (.query 9) s = some (.done 2 0xD 0)) := by decide +kernel

theorem test_run_and_release :
    (let s := asked run4 0xC 1 (leBytes 8 5 ++ zeros 32)
     (s.cx 4).program = some prog4 ∧ (s.cx 4).host = none ∧ resultOf (.progRun 9) s = some .started ∧
       ((after (.progRun 9) s).cx 4).host = some { cmd := 9, a0 := [5, 0, 0, 0] }) ∧
    (ctx4.cx 4).program = none ∧ resultOf (.progRun 9) (asked ctx4 0xC 1 (zeros 40)) = some (.done 2 raNoProgram 0) ∧
    resultOf (.release 9) (asked ctx4 0xB 1 (zeros 40)) = some (.done 2 raNoProgram 0) ∧
    resultOf (.release 9) (asked run4 0xB 1 (zeros 40)) = some (.done 0 0 0) ∧ ((after (.release 9) (asked run4 0xB 1 (zeros 40))).cx 4).program = none ∧
    (let s := asked (run4.modCx 4 fun y => { y with host := some { cmd := 3 } }) 0xB 1 (zeros 40)
     let t := after (.release 9) s
     (t.findCmd 9).map (·.st) = some .started ∧ resultOf (.release 9) (t.modCx 4 fun y => { y with host := none }) = some (.done 0 0 0)) ∧
    (let s : State := { stream0 with cmds := [{ cmd4 9 0xB 1 (zeros 40) with ctx := 0 }] }
     s.attached 0 = true ∧ resultOf (.release 9) s = some (.done 2 raAttached 0)) := by
  decide +kernel

/-- A micro-program that runs, or does not, or is none; and a routine that is called, or is not (R304). -/
theorem test_release_code :
    (let g : Uprog := { ctx := 4, base := 0x20, count := 8, stackMask := 1, chans := 2, banks := 8, bounds := [], cost := 0, words := [] }
     let s := asked ctx4 0xB 1 ([1, 0, 0, 0] ++ leBytes 4 0x20 ++ leBytes 4 1 ++ leBytes 2 2 ++ leBytes 2 8 ++ zeros 24)
     let u : State := { s with plv := { s.plv with uprogs := [g] } }
     let v : State := { u with bus := [{ cmd8 5 .running [part3] with entry := 0x20 }] }
     resultOf (.release 9) s = some (.done 2 raNoProgram 0) ∧ u.uprogBusy g = false ∧ (after (.release 9) u).plv.uprogs = [] ∧ v.uprogBusy g = true ∧
       resultOf (.release 9) v = some .started) ∧
    (let r : Routine := { idx := 3, base := 8192, count := 1, entry := 0, slices := 1, bounds := [], cert := 5 }
     let s := asked run4 0xB 1 ([2, 0, 0, 0] ++ leBytes 4 3 ++ leBytes 4 1 ++ zeros 28)
     let u : State := { s with plv := { s.plv with routines := [r] } }
     let v := u.modCx 4 fun y => { y with program := some { prog4 with calls := 8 } }
     resultOf (.release 9) s = some (.done 2 raNoProgram 0) ∧ u.calls 3 = false ∧ (after (.release 9) u).plv.routines = [] ∧ v.calls 3 = true ∧
       resultOf (.release 9) v = some (.done 2 0xB 0)) := by decide +kernel

/-- Group 1 has lanes, a program and slots inside an object; group 0 is attached. -/
theorem test_attach :
    (let p : Program := { prog4 with stream := true, gang := [2], objs := [0] }
     let s := (asked stream0 0x11 1 (leBytes 40 1)).modCx 1 fun y => { y with program := some p, l1 := some 0 }
     let s := s.setObj 0 { ctxs := 2, va := 0x10000, count := 3, bank := false, owner := 1, key := 7, cookie := 9 }
     let s : State := { s with objInfo := [(0, { gen := 0, frames := [3, 4, 5] })] }
     let s := (s.poke false (tableAddr 0 0) (leBytes 8 3)).poke false (tableAddr 1 1) (leBytes 8 (1 + 3 * 4) ++ leBytes 8 (1 + 4 * 4) ++ leBytes 8 (1 + 5 * 4))
     let s := with_ s [(ctxP 1, Ctx.STATE, 1), (ctxP 1, Ctx.STREAM, 1), (grpP 1, SibGrp.SLOTS, 2), (grpP 1, SibGrp.SLOT_UNITS, 1), (grpP 1, SibGrp.RX_MASK, 1),
       (grpP 1, SibGrp.BUF_VA, 1)]
     s.attachCheck 1 = 0 ∧ resultOf (.streamAttach 9) s = some .started ∧ ((after (.streamAttach 9) s).grp 1).attachCmd = [9]) ∧
    (let s := asked stream0 0x11 1 (zeros 40)
     s.attachCheck 0 = raAttached ∧ resultOf (.streamAttach 9) s = some (.done 2 raAttached 0)) ∧
    (let s := asked stream0 0x12 1 (zeros 40)
     s.attached 0 = true ∧ (s.grp 0).detachCmd = none ∧ resultOf (.streamDetach 9) s = some .started) ∧
    (let s := asked ctx4 0x12 1 (zeros 40)
     s.attached 0 = false ∧ resultOf (.streamDetach 9) s = some (.done 0 0 0)) := by decide +kernel

theorem test_fabric_load :
    (let s := asked ctx4 0x10 1 (leBytes 40 0x20000)
     let t := after (.fabricLoad 9) s
     s.wf = true ∧ s.walk 4 0x20000 = none ∧ s.on glbP GlbCtrl.LOADING = false ∧ (∀ i, i < 64 → (s.cx i).program = none) ∧
       (∀ g, g < 4 → s.attached g = false ∧ (s.grp g).attachCmd = []) ∧ (t.findCmd 9).map (·.st) = some .started ∧ t.on glbP GlbCtrl.LOADING = true ∧
       t.isBusy (seqP 15) = true ∧ resultOf (.fabricLoad 9) (asked run4 0x10 1 (leBytes 40 0x20000)) = some (.done 0xA 0 0)) ∧
    (let s := asked ctx4 0x10 1 (leBytes 40 0x10000)
     let t := after (.fabricLoad 9) s
     let u := s.setRefs 0 (s.refs 0 + 65535 * 2 ^ 48)
     s.objOf 4 0x10000 = [0] ∧ s.refsFit [0] = true ∧ refDev (s.refs 0) = 0 ∧ t.refs 0 = s.refs 0 + 2 ^ 48 ∧ u.refsFit [0] = false ∧
       after (.fabricLoad 9) u = u) := by decide +kernel

/-- A pattern package of one item, signed with the key of RFC 8032's form whose seed is the bytes 0 to 31. -/
def package1 : List Byte :=
  leBytes 64 0xB83155126486DC1D5F0DA59B30D6E46799C04BE718DD701DBE10CEF3BF07A10300000000000000010000000000000005000A0001000005500000000154415056 ++
  leBytes 16 0x101000101 ++ List.replicate 1216 0 ++
  leBytes 64 0x8E2ABB5B594C5A790014BCAFDB9D6C506A55602CA45FE84DFBD3DC455D3A23FCEF16C53FC3D4BA5DA6F7C32BD525BE8905D4325EA82E1C2CB125CC3F686AAB7

/-- The package lies at 0x10000 of context 4's addresses, and key slot 0 is fused to its key. -/
def packaged : State :=
  let f : Fuses := { patProgrammed := 1, patHash := [leBytes 32 0x8C7007B1EAB28174B7E939883551A63DB7CA2BBF5DDF85024C476354A75A4756] }
  { ctx4.poke false 0x30000 package1 with fuses := f, cmds := [cmd4 9 0x13 1360 (leBytes 40 0x10000)] }

theorem test_pattern_load : packaged.packageCheck package1 1360 = 0 ∧ packaged.ready 9 0x13 (cmd4 9 0x13 1360 (leBytes 40 0x10000)) ∧
    packaged.objOf 4 0x10000 = [0] ∧ packaged.refsFit [0] = true ∧ (packaged.takeRefs [0]).bytesAt 4 0x10000 package1 := by
  refine ⟨?_, ?_, ?_, ?_, ?_, fun e _ => (clean_states _ ?_).2.1 _ _, ?_, ?_⟩ <;> (try unfold State.ready) <;> decide +kernel

theorem test_pattern_refused :
    (let s := asked ctx4 0x13 128 (leBytes 40 0x10000)
     s.packageCheck (zeros 128) 128 = 0x40 ∧ (s.takeRefs [0]).unmapped 4 0x10000 128 = none ∧ (s.takeRefs [0]).syn = [] ∧
       (s.takeRefs [0]).peek false 0x30000 128 = zeros 128 ∧ resultOf (.patternLoad 9) s = some (.done 2 0x40 0) ∧
       (let u := s.setRefs 0 (65535 * 2 ^ 48)
        u.refsFit [0] = false ∧ after (.patternLoad 9) u = u)) ∧
    (let s := asked ctx4 0x13 128 (leBytes 40 0x20000)
     s.objOf 4 0x20000 = [] ∧ (s.takeRefs []).unmapped 4 0x20000 128 ≠ none ∧ resultOf (.patternLoad 9) s = some (.done 2 0x40 0)) := by decide +kernel

/-- Images: a micro-program of one END; a host program of one bundle, END beside a load slot; a routine of one RET, of index 3. -/
def uimage1 : List Byte := leBytes 4 0x4D504B52 ++ leBytes 2 1 ++ zeros 10 ++ leBytes 8 (1 <<< 58)
def image1 (kind idx segs : Nat) (w : BitVec 256) : List Byte :=
  leBytes 4 0x4B524C4E ++ leBytes 2 kind ++ leBytes 2 1 ++ leBytes 2 0 ++ leBytes 1 1 ++ leBytes 1 idx ++ leBytes 4 segs ++ zeros 16 ++ leBytes 32 w.toNat ++ zeros 4
def endWith (ld : Nat) : BitVec 256 := bundleOf 0 0 ld ||| BitVec.ofNat 256 (1 <<< 224)

/-- The PLV holds an admission of an image at 0x10000 of context 4's addresses; slice 0 holds an engine, and the windows are wide. -/
def verifying (op : Nat) (l : List Byte) (n : Nat := l.length) : State :=
  let s := with_ (ctx4.poke false 0x30000 l) [(glbP, GlbCtrl.LOADED, 1), (⟨.devCap, 0, 0⟩, DevCap.ENGINE_SLICE_MASK, 1), (qdbP 0, Qdb.VALIDATED, 1),
    (winP, TkgWin.HOST_CERT_NS, 100000)]
  { s with plv := { s.plv with queue := [9] },
           cmds := [{ cmd4 9 op n (leBytes 8 0x10000 ++ leBytes 2 1 ++ zeros 2 ++ leBytes 2 2 ++ leBytes 2 8 ++ zeros 24) with st := .started }] }
def verdict (s : State) : Option CmdSt := resultOf .admissionComplete s

theorem test_admissions :
    ([(Instr.admitProgram 9, 8), (.admitUprog 9, 9), (.admitRoutine 9, 10)].all fun e =>
      let s := asked ctx4 e.2 1 (leBytes 40 0x20000)
      let u := (asked ctx4 e.2 1 (leBytes 40 0x10000)).setRefs 0 (65535 * 2 ^ 48)
      decide ((after e.1 s).plv.queue = [9]) && resultOf e.1 s = some .started && !u.refsFit [0] && decide (after e.1 u = u)) = true ∧
    (let s : State := { (asked ctx4 8 1024 (leBytes 8 0x20000 ++ zeros 32)) with plv := { ctx4.plv with queue := [9] } }
     s.live = true ∧ s.plv.reverify = [] ∧ verdict s = some (.done 2 1 0) ∧ (after .admissionComplete s).f plvP Plv.REJECTED = 1 ∧
       (after .admissionComplete s).f plvP Plv.LAST_CODE = 1) ∧
    verdict (verifying 9 (zeros 24)) = some (.done 2 2 0) ∧ verdict (verifying 8 (zeros 68)) = some (.done 2 2 0) ∧
    (let s := verifying 9 uimage1
     verdict s = some (.done 0 0 0) ∧ (after .admissionComplete s).plv.uprogs.map (fun u => (u.base, u.count, u.chans, u.banks)) = [(0, 1, 2, 8)]) ∧
    (let s := verifying 10 (image1 2 3 0 (bundleOf 0x24))
     verdict s = some (.done 0 0 8192) ∧ (after .admissionComplete s).plv.routines.map (fun r => (r.idx, r.base, r.count, r.slices)) = [(3, 8192, 1, 1)]) := by
  decide +kernel

/-- A host program is admitted where it fits; without an engine there is no gang, and with an object at its greatest count it waits. -/
theorem test_admit_program :
    (let s := verifying 8 (image1 1 0 1 (endWith 0))
     verdict s = some (.done 0 0 0) ∧ ((after .admissionComplete s).cx 4).program.map (fun p => (p.gang, p.base, p.count, p.stream)) = some ([0], 0, 1, false) ∧
       verdict (s.setF ⟨.devCap, 0, 0⟩ DevCap.ENGINE_SLICE_MASK 0) = some (.done 2 0x19 0)) ∧
    (let s := (verifying 8 (image1 1 0 1 (endWith (3 + 7 * 16 + 16 * 2 ^ 14)))).poke false (descAddr 4 7) desc1
     ((after .admissionComplete s).cx 4).program.map (·.objs) = some [0] ∧
       (let u := s.setRefs 0 (65535 * 2 ^ 48)
        u.refsFit [0] = false ∧ verdict u = some .started)) := by decide +kernel

/-- An entry for a NOP with an event: it is fetched from host address 0x10000, executed, and its event is kept and delivered. -/
theorem test_entries :
    (let e := [0x00, 0x01, 0, 0] ++ leBytes 4 1 ++ leBytes 8 0x77 ++ zeros 48
     let s := with_ (windows ctx4) [(qdbP 0, Qdb.TAIL, 1), (ctxP 4, Ctx.EVQ_LOG2, 4), (ctxP 4, Ctx.EVQ_BASE, 0x20)]
     let t := after (.entryFetch 0 0 (some e)) s
     s.hasEntry 0 0 = true ∧ s.nextFetch = (some (0, 0), []) ∧ s.hostOk 0 (spGet 0 s.hib.rings 0) 64 = true ∧ t.f (qdbP 0) Qdb.HEAD = 1 ∧
       t.cmds.map (fun c => (c.ev, c.cookie, c.st)) = [(true, 0x77, .fetched)] ∧
       (let u := after (.queueNop 0) t
        let v := after (.commandComplete 0) u
        u.wf = true ∧ (u.cx 4).lostEv = 0 ∧ v.cmds = [] ∧ v.f (ctxP 4) Ctx.EV_BACKLOG = 1 ∧ v.evRing 4 = some 4 ∧ v.portUp 0 = true ∧ v.hostOk 0 0x20000 16 = true ∧ v.live = true ∧ v.ctxState 4 ≠ stTear ∧ v.syn = [] ∧
          (after (.eventDelivery 4) v).f (ctxP 4) Ctx.EV_BACKLOG = 0 ∧ (after (.eventDelivery 4) v).out.length = 1) ∧
       (after (.commandComplete 9) { asked ctx4 0 1 [] with cmds := [{ cmd4 9 0 1 with st := .done 0 0 0 }] }).cmds = []) ∧
    (let s := ctx4.setF (qdbP 0) Qdb.TAIL 1
     s.hasEntry 0 0 = true ∧ s.nextFetch = (some (0, 0), []) ∧ s.hostOk 0 (spGet 0 s.hib.rings 0) 64 = false ∧
       (after (.entryFetch 0 0 (some [])) s).on (qdbP 0) Qdb.FETCH_ERR = true) := by decide +kernel

/-- A command with `LEN` 0 leaves once it may start; one that waits for an earlier one of its queue stays (R303, R306). -/
theorem test_zero_length :
    (let s : State := { ctx4 with cmds := [cmd4 9 0] }
     s.mayStart (cmd4 9 0) = true ∧ s.ctxState 4 ≠ stDead ∧ (after (.commandComplete 9) s).cmds = []) ∧
    (let c := { cmd4 9 0 with order := true, index := 1 }
     let s : State := { ctx4 with cmds := [{ cmd4 8 0 1 with st := .started }, c] }
     s.findCmd 9 = some c ∧ s.mayStart c = false ∧ after (.commandComplete 9) s = s ∧ after (.commandComplete 8) s = s) := by decide +kernel

/-! ## Ports and contexts -/

/-- Context 4's port is being torn down, in a tick that began after the loss; `reset4` is a reset of its slot alone. -/
def lost0 (why : Loss := .linkDown) : State := after (.portLoss 0 why) { ctx4 with cmds := [cmd4 9 0] }
def reset4 : State := after (.contextReset (.port 0) 4) ctx4
def later (s : State) : State := { s with time := 6000000, tkg := { ticking.tkg with edgeAt := 5900000 } }.setF srcP TkgSrc.RUNNING 1

theorem test_port_loss : ctx4.on (linkP 0) HptLink.UP = true ∧ ctx4.on (linkP 0) HptLink.TEARDOWN_BUSY = false ∧ ctx4.portCtxs 0 = [4] ∧
    (lost0).on (linkP 0) HptLink.UP = false ∧ (lost0 .flr).on (linkP 0) HptLink.UP = true ∧ (lost0 .flr).f (linkP 0) HptLink.FLR_CNT = 1 ∧
    (lost0).f (linkP 0) HptLink.DOWN_CNT = 1 ∧ (lost0).ctxState 4 = stTear ∧ (lost0).cmds = [] ∧ (lost0).admin = 0 := by decide +kernel

theorem test_link :
    (after (.powerStateChange 0 true) up).pins.d3hot = [true, false, false, false] ∧ (after (.perstRelease 2) up).pins.perst = [false, false, true, false] ∧
    (let s := after (.perstRelease 0) (up.setB (linkP 0) HptLink.UP false)
     s.live = true ∧ s.power.locked = true ∧ s.pins.perst.getD 0 false = true ∧ s.pins.clkGone.testBit 4 = false ∧ s.portWidth 0 = 16 ∧
       s.on (linkP 0) HptLink.UP = false ∧ (after (.linkUp 0 5) s).f (linkP 0) HptLink.RATE = 5 ∧ (after (.linkUp 0 5) s).f (linkP 0) HptLink.WIDTH = 16) := by
  decide +kernel

/-- The port's contexts are torn, and its slot alone; and the same with a command that has not completed. -/
def torn0 : State := ((later lost0).setPort 0 { since := some 5000000, torn := true }).modCx 4 fun y => { y with torn := true }
def torn4 : State := up.modCx 4 fun y => { y with torn := true }
def busy4 (s : State) : State := { s with cmds := [{ cmd4 9 0x13 1 with st := .started }] }

theorem test_teardown_of_a_port :
    (later lost0).live = true ∧ ((later lost0).port 0).since = some 5000000 ∧ ((later lost0).port 0).torn = false ∧ (later lost0).tearDue 5000000 = true ∧
    (later lost0).tearCtxs 0 = [4] ∧ torn0.live = true ∧ (torn0.port 0).torn = true ∧ torn0.quietCmds (torn0.tearCtxs 0) = true ∧
    (after (.teardownDone (.port 0)) torn0).ctxState 4 = stFree ∧ (busy4 torn0).quietCmds ((busy4 torn0).tearCtxs 0) = false ∧
    (after (.teardownDone (.port 0)) (busy4 torn0)).ctxState 4 = stTear := by decide +kernel

theorem test_teardown_of_a_slot :
    ((later reset4).cx 4).tear = some 5000000 ∧ ((later reset4).cx 4).torn = false ∧
    (later reset4).on (linkP ((later reset4).ctxPort 4)) HptLink.TEARDOWN_BUSY = false ∧ (later reset4).tearDue 5000000 = true ∧
    torn4.live = true ∧ (torn4.cx 4).torn = true ∧ torn4.on (linkP (torn4.ctxPort 4)) HptLink.TEARDOWN_BUSY = false ∧ (torn4.cx 4).tearRelease = false ∧
    torn4.quietCmds [4] = true ∧ (after (.teardownDone (.slot 4)) torn4).ctxState 4 = stLive ∧ (busy4 torn4).quietCmds [4] = false ∧
    after (.teardownDone (.slot 4)) (busy4 torn4) = busy4 torn4 := by decide +kernel

/-! ## The stream link -/

/-- Lane 3 belongs to group 0, which has opened frame 41; its two slots of 64 KiB lie at 0x10000, of which the second is mapped. -/
def receiving (m : RxMode) (h : Option (Nat × Nat) := some (4, 5000000)) : State :=
  let s := with_ stream0 [(rxP, SibRx.RX_EN.at 3, 1), (rxP, SibRx.BLOCK_LOCK.at 3, 1), (grpP 0, SibGrp.RX_MASK, 8), (grpP 0, SibGrp.GROUP_ALIGNED, 1),
    (grpP 0, SibGrp.SLOTS, 2), (grpP 0, SibGrp.SLOT_UNITS, 1), (grpP 0, SibGrp.BUF_VA, 0)]
  let s := ((s.modCx 0 fun y => { y with l1 := some 0 }).poke false (tableAddr 0 0) (leBytes 8 3)).poke false (tableAddr 1 1) (leBytes 8 (1 + 3 * 4))
  s.modGrp 0 fun g => { g with frame := { open_ := true, tick := 41, header := h, mode := m } }

def frameOf0 (s : State) : Frame := (s.grp 0).frame
def checked (p : Nat) : BitVec 56 := BitVec.ofNat 56 (p ||| (crc32c (leBytes 6 p) % 256) <<< 48)

def lane3 (s : State) (f : Lane → Lane) : State := s.modLane 3 f

theorem test_lanes :
    (receiving .idle).live = true ∧ (receiving .idle).rxRuns 3 = true ∧
    (let s := lane3 ((receiving .idle).setB rxP (SibRx.BLOCK_LOCK.at 3) false) fun x => { x with window := List.replicate 64 true }
     (after (.blockLock 3) s).on rxP (SibRx.BLOCK_LOCK.at 3) = true) ∧
    (let s := lane3 ((receiving .idle).setB rxP (SibRx.BLOCK_LOCK.at 3) false) fun x => { x with window := false :: List.replicate 63 true }
     after (.blockLock 3) s = s) ∧
    (after (.invalidSyncHeader 3) (receiving .idle)).f rxP (SibRx.SYNC_ERR_CNT.at 3) = 1 ∧
    (after (.invalidSyncHeader 3) (receiving .idle)).on rxP (SibRx.BLOCK_LOCK.at 3) = true ∧
    (after (.invalidSyncHeader 3) (lane3 (receiving .idle) fun x => { x with window := List.replicate 15 false })).on rxP (SibRx.BLOCK_LOCK.at 3) = false := by
  decide +kernel

def align (m : Nat) : BitVec 56 := BitVec.ofNat 56 (0x3C96A5 <<< 32 ||| m <<< 16 ||| 1 <<< 5)
def aligned3 (f : Lane → Lane := id) : State := lane3 ((receiving .idle).setB rxP (SibRx.ALIGNED.at 3) true) f

/-- A first ALIGN block sets the place of the next; the next, in its place and with the next count, aligns the lane; one out of its place changes
nothing; and two that did not come end the alignment (R327). -/
theorem test_align :
    (let t := after (.rxAlignBlock 3 (align 7)) (receiving .idle)
     t.rxAligned 3 = false ∧ (t.lane 3).marker = some 7 ∧ (t.lane 3).lanes = 1) ∧
    (let s := lane3 (receiving .idle) fun x => { x with marker := some 0xFFFF, since := 16383 }
     (s.lane 3).due = true ∧ (after (.rxAlignBlock 3 (align 0)) s).rxAligned 3 = true ∧ (after (.rxAlignBlock 3 (align 1)) s).rxAligned 3 = false) ∧
    (let s := aligned3 fun x => { x with marker := some 5, since := 9 }
     s.rxAligned 3 = true ∧ (s.lane 3).due = false ∧ ((after (.rxAlignBlock 3 (align 6)) s).lane 3).marker = some 5) ∧
    (after (.alignMissed 3) (aligned3 fun x => { x with missed := 2 })).rxAligned 3 = false ∧
    (aligned3 fun x => { x with missed := 1 }).rxAligned 3 = true ∧
    after (.alignMissed 3) (aligned3 fun x => { x with missed := 1 }) = aligned3 fun x => { x with missed := 1 } := by decide +kernel

theorem test_at_lane : (receiving .idle).atLane 3 0 ∧ (receiving .idle).wf = true := by unfold State.atLane; decide +kernel

theorem test_frame_blocks :
    (let p := checked (41 ||| 4 <<< 40)
     let s := receiving .idle none
     checkOk p.toNat = true ∧ fld p.toNat 39 0 = (frameOf0 s).tick % 2 ^ 40 ∧ (frameOf0 (after (.rxFrameBlock 3 p) s)).header = some (4, 5000000)) ∧
    (let p := checked (2 ||| 3 <<< 16 ||| 1 <<< 24)
     let s := receiving .idle
     checkOk p.toNat = true ∧ s.slotBytes 0 = 65536 ∧ (frameOf0 (after (.rxSegBlock 3 p) s)).mode = .seg { idx := 3, len := 2, off := 1, got := 0, data := [] }) ∧
    (after (.rxReservedBlock 3 0x77) (receiving .idle)).f (grpP 0) SibGrp.CTRL_ERR = 1 ∧
    ((after (.rxIdleBlock 3) (receiving .idle)).lane 3).window = [true] := by decide +kernel

theorem test_data_blocks :
    (let s := receiving (.seg { idx := 3, len := 1, off := 1, got := 0, data := [] })
     let t := after (.rxDataBlock 3 0x0807060504030201) s
     s.syn = [] ∧ s.xlate 0 (s.slotVa 0 41 + 8) = some (false, 0x30008) ∧ t.peek false 0x30007 10 = [0, 1, 2, 3, 4, 5, 6, 7, 8, 0] ∧
       (let u := after (.rxSegEndBlock 3 (BitVec.ofNat 56 (1 <<< 32 ||| crc32c [1, 2, 3, 4, 5, 6, 7, 8]))) t
        u.f (grpP 0) SibGrp.SEG_GOOD = 1 ∧ (frameOf0 u).bytes = 8 ∧ (frameOf0 u).mode = .idle) ∧
       (let u := after (.rxSegEndBlock 3 (BitVec.ofNat 56 (1 <<< 32))) t
        u.f (grpP 0) SibGrp.SEG_CRC = 1 ∧ (frameOf0 u).bad = 1)) := by decide +kernel

/-- At the output moment line 2 takes bit 5 of group 0's word, inverted; a pulse on it ends at `INVERT`. -/
theorem test_outputs :
    (let pins : Pins := { ticking.pins with trigAct := [0, 0, 1 ||| 2 ||| 5 <<< 4] }
     let s : State := { ticking with pins := pins, tkg := { ticking.tkg with decDue := some 4900100 } }
     let s := (s.setF txP (SibTx.TX_EN.at 2) 1).modGrp 0 fun g => { g with deciding := some (41, 0xF), txAct := [2] }
     let t := after .decisionOutput s
     s.live = true ∧ s.pins.trig.length = 16 ∧ s.trigCfg 2 = (true, true, 0, 5, false) ∧ (t.pins.trig[2]?).map (·.level) = some .high ∧ t.tkg.decDue = none ∧ s.strefGone 0 = false ∧
       t.out.map (fun o => match o with | .txBlocks g l b _ => (g, l, b.length, b == decisionBlocks 41 0xF) | _ => (9, [], 0, false)) = [(0, [2, 2, 2, 2], 4, true)]) ∧
    (let pins : Pins := { ticking.pins with trigAct := [0, 0, 1 ||| 2 ||| 5 <<< 4], trig := mapAt ticking.pins.trig 2 fun _ => { level := .low, pulseEnd := some 4999999 } }
     let s : State := { ticking with pins := pins }
     s.pins.trig[2]?.bind (·.pulseEnd) = some 4999999 ∧ ((after (.trigPulseEnd 2) s).pins.trig[2]?).map (·.level) = some .high) := by decide +kernel

/-! ## Sensors and the governor -/

/-- Every sensor at 20 °C but the last, which reads `t` eighths of a degree; `i` tenths of an ampere on VDD_CORE. -/
def sample (t : Int) (i : Nat := 0) : Sample :=
  { temps := List.replicate 40 160 ++ [t], milliVolts := List.replicate 7 850, vccio := List.replicate 8 1800, deciAmps := i :: List.replicate 6 0, deciWatts := 5 }

/-- A state of the governor: temperature, clock, and duties. -/
def governed (t clk bu host : Nat) : State :=
  with_ ticking [(senseP, MgtSense.TEMP_MAX, t), (govP, MgtGov.CLK_MHZ, clk), (govP, MgtGov.BU_DUTY, bu), (govP, MgtGov.HOST_DUTY, host)]

theorem test_samples : (∀ v ∈ (sample 840).temps, -32768 ≤ v ∧ v < 32768) ∧
    (let t := after (.sensorSample (sample 840)) up
     up.live = true ∧ t.hottest = 840 ∧ t.on govP MgtGov.PROTECT = true ∧ t.f govP MgtGov.CLK_MHZ = 450 ∧ t.f senseP (MgtSense.TEMP.at 3) = 160 ∧
       (let u := after (.sensorSample (sample 799)) (up.setB govP MgtGov.PROTECT true)
        u.hottest = 799 ∧ u.iCore < u.coreThrottle ∧ u.iBu < u.buThrottle ∧ u.on govP MgtGov.PROTECT = false)) ∧
    (let t := after (.sensorSample (sample 880)) up
     t.gov.tripStopped = true ∧ t.on limP MgtLimit.TRIPPED = true) ∧
    (let t := after (.sensorSample (sample (-32768) 0xC80)) up
     t.coreLimit ≤ t.iCore ∧ t.on govP MgtGov.PROTECT = true ∧ t.hottest = 160) ∧
    (let t := after (.sensorSample (sample 840)) cold
     cold.live = false ∧ t.hottest = 840 ∧ t.on govP MgtGov.PROTECT = false) := by decide +kernel

/-- The steps of R355: clock, bank-unit duty, host duty down; host duty and clock up; neither between the thresholds. -/
theorem test_governor :
    (let s := governed 760 600 100 8
     s.live = true ∧ s.gov.evalAt ≤ s.time ∧ s.on govP MgtGov.PROTECT = false ∧ s.throttles = true ∧ s.floorMhz < 600 ∧
       (after .governorEvaluation s).gov.clkGoal = some 590 ∧ (after .governorEvaluation s).on govP MgtGov.THROTTLE = true) ∧
    (let s := governed 760 (governed 0 0 0 0).floorMhz 100 8
     s.ticking = true ∧ s.dutyMin < 100 ∧ (after .governorEvaluation s).gov.pendBuDuty = some 95) ∧
    (let s := governed 760 (governed 0 0 0 0).floorMhz (governed 0 0 0 0).dutyMin 8
     (after .governorEvaluation s).gov.pendHostDuty = some 7) ∧
    (let s := governed 736 900 100 5
     s.throttles = false ∧ s.releases = true ∧ (after .governorEvaluation s).gov.pendHostDuty = some 6) ∧
    (let s := governed 736 595 100 8
     595 < s.targetMhz ∧ (after .governorEvaluation s).gov.clkGoal = some 600) ∧
    (let s := governed 750 900 100 8
     s.throttles = false ∧ s.releases = false ∧ (after .governorEvaluation s).gov.clkGoal = none) := by decide +kernel

theorem test_clock_steps :
    ([(900, 905, 905, none), (900, 950, 910, some 950), (900, 850, 890, some 850)] : List (Nat × Nat × Nat × Option Nat)).all (fun (clk, goal, new, left) =>
      let s : State := { governed 0 clk 100 8 with gov := { clkGoal := some goal } }
      let t := after .clockStep s
      s.live && decide (t.f govP MgtGov.CLK_MHZ = new) && decide (t.gov.clkGoal = left)) = true ∧
    (let s : State := { (governed 0 455 100 8).setB (grpP 0) SibGrp.ATTACHED true with gov := { clkGoal := some 300 } }
     s.unshedLive = true ∧ (after .clockStep s).f govP MgtGov.CLK_MHZ = 450 ∧ (after .clockStep s).gov.clkGoal = none) ∧
    (let s : State := { governed 736 595 100 8 with gov := { tripStopped := true } }
     s.live = true ∧ (after .governorEvaluation s).gov.clkGoal = some 600) := by decide +kernel

/-! ## Silent errors and scrubbing -/

/-- An INT8 array tile of one row and one column: the stationary operand holds 2, the weight row 3. -/
def tile1 : Tile :=
  { origin := 5, ctx := 4, ttype := 1, shape := 0, ext := false, bytes := [1, 1, 0, 1, 1] ++ zeros 11 ++ [2] ++ zeros 1023 ++ [3] ++ zeros 127,
    result := leBytes 8 6 ++ zeros 56 }

/-- Slices 5, 6 and 7 hold images, in the gap of a tick that leaves them 3 µs. -/
def seeking (r : Rel) : State := 
  { up.setF ⟨.devCap, 0, 0⟩ DevCap.ENGINE_SLICE_MASK 0xE0 with rel := r, tkg := { up.tkg with phase := .gap, edgeAt := 5000000, gapEndAt := 3000 } }
def rec1 (f : Option (Nat × List Byte)) (at_ : Nat := 5000000) : AniRec := { id := 3, tile := tile1, at_ := at_, first := f }

theorem test_sample_ship :
    (let s := (seeking { nextId := 3 }).modSlice 5 fun x => { x with staging := some tile1 }
     let u := after (.sampleShip 5 .badParity) s
     s.clocked = true ∧ (s.slice 5).staging = some tile1 ∧ (after (.sampleShip 5 .arrived) s).rel.recs = [rec1 none] ∧
       (after (.sampleShip 5 .arrived) s).f aniP Anise.SAMPLED = 1 ∧ (after (.sampleShip 5 .unshipped) s).f aniP Anise.SKIPPED = 1 ∧
       u.rel.recs = [] ∧ u.f (portP 5) SlcPort.RES_PAR_CNT = 1 ∧ u.f aniP Anise.SKIPPED = 1) := by decide +kernel

/-- The replay computes 2 · 3 again; with its lowest bit inverted it differs, and a third replay settles the record. -/
theorem test_replay :
    (let s := seeking { recs := [rec1 none], nextId := 4 }
     let t := after (.aniseReplay 3 6 { answer := [] }) s
     let u := after (.aniseReplay 3 6 { answer := [], flips := [0] }) s
     let differ := leBytes 8 7 ++ zeros 56
     s.live = true ∧ s.slices = [] ∧ s.wanted 6 = some (rec1 none) ∧ t.rel.recs = [] ∧ t.f aniP Anise.MATCH = 1 ∧ u.f aniP Anise.DISAGREE = 1 ∧
       u.rel.recs = [rec1 (some (6, differ))] ∧ u.wanted 7 = some (rec1 (some (6, differ))) ∧ (after (.aniseReplay 3 7 { answer := [] }) u).rel.recs = []) := by
  decide +kernel

/-- The item of the package above holds zeros, and so does its result. -/
theorem test_pattern_item :
    (let it : PatItem := { id := 8, index := 0, slice := 5, expect := BitVec.ofNat 64 (mace (zeros 64)) }
     let s := seeking { items := [it], package := package1 }
     s.wanted 5 = none ∧ s.rel.items.find? (fun q => q.slice = 5) = some it ∧ s.sliceFree 5 = true ∧ (s.slice 5).testing = false ∧
       (after (.aniseReplay 8 5 { answer := [] }) s).f patP Pattern.RUNS = 1 ∧ (after (.aniseReplay 8 5 { answer := [] }) s).f patP Pattern.FAILS = 0 ∧
       (after (.aniseReplay 8 5 { answer := [], flips := [9] }) s).f patP Pattern.FAILS = 1) := by decide +kernel

theorem test_records_and_tests :
    (let s := atTime (seeking { recs := [rec1 none 0] }) 1000000000
     let t := after (.sampleExpire 3) s
     s.rel.recs.find? (fun q => q.id = 3) = some (rec1 none 0) ∧ t.rel.recs = [] ∧ t.f aniP Anise.SKIPPED = 1) ∧
    (let s := atTime (with_ up [(slhP 5, SlcHealth.HSTATE, hlSuspect), (slhP 5, SlcHealth.LAST_ERR, 7), (hltP, Health.RECOVER_H, 1)]) 3600000000007
     s.f (slhP 5) SlcHealth.LAST_ERR + s.f hltP Health.RECOVER_H * 3600000000000 ≤ s.time ∧ (after (.healthRecover 5) s).f (slhP 5) SlcHealth.HSTATE = hlNormal) ∧
    (let s := (seeking {}).modSlice 5 fun x => { x with testing := true, testAt := 4999000 }
     let t := after (.builtInTest 5 [(0, 9)] true) s
     s.loaded 5 = true ∧ s.time < 4999000 + s.testEvery 5 ∧ s.sliceFree 5 = true ∧ s.wanted 5 = none ∧ (t.slice 5).testing = false ∧
       t.f (slhP 5) SlcHealth.TESTS_RUN = 1 ∧ t.f (slhP 5) SlcHealth.LAST_CONF = 5000000) ∧
    (let s := (seeking { package := package1, items := [{ id := 8, index := 0, slice := 5, expect := 0 }], nextId := 20 }).setB patP Pattern.LOADED true
     let t := after .patternRun (atTime s 10000000)
     s.rel.runAt + leAt s.rel.package 0x0E 2 * 1000000 ≤ 10000000 ∧ t.f patP Pattern.LATE = 1 ∧ t.rel.items.map (·.id) = [] ∧ t.rel.runAt = 10000000) := by decide +kernel

theorem test_reverification :
    (let s := { stream0 with plv := { stream0.plv with reverify := [2] } }
     (∀ c, c < 64 → s.isStream c = false → ¬ (s.cx c).host.any (·.active)) ∧ ((s.cx 0).program.map (·.gang)) = some [2] ∧ ((s.cx 0).program.map (·.stream)) = some true ∧
       ((after .reverification s).cx 0).heldNext = true) := by decide +kernel

/-- A pass over two frames of configuration. -/
def scrubbing : State :=
  let s := with_ up [(cloveP, Clove.RUNNING, 1)]
  { s with clove := { s.clove with stopped := false }, fab := { s.fab with frames := 2, cfg := [(0, 0x55)] } }

theorem test_scrub :
    (let s := scrubbing.setB cloveP Clove.RUNNING false
     s.live = true ∧ s.clove.stopped = false ∧ s.engineFailed false = false ∧ (after (.scrubPass true) s).on cloveP Clove.RUNNING = true ∧
       (after (.scrubPass true) s).clove.passAt = 5000000 ∧ (after (.scrubPass false) s).engineFailed false = true ∧
       (after (.scrubPass false) s).f cloveP Clove.CAUSE_A = 1) ∧
    scrubbing.clove.passAt + 440 ≤ scrubbing.time ∧ scrubbing.fab.cfgSyn = [] ∧ spWf scrubbing.fab.cfg = true ∧ scrubbing.on cloveP Clove.SCRUB_FAULT = false ∧
    (after (.heartbeatTimeout true) scrubbing).f cloveP Clove.CAUSE_B = 3 ∧ (after (.heartbeatTimeout true) scrubbing).on cloveP Clove.SCRUB_DEGRADED = true ∧
    (after (.tripleLatchUpset false true) scrubbing).f cloveP Clove.CAUSE_A = 2 ∧ (after (.tripleLatchUpset false false) scrubbing).f cloveP Clove.CLV_TMR = 1 ∧
    (after (.tripleLatchUpset false false) scrubbing).engineFailed false = false := by decide +kernel

/-! ## Resets, rails and clocks -/

theorem test_power_reset :
    (let s := after .powerReset { ctx4 with power := { ctx4.power with critical := true } }
     let s := { s with power := { s.power with auxAt := some 7000000, now := 9000000 } }
     s.power.inPower = true ∧ s.regs = [] ∧ s.mem = [] ∧ s.power.critical = false ∧ s.pins.sysRstLow = false ∧
       (let t := after (.powerResetEnd 2) s
        t.power.inPower = false ∧ t.power.inCold = true ∧ t.pins.smbAddr = 2 ∧
          (let u := after (.powerResetEnd 2) { s with pins := { s.pins with sysRstLow := true } }
           u.f senseP MgtSense.RST_CAUSE = 1 ∧ u.f senseP MgtSense.COLD_CNT = 1))) := by decide +kernel

theorem test_cold_reset :
    (let s := after .coldReset (with_ ctx4 [(senseP, MgtSense.TEMP_MAX, 77), (senseP, MgtSense.COLD_CNT, 2)])
     ctx4.mayCold = true ∧ s.power.inCold = true ∧ s.f senseP MgtSense.RST_CAUSE = 1 ∧ s.f senseP MgtSense.COLD_CNT = 3 ∧ s.f senseP MgtSense.TEMP_MAX = 77 ∧
       s.ctxState 4 = stFree ∧ s.mem = [] ∧ s.pins.sysRstLow = true ∧ s.coldOver = false ∧
       (let s := { s with power := { s.power with now := 7010000 } }
        let t := after (.coldResetEnd 1 1) s
        s.coldOver = true ∧ t.live = true ∧ t.admin = 1 ∧ t.power.startAt = 7010000 ∧ (after (.coldResetEnd 0 1) s).admin = 0 ∧
          (let u := after .timebaseLock { t with power := { t.power with now := 7210000 } }
           t.power.locked = false ∧ u.power.locked = true ∧ u.time = 0))) := by decide +kernel

theorem test_rails :
    (let t := after (.railFault .vddSt) up
     up.mayCold = true ∧ up.pins.sysRstLow = false ∧ t.f senseP MgtSense.RST_CAUSE = 4 ∧ t.f senseP MgtSense.FAULT_RAIL = 2 ∧
       ({ t with power := { t.power with now := 9000000 } } : State).coldOver = false ∧
       (let u := after (.railInBand .vddSt) t
        u.power.faults = [(.vddSt, some 7000000)] ∧ u.on senseP MgtSense.SEQ_ERR = false ∧
          ({ u with power := { u.power with now := 8000000 } } : State).coldOver = true)) ∧
    (let s := { up with pins := { up.pins with railsIn := [.aux] } }
     (after (.railInBand .core) s).on senseP MgtSense.SEQ_ERR = true ∧ (after (.railInBand .vppSt) s).on senseP MgtSense.SEQ_ERR = false) := by decide +kernel

theorem test_clocks :
    (let t := after (.clockLoss (.stref 1)) (with_ up [(rxP, SibRx.RX_EN.at 20, 1), (rxP, SibRx.BLOCK_LOCK.at 20, 1)])
     t.pins.clkGone = 8 ∧ t.f clkP MgtClk.CLK_LOST = 8 ∧ t.on rxP (SibRx.BLOCK_LOCK.at 20) = false ∧ t.rxRuns 20 = false ∧
       (after (.clockReturn (.stref 1)) t).pins.clkGone = 0 ∧ (after (.clockReturn (.stref 1)) t).rxRuns 20 = true) ∧
    (after (.clockLoss (.pcie 1)) up).on (linkP 1) HptLink.UP = false ∧
    (let t := after (.clockLoss .sys) up
     t.f senseP MgtSense.RST_CAUSE = 5 ∧ (after (.clockReturn .sys) t).power.clkAt = some 7000000) := by decide +kernel

theorem test_critical_temperature :
    (let t := after .criticalTemp { up with pins := { up.pins with tickOut := true } }
     up.mayCold = true ∧ t.live = false ∧ t.thermTrip = true ∧ t.pins.tickOut = false ∧ (t.pins.io.all fun b => decide (b = .hiz)) = true) := by decide +kernel

/-! ## The sideband and the JTAG port -/

def txn (code : Nat) (body : List Byte) (pec : Option Bool := none) : SbTxn := { code := BitVec.ofNat 8 code, count := BitVec.ofNat 8 body.length, body := body, pec := pec }

theorem test_sideband :
    (let a := limP.base + MgtLimit.CORE_I_LIMIT.off
     let w := txn 0x10 (leBytes 4 a ++ leBytes 4 (0xC70 <<< MgtLimit.CORE_I_LIMIT.lo)) (some true)
     let t := after (.sbWrite w) up
     up.reaches .sideband = true ∧ sbOk w = true ∧ t.f limP MgtLimit.CORE_I_LIMIT = 0xC70 ∧ t.f sbP MgtSideband.SB_DONE_CNT = 1 ∧
       (let r := txn 0x11 (leBytes 4 a)
        sbOk r = true ∧ (after (.sbRead r) t).out = [.smb (4 :: t.readBytes .sideband a 4)] ∧
          ((after (.sbRead { r with pec := some true }) t).out.map fun o => match o with | .smb b => b.length | _ => 0) = [6])) ∧
    (let t := after (.sbColdReset (txn 0x1F [0xC5])) up
     sbOk (txn 0x1F [0xC5]) = true ∧ t.f senseP MgtSense.RST_CAUSE = 3 ∧ t.power.inCold = true) ∧
    sbOk (txn 0x1F [0xC4]) = false ∧ (after (.sbColdReset (txn 0x1F [0xC4])) up).f sbP MgtSideband.SB_BAD_CNT = 1 ∧
    (after (.sbRead (txn 0x11 (leBytes 4 0) (some false))) up).f sbP MgtSideband.SB_PEC_CNT = 1 ∧
    (let s := up.setF limP Hdr.IRQ_STAT 1
     let s := s.setF limP Hdr.IRQ_MASK 0
     s.irqOn limP = true ∧ (after .alertResponse { s with pins := { s.pins with smbAddr := 2 } }).out = [.smb [0x5A]]) := by decide +kernel

theorem test_jtag :
    ((after .idcode up).out = [.jtag ((List.range 32).map fun i => (0x01024B6F).testBit i)]) ∧ (after .bypass up).jtag.ir = jtBypass ∧ (after .extest up).jtag.ir = jtBypass ∧
    (let s : State := { up with pins := { up.pins with sysRstLow := true, tickOut := true } }
     s.mayCold = true ∧ (after .highz s).jtag.floated = true ∧
       (let t := after (.samplePreload (List.replicate 221 true) (List.replicate 221 false)) s
        t.jtag.cells = List.replicate 221 false ∧ (after .extest t).jtag.drive = some (List.replicate 221 false) ∧
          (after .clamp t).jtag.drive = some (List.replicate 221 false))) := by decide +kernel

/-! ## The fabric -/

/-- An image whose header lies at 0x10000 of context 4's addresses: region 5, one frame, bank 1 declared at 1.8 V. -/
def header1 : List Byte :=
  leBytes 4 0x4C524C44 ++ leBytes 2 1 ++ leBytes 2 0x40 ++ leBytes 4 0x10240001 ++ leBytes 2 0x20 ++ leBytes 2 0 ++ leBytes 4 1 ++ leBytes 4 4100 ++
    leBytes 8 4164 ++ zeros 8 ++ leBytes 4 0x30 ++ leBytes 20 1

def loading : State :=
  let s := ctx4.poke false 0x30000 header1
  let s : State := { s with cmds := [{ cmd4 9 0x10 4164 with st := .started }],
                            fab := { cmd := some 9, startAt := 4000000, imageVa := 0x10000, ctx := 4 } }
  s.setB glbP GlbCtrl.LOADING true

theorem test_header : header1.length = 64 ∧ loading.imageAt 0 header1 ∧ leAt header1 0x18 8 = 64 + leAt header1 0x10 4 * 4100 ∧
    leAt header1 0x0C 2 &&& loading.fuses.sliceMask = leAt header1 0x0C 2 ∧
    (let t := after .fabricResetComplete loading
     t.fab.header = header1 ∧ t.fab.mask = 0x20 ∧ t.fab.frames = 1 ∧ t.fab.regionsLeft = [5]) :=
  ⟨by decide +kernel, ⟨by decide +kernel, fun e _ => (clean_states _ (by decide +kernel)).2.1 _ _, by decide +kernel, by decide +kernel⟩, by decide +kernel,
    by decide +kernel, by decide +kernel⟩

/-- The last port check passes and completes the load; one that fails its echo is not the last. -/
def checking (left : List Nat) : State :=
  { loading with fab := { loading.fab with header := header1, frames := 1, nextFrame := 1, mask := 0x20, regionsLeft := left, checkAt := 4900000, crc := 77 } }

def answer (echo : Bool) : PortAnswer := { ident := 0x001C2010, memLoop := true, resLoop := true, echo := echo, manPar := List.replicate 64 0, manifest := List.replicate 64 0 }

theorem test_port_check :
    (let t := after (.portCheck (answer false)) (checking [5, 6])
     portFail (answer false) (leAt header1 0x2C 1) ≠ 0 ∧ t.fab.regionsLeft = [6] ∧ t.on (portP 5) SlcPort.CHECKED = true ∧ t.on (portP 5) SlcPort.PASSED = false ∧ t.out = []) ∧
    (let t := after (.portCheck (answer true)) (checking [5, 6])
     t.fab.passMask = 0x20 ∧ t.out = [.extRst 5 false]) ∧
    (let t := after (.portCheck (answer false)) (checking [5])
     (checking [5]).fab.passMask = 0 ∧ t.on glbP GlbCtrl.LOAD_FAILED = true ∧ t.f glbP GlbCtrl.LOAD_CAUSE = 7 ∧ t.fab.cmd = none) ∧
    (let t := after (.portCheck (answer true)) (checking [5])
     portFail (answer true) (leAt header1 0x2C 1) = 0 ∧ t.on glbP GlbCtrl.LOADED = true ∧ t.loaded 5 = true ∧ t.f glbP GlbCtrl.FAB_SIG = 77) := by
  decide +kernel

theorem test_io_banks :
    (let s : State := { checking [] with fab := { (checking []).fab with doneAt := some 4000000 } }
     let s := s.setF senseP (MgtSense.V_IO_O.at 0) 1710
     let t := after (.ioBankCheck [[], List.replicate 24 7]) s
     s.live = true ∧ s.pins.io.length = 8 ∧ t.pins.io[1]? = some (.configured (List.replicate 24 { input := true, output := true, bias := .keeper, mA := 4 })) ∧ t.pins.io[0]? = some .hiz ∧
       (after (.ioBankCheck []) (s.setF senseP (MgtSense.V_IO_O.at 0) 1709)).f glbP GlbCtrl.IO_BANK_OFF = 2) := by decide +kernel

/-- A frame of zeros lies behind the header, with its CRC. -/
def framing : State :=
  { loading.poke false (0x30040 + 4096) (leBytes 4 0x98f94189) with fab := { loading.fab with header := header1, frames := 2, mask := 0x20 } }

theorem test_image_frame : framing.live = true ∧ framing.fab.startAt + 2000 + (64 + 4100) / 4 ≤ framing.time ∧ framing.unmapped 4 0x10040 4100 = none ∧
    framing.xlate 4 0x10040 = some (false, 0x30040) ∧ framing.syn = [] ∧ framing.peek false 0x31040 4 = leBytes 4 0x98f94189 ∧ spWf framing.fab.cfg = true := by
  decide +kernel

/-! ## Worked cases of the specification -/

/-- Worked cases 2.a (step 1), 5.a and 5.b (step 4). -/
theorem test_case_addresses : State.reset.readWord ⟨.devCap, 0, 0⟩ 0 = 0x01000100 ∧ linToBank 0x123456789 = 0x4EA48D189 ∧ bankToLin 0x4EA48D189 = 0x123456789 ∧
    bankAddr 0 3 9 0x100140 = 0x72100140 := by decide +kernel

/-- Worked case 3.a, with the case's reference schedule committed while nothing runs, and the commit of step 7. -/
theorem test_case_schedule :
    (let s := with_ up [(winP, TkgWin.PERIOD, 4000), (winP, TkgWin.COMPUTE_START, 60), (winP, TkgWin.COMPUTE_END, 2860), (winP, TkgWin.GAP_END, 3380),
       (winP, TkgWin.DECISION_OFFSET, 100), (winP, TkgWin.TOL, 20)]
     let t := after (.commit (.port 0)) s
     t.readWord winP 0x58 = 0 ∧ t.readWord winP 0x74 = 0x02D001F4 ∧ t.readWord winP 0x78 = 2800 ∧ t.readWord winP 0x7C = 600 ∧
       (after (.commit (.port 0)) (t.setF winP TkgWin.GAP_END 3340)).readWord winP 0x58 = 0x301) := by decide +kernel

/-- Worked case 10.a, steps 4 to 6: FP32 to FP8, BF16 and INT8, as (bits, flags). -/
theorem test_case_conversions :
    ([(0x43960000, 3, 0x79, 0), (0x43E60000, 3, 0x7E, 0), (0x43EB0000, 3, 0x7E, 2), (0x3C7DF3B6, 3, 0x08, 0), (0x3C23D70A, 3, 0, 0), (0x3F808000, 4, 0x3F80, 0),
      (0x3F818000, 4, 0x3F82, 0), (0xC0200000, 1, 0xFE, 0), (0x43480000, 1, 0x7F, 2), (0x7FC00000, 1, 0, 2)] : List (Nat × Nat × Nat × Nat)).all
      (fun (a, f, v, fl) => dConvert 6 f a = { v := v, fl := fl }) = true := by decide +kernel

/-- Worked case 11.a: the words of bundle 2, its third repetition and the fourth, which the predicate ends; and the slot of case 11.b. -/
theorem test_case_loop :
    (let w := BitVec.ofNat 256 0x18C4A04FF
     let s := (running w 0 2).modSlice 0 fun x => { x with k := [(0, 0x0000001100000003)], rep := 2 }
     let t := after (.bundle 0 {}) s
     let u := after (.bundle 0 {}) t
     (Bundle.ofWord w).rept = 255 ∧ (Bundle.ofWord w).bad = none ∧ spGet 0 (t.slice 0).c 1 = 3 ∧ (t.slice 0).rep = 3 ∧ spGet 0 (u.slice 0).c 1 = 3 ∧ (u.slice 0).pc = 19 ∧
       u.f (perfP 0) SlcPerf.PRED_FALSE = 1) ∧
    tForm 0xC00088051 = { handle := 5, an := 2, buf := 2, off := 0, ainc := true, binc := true } := by decide +kernel

/-- Worked case 17.a: the fleet form of one uncorrectable read. -/
theorem test_case_fleet :
    (let r := leBytes 8 10000000000 ++ leBytes 8 2500000 ++ leBytes 4 17 ++ [2, 3] ++ leBytes 2 39 ++ [0, 3] ++ leBytes 2 0x12 ++ leBytes 2 0x274 ++
       leBytes 2 0x44E ++ leBytes 8 0x4EA48D180 ++ leBytes 8 0x306 ++ leBytes 8 4 ++ [0, 0, 1, 9, 2, 0, 0, 1]
     r.length = 64 ∧ fleetForm r none = (
       [0xB2, 0x00, 0x01, 0x01, 0x1B, 0x00, 0x00, 0x00, 0x02, 0x54, 0x0B, 0xE4, 0x00, 0x02, 0x1A, 0x00, 0x26, 0x25, 0xA0, 0x03, 0x11, 0x04, 0x02, 0x05, 0x03,
        0x06, 0x18, 0x27, 0x07, 0x00, 0x08, 0x03, 0x09, 0x12, 0x0A, 0x19, 0x02, 0x74, 0x0B, 0x19, 0x04, 0x4E, 0x0C, 0x1B, 0x00, 0x00, 0x00, 0x04, 0xEA, 0x48,
        0xD1, 0x80, 0x0D, 0x01, 0x0E, 0x19, 0x03, 0x06, 0x0F, 0x04, 0x11, 0x09, 0x12, 0x02] : List Byte)) := by decide +kernel

/-- The ball counts of R404 make up the 5,184 balls, and the rails of R406 the power balls among them. -/
theorem test_balls : (BallGroup.all.map BallGroup.count).sum = 72 * 72 ∧
    (Rail.all.map fun r => (Rail.fig r).balls).sum + 8 * (vccioFig 1).balls = BallGroup.count .power := by decide +kernel

/-- An underflow of context 5 while a frame of it is being pushed is nested: reason 4 and `NESTED` in byte 0x15, and the context is DEAD (R391, R392). -/
theorem test_nested_fault :
    (let s := (with_ up [(ctxP 5, Ctx.STATE, 1), (ctxP 5, Ctx.XSIZE, 512)]).modCx 5 fun y => { y with pushEnd := up.time + 1 }
     let t := s.refUnderflow 5 7
     t.f (ctxP 5) Ctx.SAVE_REASON = 4 ∧ t.on (ctxP 5) Ctx.SHADOW_VALID = true ∧ t.f (ctxP 5) (Ctx.FAULT_SHADOW.at 5) / 256 % 256 = 3 ∧
       t.f (ctxP 5) Ctx.XSIZE = 512 ∧ t.ctxState 5 = stDead) := by decide +kernel

end Sys2Proof.Tests
end

section
/-! SUPPORT. The admin role (02_register_pages.md: R27): what the beginning of a port's teardown leaves alone in the register file, what a write
of the admin port does, and what the straps give at the end of a cold reset. -/

namespace Sys2Proof.Proofs
open Sys2Proof Sys2Proof.Machine Sys2Proof.Laws

variable {a s : State}

/-! ## The pages that a teardown's beginning leaves alone -/

/-- The key of a field lies in its page's part of the register file. -/
theorem regKey_page (pg : Page) {f : Fld} (ho : f.off < 0x1000) (hl : f.lo < 32) : regKey pg f / 0x8000 = pg.base / 0x1000 := by
  have hb : pg.base % 0x1000 = 0 := by simpa using base_mod pg (off := 0) (by decide)
  unfold regKey
  omega

/-- Whether a page is of the context slots or of a region class above them, so that it lies from 0x100000 on (R41). -/
def isHigh (pg : Page) : Bool := decide (4 ≤ pg.kind.region)

theorem base_of_isHigh {pg : Page} (h : isHigh pg = true) : 0x100000 ≤ pg.base := by
  have hr : 4 ≤ pg.kind.region := of_decide_eq_true h
  unfold Page.base
  split <;> omega

/-- Whether page number `n` of the aperture lies below the context pages and is neither the page of the verifier, whose halt channels a teardown
disarms, nor one of `HPT_EVENT`, where a masked interrupt waits. -/
def steadyPage (n : Nat) : Prop := n < 0x100 ∧ n ≠ 3 ∧ (0x20 ≤ n → n % 4 ≠ 2)

/-- The registers of those pages read in `s` as in `a`. -/
def Steady (a s : State) : Prop := ∀ k, steadyPage (k / 0x8000) → ∀ d, spGet d s.regs k = spGet d a.regs k

theorem steady_refl (s : State) : Steady s s := fun _ _ _ => rfl

/-- A change of anything but the register file. -/
theorem Steady.of_regs {t : State} (h : Steady a s) (e : t.regs = s.regs) : Steady a t := by
  unfold Steady at h ⊢
  rwa [e]

/-- A change of memory and its check bits. -/
theorem Steady.setMem (h : Steady a s) (m : List Host.Cell) (y : Sp (BitVec 16)) : Steady a { s with mem := m, syn := y } := h

theorem Steady.setRel (h : Steady a s) (r : Rel) : Steady a { s with rel := r } := h

theorem steady_ite {c : Prop} [Decidable c] {t : State} (hs : Steady a s) (ht : Steady a t) : Steady a (if c then s else t) := by
  split <;> assumption

theorem steady_fold {β : Type} {g : State → β → State} {l : List β} (h : Steady a s) (hg : ∀ s x, Steady a s → Steady a (g s x)) :
    Steady a (l.foldl g s) :=
  List.foldlRecOn (motive := Steady a) l g h fun s hs x _ => hg s x hs

theorem steady_foldFst {β γ : Type} {g : State × γ → β → State × γ} {l : List β} {p : State × γ} (h : Steady a p.1)
    (hg : ∀ p x, Steady a p.1 → Steady a (g p x).1) : Steady a (l.foldl g p).1 :=
  List.foldlRecOn (motive := fun p => Steady a p.1) l g h fun p hp x _ => hg p x hp

/-- A field of such a page reads as before. -/
theorem Steady.f_eq (h : Steady a s) {pg : Page} {f : Fld} (hp : steadyPage (pg.base / 0x1000)) (ho : f.off < 0x1000) (hl : f.lo < 32) :
    s.f pg f = a.f pg f :=
  congrArg (· % 2 ^ f.width) (h _ (regKey_page pg ho hl ▸ hp) _)

/-- A write to a key of any other page. -/
theorem Steady.setF_of {pg : Page} {f : Fld} (h : Steady a s) (hk : ¬ steadyPage (regKey pg f / 0x8000)) (v : Nat) :
    Steady a (s.setF pg f v) := by
  intro k hs d
  have hne : k ≠ regKey pg f := fun e => hk (e ▸ hs)
  exact (spGet_put_ne _ _ _ hne _).trans (h k hs d)

/-- A write to a page of region class 4 or above. -/
theorem Steady.setF {pg : Page} (h : Steady a s) (hr : isHigh pg = true) (f : Fld) (v : Nat) : Steady a (s.setF pg f v) := by
  have hb := base_of_isHigh hr
  refine h.setF_of (fun hk => ?_) v
  have := hk.1
  unfold regKey at this
  omega

theorem Steady.bump {pg : Page} (h : Steady a s) (hr : isHigh pg = true) (f : Fld) (n : Nat) : Steady a (s.bump pg f n) := h.setF hr f _

/-! ## Interrupts and device memory -/

theorem Steady.sendMsix (h : Steady a s) (p : Nat) {v : Nat} (hv : v < 248) : Steady a (s.sendMsix p v) := by
  unfold State.sendMsix
  dsimp only
  split
  · exact h
  · split
    · refine h.setF_of (fun hk => ?_) _
      rw [regKey_page _ (by simp only [HptEvent.MSIX_PBA, Fld.at]; omega) (show (0 : Nat) < 32 by decide)] at hk
      obtain ⟨-, -, h2⟩ := hk
      simp only [Page.base, PageKind.region, Page.func] at h2
      omega
    · exact h.of_regs rfl

theorem Steady.irq {pg : Page} (h : Steady a s) (hr : isHigh pg = true) (bits : Nat) : Steady a (s.irq pg bits) := by
  have h1 : Steady a (s.setF pg Hdr.IRQ_STAT (s.f pg Hdr.IRQ_STAT ||| (bits &&& pg.kind.irqBits))) := h.setF hr _ _
  unfold State.irq State.irqEdge
  dsimp only
  split
  · split
    · exact h1.sendMsix _ (by decide)
    · exact h1
  · exact h1

theorem Steady.dropRepairs (h : Steady a s) (lo hi : Nat) : Steady a (s.dropRepairs lo hi) := by
  unfold State.dropRepairs
  dsimp only
  split
  · exact h
  · exact h.of_regs rfl

theorem Steady.dropHeldTiles (h : Steady a s) (lo hi n : Nat) : Steady a (s.dropHeldTiles lo hi n) := by
  unfold State.dropHeldTiles
  dsimp only
  split
  · exact h
  · exact Steady.bump (h.of_regs rfl) rfl _ _

theorem Steady.dropHeldDots (h : Steady a s) (lo hi : Nat) : Steady a (s.dropHeldDots lo hi) := by
  unfold State.dropHeldDots
  dsimp only
  split
  · exact h
  · exact steady_fold (h.of_regs rfl) fun _ _ ht => ht.bump rfl _ _

theorem Steady.wrote (h : Steady a s) (lo hi : Nat) : Steady a (s.wrote lo hi) :=
  steady_fold ((h.dropRepairs lo hi).dropHeldDots lo hi) fun _ n ht => ht.dropHeldTiles lo hi n

theorem Steady.putBeats (h : Steady a s) (bank : Bool) (x : Nat) (l : List Byte) : Steady a (s.putBeats bank x l) :=
  steady_fold h fun _ _ ht => (ht.wrote _ _).setMem _ _

theorem Steady.record (h : Steady a s) (r : Record) : Steady a (s.record r) := by
  unfold State.record
  dsimp only
  split
  · exact h.bump rfl _ _
  split
  · exact h
  split
  · exact Steady.bump (h.of_regs rfl) rfl _ _
  split
  · exact (h.bump rfl _ _).irq rfl _
  · exact (((h.putBeats _ _ _).setRel _).setF rfl _ _).irq rfl _

theorem Steady.queueRepair (h : Steady a s) (ba : Nat) (l : List Byte) : Steady a (s.queueRepair ba l) := by
  unfold State.queueRepair
  dsimp only
  split
  · exact h.of_regs rfl
  · exact h.bump rfl _ _

theorem Steady.eccReport (h : Steady a s) (rd : Reader) (ba : Nat) (syn : BitVec 16) (cls : Nat) (fixed : List Byte) :
    Steady a (s.eccReport rd ba syn cls fixed) := by
  have hr : isHigh ⟨.stkEcc, ba >>> 33, 0⟩ = true := rfl
  have h1 := ((((((h.bump hr (if cls = 3 then StkEcc.UE_CNT else StkEcc.CE_CNT) 1).setF hr StkEcc.LAST_ADDR ba).setF hr StkEcc.LAST_SYN
    syn.toNat).setF hr StkEcc.LAST_CLASS cls).setF hr StkEcc.LAST_SRC rd.src).setF hr StkEcc.LAST_UNIT
    (if rd.src = 4 then rd.unit else 0)).irq hr (if cls = 3 then 4 else 2)
  exact (steady_ite h1 (h1.queueRepair _ _)).record _

theorem Steady.readBeat (h : Steady a s) (rd : Reader) (ba : Nat) : Steady a (s.readBeat rd ba).1 := by
  unfold State.readBeat
  dsimp only
  split
  · exact h
  · dsimp only
    split
    · exact h
    · exact h.eccReport _ _ _ _ _

theorem Steady.readMem (h : Steady a s) (rd : Reader) (bank : Bool) (x n : Nat) : Steady a (s.readMem rd bank x n).1 :=
  steady_foldFst h fun _ _ hp => steady_foldFst hp fun _ _ hq => hq.readBeat rd _

theorem Steady.noteRead (h : Steady a s) (rd : Reader) (bank : Bool) (x n : Nat) : Steady a (s.noteRead rd bank x n) := by
  unfold State.noteRead
  split
  · exact h
  · exact h.readMem _ _ _ _

theorem Steady.storeBeat (h : Steady a s) (beat : Nat) (l : List Byte) (syn : BitVec 16) : Steady a (s.storeBeat beat l syn) :=
  (h.wrote beat (beat + 1)).setMem _ _

theorem Steady.writeBeat (h : Steady a s) (beat off : Nat) (l : List Byte) (bad poison : Bool) (rmw : Reader) :
    Steady a (s.writeBeat beat off l bad poison rmw) := by
  have h1 : Steady a (if bad then s.bump ⟨.stkEcc, (beat * 32) >>> 33, 0⟩ StkEcc.WPAR_CNT else s) :=
    steady_ite (h.bump rfl _ _) h
  unfold State.writeBeat
  dsimp only
  split
  · exact h1.storeBeat _ _ _
  · exact (h1.readBeat rmw _).storeBeat _ _ _

theorem Steady.poke (h : Steady a s) (bank : Bool) (x : Nat) (l : List Byte) : Steady a (s.poke bank x l) :=
  steady_fold h fun _ _ ht => steady_fold ht fun _ _ hu => hu.writeBeat _ _ _ _ _ _

/-! ## Objects and the reclaim of an object -/

theorem Steady.unmapPage (h : Steady a s) (c va : Nat) : Steady a (s.unmapPage c va) := by
  unfold State.unmapPage
  dsimp only
  split
  · exact h
  split
  · exact h
  split
  · exact ((h.poke _ _ _).poke _ _ _).of_regs rfl
  · exact h.poke _ _ _

theorem Steady.unmapObj (h : Steady a s) (c o : Nat) : Steady a (s.unmapObj c o) :=
  (steady_fold h fun _ _ ht => ht.unmapPage c _).poke _ _ _

theorem Steady.writeDigest (h : Steady a s) (c : BuCmd) (v : Nat) (poison : Bool) : Steady a (s.writeDigest c v poison) := by
  unfold State.writeDigest
  split
  · exact steady_fold h fun _ _ ht => ht.writeBeat _ _ _ _ _ _
  · exact h

/-- A command that the router takes changes no more than its digest's write does. -/
theorem Steady.buIssue (h : Steady a s) {c : BuCmd} {t : State} {id : Nat} (e : s.buIssue c = .taken t id) : Steady a t := by
  unfold State.buIssue at e
  dsimp only at e
  split at e
  · cases e
    exact h.of_regs rfl
  split at e
  · cases e
    exact Steady.of_regs (s := if _ then _ else _) (steady_ite (h.writeDigest _ _ _) h) rfl
  split at e
  · cases e
  · cases e
    refine h.of_regs ?_
    dsimp only
    split <;> rfl

theorem Steady.issueJob (h : Steady a s) (ctx : Nat) (j : FillJob) : Steady a (s.issueJob ctx j).1 := by
  refine steady_foldFst h fun p k hp => ?_
  dsimp only
  split
  · exact hp
  split
  · exact hp
  next t id he => exact hp.buIssue he

theorem Steady.issueFills (h : Steady a s) : Steady a s.issueFills := by
  refine steady_foldFst h fun p j hp => ?_
  dsimp only
  split
  · exact hp
  · exact (hp.issueJob _ j).of_regs rfl

theorem Steady.reclaim (h : Steady a s) (o : Nat) : Steady a (s.reclaim o) :=
  Steady.issueFills <| Steady.of_regs (steady_fold (h.noteRead hibReader false (objAddr o) 32) fun _ c ht => ht.unmapObj c o) rfl

theorem Steady.changeRefs (h : Steady a s) (o : Nat) (g : Nat → Nat) : Steady a (s.changeRefs o g) := by
  have h1 : Steady a (s.setRefs o (g (s.refs o))) := h.poke _ _ _
  unfold State.changeRefs
  dsimp only
  split
  · exact h
  split
  · exact h1.reclaim o
  · exact h1

theorem Steady.dropRefs (h : Steady a s) (l : List Nat) : Steady a (s.dropRefs l) := steady_fold h fun _ o ht => ht.changeRefs o _

/-! ## The teardown of contexts -/

/-- The one page below the context pages that a teardown writes is the verifier's, where it disarms halt channels (R290). -/
theorem plv_not_steady {h : Nat} (hh : h < 4) : ¬ steadyPage (regKey plvP (Plv.HALT_ARM.at h) / 0x8000) := by
  rw [regKey_page _ (by simp only [Plv.HALT_ARM, Fld.at]; omega) (show 0 < 32 by decide)]
  exact fun hk => hk.2.1 rfl

theorem Steady.beginTear (h : Steady a s) (cs : List Nat) (release : Bool) : Steady a (s.beginTear cs release) := by
  unfold State.beginTear
  refine List.foldlRecOn (motive := Steady a) _ _ ?_ fun t ht k hk => ?_
  · refine steady_fold (Steady.of_regs (steady_fold h fun t c ht => ?_) rfl) fun t d ht => ht.dropRefs d.refs
    exact Steady.of_regs (ht.setF (pg := ctxP c) rfl Ctx.STATE stTear) rfl
  · exact steady_ite (ht.setF_of (plv_not_steady (List.mem_range.mp hk)) _) ht

/-! ## The loss of a port (R27, R321) -/

theorem glbP_steady : steadyPage (glbP.base / 0x1000) := by
  unfold steadyPage
  decide

theorem linkP_steady (p : Fin 4) : steadyPage ((linkP p).base / 0x1000) := by
  unfold steadyPage
  revert p
  decide

/-- A field of another page does not hold the admin port. -/
theorem setF_admin {pg : Page} {f : Fld} (hp : pg.base / 0x1000 ≠ 1) (ho : f.off < 0x1000) (hl : f.lo < 32) (v : Nat) :
    (s.setF pg f v).admin = s.admin := by
  refine setF_f_ne s (fun e => hp ?_) v
  rw [← regKey_page pg ho hl, ← e]
  rfl

theorem linkP_base_ne (p : Fin 4) : (linkP p).base / 0x1000 ≠ 1 := by
  revert p
  decide

/-- The teardown of a port begins: it is busy, and the admin port is as before. -/
theorem losePort_begins {p : Fin 4} (hb : s.on (linkP p) HptLink.TEARDOWN_BUSY = false) :
    (s.losePort p).on (linkP p) HptLink.TEARDOWN_BUSY = true ∧ (s.losePort p).admin = s.admin := by
  let u := s.setB (linkP p) HptLink.TEARDOWN_BUSY true
  have hu : Steady u (s.losePort p) := by
    unfold State.losePort
    rw [hb]
    exact Steady.of_regs ((steady_refl u).beginTear (u.portCtxs p) true) rfl
  constructor
  · have hf : (s.losePort p).f (linkP p) HptLink.TEARDOWN_BUSY = 1 :=
      (hu.f_eq (linkP_steady p) (by decide) (by decide)).trans (setB_f_same s _ _ _)
    unfold State.on
    rw [hf]
    rfl
  · calc (s.losePort p).admin = u.admin := hu.f_eq glbP_steady (by decide) (by decide)
      _ = s.admin := setF_admin (linkP_base_ne p) (by decide) (by decide) _

/-- What comes before the teardown of a lost port: the counter, the link that falls, and D0. -/
def linkLost (s : State) (p : Nat) (flr : Bool) : State :=
  let t := s.bump (linkP p) (if flr then HptLink.FLR_CNT else HptLink.DOWN_CNT)
  (if flr then t else t.dropLink p).setD3 p false

theorem loseLink_eq (s : State) (p : Nat) (flr : Bool) : s.loseLink p flr = (linkLost s p flr).losePort p := rfl

/-- The fields of `HPT_LINK` that the loss of a port changes before its teardown begins. -/
def linkFields (p : Nat) : List (Page × Fld) :=
  [(linkP p, HptLink.FLR_CNT), (linkP p, HptLink.DOWN_CNT), (linkP p, HptLink.UP), (linkP p, HptLink.RATE), (linkP p, HptLink.WIDTH)]

theorem linkLost_sameRegs (s : State) (p : Nat) (flr : Bool) : sameRegs s (linkLost s p flr) (linkFields p) := by
  intro pg f hk
  simp only [linkFields, List.forall_mem_cons] at hk
  obtain ⟨hflr, hdown, hup, hrate, hwidth, -⟩ := hk
  cases flr with
  | true => exact bump_f_ne s hflr 1
  | false =>
    calc (linkLost s p false).f pg f
        = (((s.bump (linkP p) HptLink.DOWN_CNT).setB (linkP p) HptLink.UP false).setF (linkP p) HptLink.RATE 0).f pg f := setF_f_ne _ hwidth 0
      _ = ((s.bump (linkP p) HptLink.DOWN_CNT).setB (linkP p) HptLink.UP false).f pg f := setF_f_ne _ hrate 0
      _ = (s.bump (linkP p) HptLink.DOWN_CNT).f pg f := setB_f_ne _ hup false
      _ = s.f pg f := bump_f_ne s hdown 1

theorem admin_not_linkFields (p : Fin 4) : ∀ e ∈ linkFields p, regKey glbP GlbCtrl.ADMIN_PORT ≠ regKey e.1 e.2 := by
  revert p
  decide

theorem busy_not_linkFields (p : Fin 4) : ∀ e ∈ linkFields p, regKey (linkP p) HptLink.TEARDOWN_BUSY ≠ regKey e.1 e.2 := by
  revert p
  decide

/-- The loss of a port that no teardown holds begins its teardown, and the admin port is as before. -/
theorem loseLink_begins {p : Fin 4} (flr : Bool) (hb : s.on (linkP p) HptLink.TEARDOWN_BUSY = false) :
    (s.loseLink p flr).on (linkP p) HptLink.TEARDOWN_BUSY = true ∧ (s.loseLink p flr).admin = s.admin := by
  have hs := linkLost_sameRegs s p flr
  have hb' : (linkLost s p flr).on (linkP p) HptLink.TEARDOWN_BUSY = false := by
    unfold State.on at hb ⊢
    rwa [hs _ _ (busy_not_linkFields p)]
  obtain ⟨hbusy, hadmin⟩ := losePort_begins hb'
  rw [loseLink_eq]
  exact ⟨hbusy, hadmin.trans (hs _ _ (admin_not_linkFields p))⟩

theorem portLoss_next {p : Fin 4} (why : Loss) (hl : s.live = true) (hu : s.on (linkP p) HptLink.UP = true) :
    exec (.portLoss p why) s = .next ((if why = .perst then s.setPerst p false else s).loseLink p (why = .flr)) := by
  show execPortLoss p why s = _
  unfold execPortLoss act
  rw [hl, hu]
  rfl

/-- A port loss of any kind, PERST# among them, begins the teardown and leaves the admin port (R27). -/
theorem portLoss_begins {p : Fin 4} (why : Loss) (hl : s.live = true) (hu : s.on (linkP p) HptLink.UP = true)
    (hb : s.on (linkP p) HptLink.TEARDOWN_BUSY = false) :
    ∃ t, exec (.portLoss p why) s = .next t ∧ t.on (linkP p) HptLink.TEARDOWN_BUSY = true ∧ t.admin = s.admin := by
  refine ⟨_, portLoss_next why hl hu, ?_⟩
  split
  · exact loseLink_begins (s := s.setPerst p false) _ hb
  · exact loseLink_begins _ hb

/-! ## Writes of the admin port -/

/-- A word that holds fields of which its source may write each is applied, on a page that is implemented and neither in reset nor locked. -/
theorem verdict_apply_of_mayWrite {src : Src} {pg : Page} {off : Nat} (v : Nat) (ho : off < 0x1000) (hp : s.pageAt pg.base = some pg)
    (hb : s.isBusy pg = false) (hl : (s.on pg Hdr.LOCK && pg.kind.lockable) = false) (hsb : src = .sideband → sidebandWord pg off = true)
    (hn : writable pg off ≠ []) (hm : ∀ e ∈ writable pg off, s.mayWrite src pg e.1 = true) : s.verdict src (word pg off v) = .apply := by
  have hq : s.pageAt (word pg off v).addr = some pg := pageAt_off hp ho
  have hoff : (word pg off v).off = off := base_mod pg ho
  have hf : fieldsAt pg.kind off ≠ [] := fun e => hn (by unfold writable; rw [e]; rfl)
  have hside : (decide (src = .sideband) && !sidebandWord pg off) = false := by
    by_cases h : src = .sideband
    · simp [hsb h]
    · simp [h]
  have hall : (writable pg off).any (fun e => !s.mayWrite src pg e.1) = false := List.any_eq_false.mpr fun e he => by simp [hm e he]
  have hbe : (word pg off v).be = 15 := rfl
  unfold State.verdict
  rw [hq]
  simp only [hoff, hside, hf, hb, hn, hbe, hall, hl, if_false, Bool.false_eq_true, and_false, ne_eq, not_true_eq_false, Bool.false_and]

theorem writable_adminPort : writable glbP 0x40 = [(GlbCtrl.ADMIN_PORT, false)] := by decide

/-- What a write of the word `GLB_ADMIN` reaches: the two bits of the admin port. -/
def adminWr (v : BitVec 2) : Wr := { fld := GlbCtrl.ADMIN_PORT, bits := v.toNat, mask := 3 }

theorem wrOf_adminPort (v : BitVec 2) : wrOf .glbCtrl [word glbP 0x40 v.toNat] = [adminWr v] := by
  revert v
  decide

theorem takeWr_adminPort (s : State) (v : BitVec 2) : s.takeWr glbP (adminWr v) = s.setF glbP GlbCtrl.ADMIN_PORT v.toNat := by
  have hlt : s.f glbP GlbCtrl.ADMIN_PORT < 4 := f_lt s _ _
  have h3 : s.f glbP GlbCtrl.ADMIN_PORT &&& 3 = s.f glbP GlbCtrl.ADMIN_PORT :=
    (Nat.and_two_pow_sub_one_eq_mod _ 2).trans (Nat.mod_eq_of_lt hlt)
  have hm : s.merged glbP (adminWr v) = v.toNat := by simp [State.merged, adminWr, h3]
  calc s.takeWr glbP (adminWr v) = s.setF glbP GlbCtrl.ADMIN_PORT (s.merged glbP (adminWr v)) := rfl
    _ = s.setF glbP GlbCtrl.ADMIN_PORT v.toNat := by rw [hm]

/-- A page whose interrupt stands as it stood sends nothing. -/
theorem irqEdge_same (s : State) (pg : Page) : s.irqEdge (s.irqOn pg) pg = s := by simp [State.irqEdge]

theorem setF_adminPort_irqOn (s : State) (v : Nat) : (s.setF glbP GlbCtrl.ADMIN_PORT v).irqOn glbP = s.irqOn glbP := by
  unfold State.irqOn
  rw [setF_f_ne s (by decide), setF_f_ne s (by decide)]

/-- The page's hooks act on other fields of `GLB_CTRL`, so that the field is all that the word changes. -/
theorem applyWords_adminPort (s : State) (src : Src) (v : BitVec 2) :
    s.applyWords src glbP [word glbP 0x40 v.toNat] [] = s.setF glbP GlbCtrl.ADMIN_PORT v.toNat := by
  unfold State.applyWords
  rw [show glbP.kind = .glbCtrl from rfl, wrOf_adminPort]
  dsimp only [List.foldl]
  rw [takeWr_adminPort, ← setF_adminPort_irqOn s v.toNat, irqEdge_same]
  rfl

/-- A write of the admin port by a source that may write it, on its page out of reset, changes that field alone. -/
theorem adminPortWrite_next {src : Src} (v : BitVec 2) (hw : s.writes src (glbP.base / 0x1000) = true) (hb : s.isBusy glbP = false)
    (hm : s.mayWrite src glbP GlbCtrl.ADMIN_PORT = true) :
    exec (.adminPortWrite src v) s = .next (s.setF glbP GlbCtrl.ADMIN_PORT v.toNat) := by
  have hp : s.pageAt glbP.base = some glbP := rfl
  have hv : s.verdict src (word glbP 0x40 v.toNat) = .apply := by
    refine verdict_apply_of_mayWrite _ (by decide) hp hb (Bool.and_false _) (fun _ => by decide) ?_ ?_ <;> rw [writable_adminPort]
    · exact List.cons_ne_nil _ _
    · exact List.forall_mem_singleton.mpr hm
  calc exec (.adminPortWrite src v) s = .next (s.write4 src glbP 0x40 v.toNat) := rfl
    _ = .next (s.applyWords src glbP [word glbP 0x40 v.toNat] []) := by
        rw [write4_apply (by decide) hw (pageAt_off hp (by decide)) hv]
    _ = .next (s.setF glbP GlbCtrl.ADMIN_PORT v.toNat) := by rw [applyWords_adminPort]

/-- A port that may write `GLB_CTRL`, a page that no port owns, is the admin port (R29). -/
theorem admin_of_letsWrite {p : Fin 4} (h : s.letsWrite p glbP = true) : s.admin = p := by
  simpa [State.letsWrite, PageKind.owned, glbP, PageKind.region] using (Bool.and_eq_true_iff.mp h).2

theorem port_adminPortWrite {p : Fin 4} (v : BitVec 2) (h : s.letsWrite p glbP = true) :
    exec (.adminPortWrite (.port p) v) s = .next (s.setF glbP GlbCtrl.ADMIN_PORT v.toNat) := by
  have ha := admin_of_letsWrite h
  simp only [State.letsWrite, Bool.and_eq_true, Bool.not_eq_true'] at h
  obtain ⟨⟨⟨⟨⟨hr, ht⟩, -⟩, hb⟩, -⟩, -⟩ := h
  exact adminPortWrite_next v (by simp [State.writes, hr, ht]) hb (decide_eq_true ha)

theorem sideband_adminPortWrite (v : BitVec 2) (hr : s.reaches .sideband = true) (hc : s.power.inCold = false) (hb : s.isBusy glbP = false) :
    exec (.adminPortWrite .sideband v) s = .next (s.setF glbP GlbCtrl.ADMIN_PORT v.toNat) :=
  adminPortWrite_next v (by unfold State.writes; rw [hr, hc]; rfl) hb rfl

/-! ## The straps at the end of a cold reset (R413, R416) -/

/-- The state at S: the bifurcation is sampled, and start-up begins (R413, R416). -/
def startUp (s : State) (bifur : BitVec 2) : State :=
  { s with pins := { s.pins with bifur := bifur, sysRstLow := false }, power := { now := s.power.now, startAt := s.power.now },
           jtag := { s.jtag with drive := none, floated := false } }

/-- The admin port that the straps name, 0 in place of a port that is not trained (R416). -/
def strapAdmin (s : State) (sel : BitVec 2) : BitVec 2 := if s.portWidth sel.toNat = 0 then 0 else sel

theorem strapAdmin_toNat (s : State) (sel : BitVec 2) : (strapAdmin s sel).toNat = if s.portWidth sel.toNat = 0 then 0 else sel.toNat :=
  apply_ite BitVec.toNat _ _ _

/-- What the end of a cold reset leaves. -/
def strapped (s : State) (bifur sel : BitVec 2) : State :=
  let u := startUp s bifur
  let a := strapAdmin u sel
  ({ u with pins := { u.pins with adminSel := a } } : State).setF glbP GlbCtrl.ADMIN_PORT a.toNat

theorem coldResetEnd_next (bifur sel : BitVec 2) (h : s.coldOver = true) : exec (.coldResetEnd bifur sel) s = .next (strapped s bifur sel) := by
  show execColdResetEnd bifur sel s = _
  unfold execColdResetEnd act
  rw [if_pos h]
  rfl

/-- The lanes of a port follow from the sampled bifurcation alone. -/
theorem strapped_portWidth (s : State) (bifur sel : BitVec 2) (p : Nat) :
    (strapped s bifur sel).portWidth p = (startUp s bifur).portWidth p := rfl

theorem strapped_admin (s : State) (bifur sel : BitVec 2) :
    (strapped s bifur sel).admin = if (strapped s bifur sel).portWidth sel.toNat = 0 then 0 else sel.toNat :=
  calc (strapped s bifur sel).admin = (strapAdmin (startUp s bifur) sel).toNat % 2 ^ 2 := setF_f_same _ _ _ _
    _ = (strapAdmin (startUp s bifur) sel).toNat := Nat.mod_eq_of_lt (BitVec.isLt _)
    _ = _ := by rw [strapAdmin_toNat, strapped_portWidth]

/-- Settles O16. The writes of the admin port reach that field alone; the end of a cold reset writes it from the strap; and what a lost port's
teardown begins writes no field of `GLB_CTRL`. -/
theorem theAdminRoleMoves : Obligations.TheAdminRoleMoves := by
  unfold Obligations.TheAdminRoleMoves
  exact ⟨fun _ _ v h => port_adminPortWrite v h, fun _ v hr hc hb => sideband_adminPortWrite v hr hc hb,
    fun s bifur sel h => ⟨_, coldResetEnd_next bifur sel h, strapped_admin s bifur sel⟩, fun _ _ why hl hu hb => portLoss_begins why hl hu hb⟩

end Sys2Proof.Proofs
end

section
/-! SUPPORT. Operations that change registers and what leaves the module, and nothing else: interrupts, the counted conflicts of the governor, and
the fields of `TKG_WIN` that a schedule sets (R24, R61, R62, R359). -/

namespace Sys2Proof.Proofs
open Sys2Proof Sys2Proof.Machine Sys2Proof.Laws

variable {a s : State}

/-! ## Registers alone -/

/-- `s` is `a` but for registers and what has left the module. -/
def RegsOnly (a s : State) : Prop := s = { a with regs := s.regs, out := s.out }

theorem regsOnly_refl (s : State) : RegsOnly s s := rfl

theorem RegsOnly.trans {t : State} (h : RegsOnly a s) (ht : RegsOnly s t) : RegsOnly a t := by
  unfold RegsOnly at h ht ⊢
  rw [h] at ht
  exact ht

theorem RegsOnly.setF (h : RegsOnly a s) (pg : Page) (f : Fld) (v : Nat) : RegsOnly a (s.setF pg f v) := h.trans rfl

theorem RegsOnly.setB (h : RegsOnly a s) (pg : Page) (f : Fld) (b : Bool) : RegsOnly a (s.setB pg f b) := h.trans rfl

theorem RegsOnly.bump (h : RegsOnly a s) (pg : Page) (f : Fld) (n : Nat) : RegsOnly a (s.bump pg f n) := h.trans rfl

/-- The generator changes in both alike. -/
theorem RegsOnly.setTkg (h : RegsOnly a s) (k : Tkg) : RegsOnly { a with tkg := k } { s with tkg := k } := by
  unfold RegsOnly at h ⊢
  rw [h]

theorem regsOnly_ite {c : Prop} [Decidable c] {t : State} (hs : RegsOnly a s) (ht : RegsOnly a t) : RegsOnly a (if c then s else t) := by
  split <;> assumption

theorem RegsOnly.sendMsix (h : RegsOnly a s) (p v : Nat) : RegsOnly a (s.sendMsix p v) :=
  regsOnly_ite h (regsOnly_ite (h.setF _ _ _) (h.trans rfl))

theorem RegsOnly.irqEdge (h : RegsOnly a s) (was : Bool) (pg : Page) : RegsOnly a (s.irqEdge was pg) := by
  unfold State.irqEdge
  split
  · split
    · exact h.sendMsix _ _
    · exact h
  · exact h

theorem RegsOnly.irq (h : RegsOnly a s) (pg : Page) (bits : Nat) : RegsOnly a (s.irq pg bits) := (h.setF _ _ _).irqEdge _ _

theorem RegsOnly.conflict (h : RegsOnly a s) (cause : Nat) : RegsOnly a (s.conflict cause) :=
  (((h.setB _ _ _).setF _ _ _).bump _ _ _).irq _ _

theorem RegsOnly.checkHot (h : RegsOnly a s) : RegsOnly a s.checkHot :=
  regsOnly_ite ((h.setB _ _ _).conflict _) (h.setB _ _ _)

theorem RegsOnly.tkg (h : RegsOnly a s) : s.tkg = a.tkg := congrArg (·.tkg) h

theorem RegsOnly.mem (h : RegsOnly a s) : s.mem = a.mem := congrArg (·.mem) h

theorem RegsOnly.slices (h : RegsOnly a s) : s.slices = a.slices := congrArg (·.slices) h

theorem RegsOnly.ctxs (h : RegsOnly a s) : s.ctxs = a.ctxs := congrArg (·.ctxs) h

/-! ## What is read of flags and counters, and after an interrupt -/

/-- A one-bit flag reads as it was set. -/
theorem on_setB {pg : Page} {f : Fld} (hw : f.width = 1) (b : Bool) : (s.setB pg f b).on pg f = b := by
  unfold State.on
  rw [setB_f_same, hw]
  cases b <;> rfl

/-- A flag reads as before where its field does. -/
theorem on_of_f {pg : Page} {f : Fld} {t : State} (h : t.f pg f = s.f pg f) : t.on pg f = s.on pg f := by
  unfold State.on
  rw [h]

theorem steady_irqEdge (s : State) (was : Bool) (pg : Page) : Steady s (s.irqEdge was pg) := by
  unfold State.irqEdge
  split
  · split
    · exact (steady_refl s).sendMsix _ (by decide)
    · exact steady_refl s
  · exact steady_refl s

/-- Of a page that no message writes, an interrupt changes at most `IRQ_STAT`. -/
theorem irq_f {pg q : Page} {f : Fld} (hq : steadyPage (q.base / 0x1000)) (ho : f.off < 0x1000) (hl : f.lo < 32)
    (hk : regKey q f ≠ regKey pg Hdr.IRQ_STAT) (bits : Nat) : (s.irq pg bits).f q f = s.f q f :=
  ((steady_irqEdge _ _ pg).f_eq hq ho hl).trans (setF_f_ne s hk _)

/-- The bits that an interrupt raises stand in the page's status, and those that stood. -/
theorem irq_stat {pg : Page} (hq : steadyPage (pg.base / 0x1000)) (bits : Nat) :
    (s.irq pg bits).f pg Hdr.IRQ_STAT = (s.f pg Hdr.IRQ_STAT ||| (bits &&& pg.kind.irqBits)) % 2 ^ 32 :=
  ((steady_irqEdge _ _ pg).f_eq hq (by decide) (by decide)).trans (setF_f_same s _ _ _)

theorem irq_stat_testBit {pg : Page} (hq : steadyPage (pg.base / 0x1000)) (bits : Nat) {i : Nat} (hi : i < 32) :
    ((s.irq pg bits).f pg Hdr.IRQ_STAT).testBit i = ((s.f pg Hdr.IRQ_STAT).testBit i || (bits &&& pg.kind.irqBits).testBit i) := by
  rw [irq_stat hq, Nat.testBit_mod_two_pow, decide_eq_true hi, Bool.true_and, Nat.testBit_or]

theorem satN_mod (w v : Nat) : satN w v % 2 ^ w = satN w v :=
  Nat.mod_eq_of_lt (Nat.lt_of_le_of_lt (Nat.min_le_right _ _) (Nat.sub_lt (Nat.two_pow_pos w) Nat.one_pos))

/-- A counter that saturates, where its page raises an interrupt with it. -/
theorem bump_irq_f {pg : Page} {f : Fld} (hq : steadyPage (pg.base / 0x1000)) (ho : f.off < 0x1000) (hl : f.lo < 32)
    (hk : regKey pg f ≠ regKey pg Hdr.IRQ_STAT) (bits : Nat) : ((s.bump pg f).irq pg bits).f pg f = satN f.width (s.f pg f + 1) :=
  (irq_f hq ho hl hk bits).trans ((bump_f_same s pg f 1).trans (satN_mod _ _))

theorem srcP_steady : steadyPage (srcP.base / 0x1000) := by
  unfold steadyPage
  decide

theorem winP_steady : steadyPage (winP.base / 0x1000) := by
  unfold steadyPage
  decide

/-! ## The fields that a schedule sets -/

/-- Fields of `TKG_WIN` are set, one after the other. -/
def putWin (s : State) (l : List (Fld × Nat)) : State := l.foldl (fun s e => s.setF winP e.1 e.2) s

/-- What `State.activate` writes. -/
def activeSet (c : Sched) : List (Fld × Nat) :=
  [(TkgWin.COMMIT_PENDING, 0), (TkgWin.ACT_PERIOD, c.period), (TkgWin.ACT_CSTART, c.cstart), (TkgWin.ACT_CEND, c.cend), (TkgWin.ACT_GEND, c.gend),
    (TkgWin.ACT_DECISION_OFFSET, c.dec), (TkgWin.ACT_TOL, c.tol)]

/-- What `State.publish` writes. -/
def derivedSet (c : Sched) : List (Fld × Nat) :=
  [(TkgWin.GMIN_0, gMin c.period 0), (TkgWin.GMIN_1, gMin c.period 1), (TkgWin.COMPUTE_CERT_NS, c.computeCert), (TkgWin.HOST_CERT_NS, c.hostCert),
    (TkgWin.POINT_COUNT, c.points.length), (TkgWin.LONG_MODE, b2n (longMode c.period))]

def activeFields : List Fld :=
  [TkgWin.COMMIT_PENDING, TkgWin.ACT_PERIOD, TkgWin.ACT_CSTART, TkgWin.ACT_CEND, TkgWin.ACT_GEND, TkgWin.ACT_DECISION_OFFSET, TkgWin.ACT_TOL]

def derivedFields : List Fld :=
  [TkgWin.GMIN_0, TkgWin.GMIN_1, TkgWin.COMPUTE_CERT_NS, TkgWin.HOST_CERT_NS, TkgWin.POINT_COUNT, TkgWin.LONG_MODE]

theorem activeSet_fst (c : Sched) : (activeSet c).map Prod.fst = activeFields := rfl

theorem derivedSet_fst (c : Sched) : (derivedSet c).map Prod.fst = derivedFields := rfl

theorem publish_eq (s : State) : s.publish = putWin s (derivedSet s.sched) := rfl

theorem activate_eq (s : State) (c : Sched) :
    s.activate c = (putWin { s with tkg := { s.tkg with pendSched := none } } (activeSet c)).publish := rfl

theorem RegsOnly.putWin (h : RegsOnly a s) (l : List (Fld × Nat)) : RegsOnly a (putWin s l) :=
  List.foldlRecOn (motive := RegsOnly a) l _ h fun _ ht e _ => ht.setF _ e.1 e.2

theorem RegsOnly.publish (h : RegsOnly a s) : RegsOnly a s.publish := h.putWin _

/-- A field with another key than those set reads as before. -/
theorem putWin_f_ne {l : List (Fld × Nat)} {q : Page} {f : Fld} (h : ∀ g ∈ l.map Prod.fst, regKey q f ≠ regKey winP g) :
    (putWin s l).f q f = s.f q f :=
  List.foldlRecOn (motive := fun t => t.f q f = s.f q f) l _ rfl fun t ht _ he =>
    (setF_f_ne t (h _ (List.mem_map_of_mem he)) _).trans ht

theorem publish_f_ne {q : Page} {f : Fld} (h : ∀ g ∈ derivedFields, regKey q f ≠ regKey winP g) : s.publish.f q f = s.f q f := by
  rw [publish_eq]
  exact putWin_f_ne (by rwa [derivedSet_fst])

/-- Of fields with different keys, each reads as what was written to it. -/
theorem putWin_f_mem {l : List (Fld × Nat)} (h : ((l.map Prod.fst).map (regKey winP)).Nodup) {f : Fld} {v : Nat} (he : (f, v) ∈ l) :
    (putWin s l).f winP f = v % 2 ^ f.width := by
  induction l generalizing s with
  | nil => cases he
  | cons e l ih =>
    obtain ⟨hne, hl⟩ := List.nodup_cons.mp h
    rcases List.mem_cons.mp he with rfl | he
    · exact (putWin_f_ne fun g hg hk => hne (hk ▸ List.mem_map_of_mem hg)).trans (setF_f_same s _ _ _)
    · exact ih hl he

end Sys2Proof.Proofs
end

section
/-! SUPPORT. What the acts of a tick edge leave alone: every state component that no act of an edge names (`Apart.rest`), and the registers of the
page `TKG_SRC`, which an edge writes only where it says so (`Apart.regs`). One lemma for each shared operation, in the order of their definitions. -/

namespace Sys2Proof.Proofs
open Sys2Proof Sys2Proof.Machine Sys2Proof.Laws

variable {a s : State}

/-! ## The relation -/

/-- The state without what the acts of an edge may change: pins, registers, what leaves the module, memory, bank units, slices, contexts, commands,
groups, the governor, the records, and of the generator what it holds to apply or to offer. -/
def edgeRest (s : State) : State :=
  { s with pins := {}, regs := [], out := [], mem := [], syn := [], repairs := [], bus := [], buSt := [], slices := [], ctxs := [], cmds := [],
           grps := [], gov := {}, rel := {},
           tkg := { s.tkg with pendSched := none, pendBand := none, accruedAt := 0, decDue := none, offerAt := none } }

/-- `s` has what an edge leaves alone of `a`, and its registers of `TKG_SRC`. -/
structure Apart (a s : State) : Prop where
  rest : edgeRest s = edgeRest a
  regs : ∀ k, k / 0x8000 = 0x10 → ∀ d, spGet d s.regs k = spGet d a.regs k

theorem apart_refl (s : State) : Apart s s := ⟨rfl, fun _ _ _ => rfl⟩

theorem Apart.of_eq {t : State} (h : Apart a s) (hr : edgeRest t = edgeRest s) (hg : t.regs = s.regs) : Apart a t :=
  ⟨hr.trans h.rest, hg ▸ h.regs⟩

theorem apart_ite {c : Prop} [Decidable c] {t : State} (hs : Apart a s) (ht : Apart a t) : Apart a (if c then s else t) := by
  split <;> assumption

theorem apart_fold {β : Type} {g : State → β → State} {l : List β} (h : Apart a s) (hg : ∀ s x, Apart a s → Apart a (g s x)) :
    Apart a (l.foldl g s) :=
  List.foldlRecOn (motive := Apart a) l g h fun s hs x _ => hg s x hs

theorem apart_foldFst {β γ : Type} {g : State × γ → β → State × γ} {l : List β} {p : State × γ} (h : Apart a p.1)
    (hg : ∀ p x, Apart a p.1 → Apart a (g p x).1) : Apart a (l.foldl g p).1 :=
  List.foldlRecOn (motive := fun p => Apart a p.1) l g h fun p hp x _ => hg p x hp

theorem Apart.time (h : Apart a s) : s.time = a.time := congrArg (·.time) h.rest

theorem Apart.phase (h : Apart a s) : s.tkg.phase = a.tkg.phase := congrArg (·.tkg.phase) h.rest

theorem Apart.edgeAt (h : Apart a s) : s.tkg.edgeAt = a.tkg.edgeAt := congrArg (·.tkg.edgeAt) h.rest

theorem Apart.pointsDone (h : Apart a s) : s.tkg.pointsDone = a.tkg.pointsDone := congrArg (·.tkg.pointsDone) h.rest

theorem Apart.objects (h : Apart a s) : sameObjects a s :=
  ⟨congrArg (·.tpages) h.rest, congrArg (·.zoneCount) h.rest, congrArg (·.objInfo) h.rest, congrArg (·.hib) h.rest,
    congrArg (·.ports) h.rest, congrArg (·.ustore) h.rest, congrArg (·.held) h.rest, congrArg (·.plv.routines) h.rest,
    congrArg (·.plv.uprogs) h.rest⟩

/-- A field of `TKG_SRC` reads as before. -/
theorem Apart.f_eq (h : Apart a s) {f : Fld} (ho : f.off < 0x1000) (hl : f.lo < 32) : s.f srcP f = a.f srcP f :=
  congrArg (· % 2 ^ f.width) (h.regs _ (regKey_page srcP ho hl) _)

/-! ## Registers and interrupts -/

/-- A field lies outside the page `TKG_SRC`. -/
abbrev offSource (pg : Page) (f : Fld) : Prop := regKey pg f / 0x8000 ≠ 0x10

theorem offSource_of_isHigh {pg : Page} {f : Fld} (h : isHigh pg = true) : offSource pg f := by
  have hb := base_of_isHigh h
  unfold offSource regKey
  omega

theorem Apart.setF {pg : Page} {f : Fld} (h : Apart a s) (hk : offSource pg f) (v : Nat) : Apart a (s.setF pg f v) := by
  refine ⟨h.rest, fun k hs d => ?_⟩
  have hne : k ≠ regKey pg f := fun e => hk (e ▸ hs)
  exact (spGet_put_ne _ _ _ hne _).trans (h.regs k hs d)

theorem Apart.setB {pg : Page} {f : Fld} (h : Apart a s) (hk : offSource pg f) (b : Bool) : Apart a (s.setB pg f b) := h.setF hk _

theorem Apart.bump {pg : Page} {f : Fld} (h : Apart a s) (hk : offSource pg f) (n : Nat) : Apart a (s.bump pg f n) := h.setF hk _

theorem Apart.setMem (h : Apart a s) (m : List Host.Cell) (y : Sp (BitVec 16)) : Apart a { s with mem := m, syn := y } := h.of_eq rfl rfl
theorem Apart.setRel (h : Apart a s) (r : Rel) : Apart a { s with rel := r } := h.of_eq rfl rfl
theorem Apart.setRepairs (h : Apart a s) (q : Sp (List Repair)) : Apart a { s with repairs := q } := h.of_eq rfl rfl
theorem Apart.setBus (h : Apart a s) (l : List BuCmd) : Apart a { s with bus := l } := h.of_eq rfl rfl
theorem Apart.setGov (h : Apart a s) (g : Gov) : Apart a { s with gov := g } := h.of_eq rfl rfl
theorem Apart.setPins (h : Apart a s) (p : Pins) : Apart a { s with pins := p } := h.of_eq rfl rfl
theorem Apart.offer (h : Apart a s) : Apart a s.offer := h.of_eq rfl rfl
theorem Apart.emit (h : Apart a s) (o : Out) : Apart a (s.emit o) := h.of_eq rfl rfl
theorem Apart.setSlice (h : Apart a s) (n : Nat) (x : Slice) : Apart a (s.setSlice n x) := h.of_eq rfl rfl
theorem Apart.modSlice (h : Apart a s) (n : Nat) (g : Slice → Slice) : Apart a (s.modSlice n g) := h.of_eq rfl rfl
theorem Apart.modCx (h : Apart a s) (c : Nat) (g : Ctx → Ctx) : Apart a (s.modCx c g) := h.of_eq rfl rfl
theorem Apart.modBu (h : Apart a s) (k : Nat) (g : BuState → BuState) : Apart a (s.modBu k g) := h.of_eq rfl rfl
theorem Apart.modGrp (h : Apart a s) (g : Nat) (x : Grp → Grp) : Apart a (s.modGrp g x) := h.of_eq rfl rfl
theorem Apart.finishCmd (h : Apart a s) (id status r d : Nat) : Apart a (s.finishCmd id status r d) := h.of_eq rfl rfl

/-- Registers change, and of them none of a page that stays steady, as `TKG_SRC` is one. -/
theorem Apart.of_regsOnly {t : State} (h : Apart a s) (hr : RegsOnly s t) (hs : Steady s t) : Apart a t := by
  refine ⟨Eq.trans (congrArg edgeRest hr) h.rest, fun k hk d => (hs k ?_ d).trans (h.regs k hk d)⟩
  rw [hk]
  exact srcP_steady

theorem Apart.irq {pg : Page} (h : Apart a s) (hk : offSource pg Hdr.IRQ_STAT) (bits : Nat) : Apart a (s.irq pg bits) :=
  (h.setF hk _).of_regsOnly ((regsOnly_refl _).irqEdge _ pg) (steady_irqEdge _ _ pg)

end Sys2Proof.Proofs
end

section
/-! SUPPORT. What the acts of a tick edge leave alone, continued: records, device memory, slices, programs and the cut of a host segment. -/

namespace Sys2Proof.Proofs
open Sys2Proof Sys2Proof.Machine Sys2Proof.Laws

variable {a s : State}

/-! ## Device memory and records -/

theorem Apart.dropRepairs (h : Apart a s) (lo hi : Nat) : Apart a (s.dropRepairs lo hi) := by
  unfold State.dropRepairs
  exact apart_ite h (h.setRepairs _)

theorem Apart.dropHeldTiles (h : Apart a s) (lo hi n : Nat) : Apart a (s.dropHeldTiles lo hi n) := by
  unfold State.dropHeldTiles
  dsimp only
  exact apart_ite h ((h.setSlice _ _).bump (offSource_of_isHigh rfl) _)

theorem Apart.dropHeldDots (h : Apart a s) (lo hi : Nat) : Apart a (s.dropHeldDots lo hi) := by
  unfold State.dropHeldDots
  exact apart_ite h (apart_fold (h.setBus _) fun _ _ ht => ht.bump (offSource_of_isHigh rfl) _)

theorem Apart.wrote (h : Apart a s) (lo hi : Nat) : Apart a (s.wrote lo hi) :=
  apart_fold ((h.dropRepairs lo hi).dropHeldDots lo hi) fun _ n ht => ht.dropHeldTiles lo hi n

theorem Apart.putBeats (h : Apart a s) (bank : Bool) (x : Nat) (l : List Byte) : Apart a (s.putBeats bank x l) :=
  apart_fold h fun _ _ ht => (ht.wrote _ _).setMem _ _

theorem Apart.record (h : Apart a s) (r : Record) : Apart a (s.record r) := by
  unfold State.record
  dsimp only
  split
  · exact h.bump (by decide) _
  split
  · exact h
  split
  · exact (h.setRel _).bump (by decide) _
  split
  · exact (h.bump (by decide) _).irq (by decide) _
  · exact (((h.putBeats _ _ _).setRel _).setF (by decide) _).irq (by decide) _

theorem Apart.queueRepair (h : Apart a s) (ba : Nat) (l : List Byte) : Apart a (s.queueRepair ba l) := by
  unfold State.queueRepair
  exact apart_ite (h.setRepairs _) (h.bump (offSource_of_isHigh rfl) _)

theorem Apart.eccReport (h : Apart a s) (rd : Reader) (ba : Nat) (syn : BitVec 16) (cls : Nat) (fixed : List Byte) :
    Apart a (s.eccReport rd ba syn cls fixed) := by
  have hk : ∀ f, offSource ⟨.stkEcc, ba >>> 33, 0⟩ f := fun _ => offSource_of_isHigh rfl
  have h1 := ((((((h.bump (hk (if cls = 3 then StkEcc.UE_CNT else StkEcc.CE_CNT)) 1).setF (hk StkEcc.LAST_ADDR) ba).setF
    (hk StkEcc.LAST_SYN) syn.toNat).setF (hk StkEcc.LAST_CLASS) cls).setF (hk StkEcc.LAST_SRC) rd.src).setF (hk StkEcc.LAST_UNIT)
    (if rd.src = 4 then rd.unit else 0)).irq (hk _) (if cls = 3 then 4 else 2)
  exact (apart_ite h1 (h1.queueRepair _ _)).record _

theorem Apart.readBeat (h : Apart a s) (rd : Reader) (ba : Nat) : Apart a (s.readBeat rd ba).1 := by
  unfold State.readBeat
  dsimp only
  split
  · exact h
  · exact apart_ite h (h.eccReport _ _ _ _ _)

theorem Apart.readMem (h : Apart a s) (rd : Reader) (bank : Bool) (x n : Nat) : Apart a (s.readMem rd bank x n).1 :=
  apart_foldFst h fun _ _ hp => apart_foldFst hp fun _ _ hq => hq.readBeat rd _

theorem Apart.noteRead (h : Apart a s) (rd : Reader) (bank : Bool) (x n : Nat) : Apart a (s.noteRead rd bank x n) :=
  apart_ite h (h.readMem _ _ _ _)

theorem Apart.storeBeat (h : Apart a s) (beat : Nat) (l : List Byte) (syn : BitVec 16) : Apart a (s.storeBeat beat l syn) :=
  (h.wrote beat (beat + 1)).setMem _ _

theorem Apart.writeBeat (h : Apart a s) (beat off : Nat) (l : List Byte) (bad poison : Bool) (rmw : Reader) :
    Apart a (s.writeBeat beat off l bad poison rmw) := by
  have h1 : Apart a (if bad then s.bump ⟨.stkEcc, (beat * 32) >>> 33, 0⟩ StkEcc.WPAR_CNT else s) :=
    apart_ite (h.bump (offSource_of_isHigh rfl) _) h
  unfold State.writeBeat
  exact apart_ite (h1.storeBeat _ _ _) ((h1.readBeat rmw _).storeBeat _ _ _)

theorem Apart.writeMem (h : Apart a s) (bank : Bool) (x : Nat) (l : List Byte) (bad poison : Bool) : Apart a (s.writeMem bank x l bad poison) :=
  apart_fold h fun _ _ ht => apart_fold ht fun _ _ hu => hu.writeBeat _ _ _ _ _ _

theorem Apart.noteWalk (h : Apart a s) (c va : Nat) : Apart a (s.noteWalk c va) := by
  unfold State.noteWalk
  split
  · exact h
  split
  · exact h
  · exact apart_ite ((h.noteRead _ _ _ _).noteRead _ _ _ _) (h.noteRead _ _ _ _)

theorem Apart.writeVa (h : Apart a s) (c va : Nat) (l : List Byte) (poison : Bool) : Apart a (s.writeVa c va l poison) := by
  refine apart_fold h fun t e ht => ?_
  dsimp only
  split
  · exact (ht.noteWalk c _).writeMem _ _ _ _ _
  · exact ht.noteWalk c _

/-! ## The stores of a slice -/

theorem Apart.storeGroup (h : Apart a s) (l : List (Nat × WByte)) : Apart a (s.storeGroup l) := by
  unfold State.storeGroup
  split
  · exact h
  · refine Apart.storeBeat ?_ _ _ _
    generalize List.all _ _ = full
    cases full
    · exact h.readBeat _ _
    · exact h

theorem Apart.storeBytes (h : Apart a s) (c : Nat) (w : List WByte) : Apart a (s.storeBytes c w) :=
  apart_fold (apart_fold h fun _ _ ht => ht.noteWalk c _) fun _ g ht => ht.storeGroup g

theorem Apart.openBanks (h : Apart a s) (n c va len : Nat) : Apart a (s.openBanks n c va len) := by
  unfold State.openBanks State.noteBanks
  exact h.modSlice _ _

theorem Apart.applyStore (h : Apart a s) (n c : Nat) (t : Xfer) (w : List WByte) (flags : List (Nat × Nat)) :
    Apart a (s.applyStore n c t w flags) :=
  apart_fold (apart_fold (h.storeBytes c w) fun _ b ht => ht.openBanks n c b.at_ 1) fun _ _ ht =>
    (ht.bump (offSource_of_isHigh rfl) _).record _

theorem Apart.finishStores (h : Apart a s) (n : Nat) : Apart a (s.finishStores n) := by
  refine apart_fold h fun t x ht => ?_
  split
  · exact apart_ite (ht.applyStore _ _ _ _ _) ht
  · exact ht.modSlice _ _
  · exact ht

/-! ## Stopping a program, and what runs ahead of it -/

theorem Apart.dropStaging (h : Apart a s) (n : Nat) : Apart a (s.dropStaging n) := by
  unfold State.dropStaging
  split
  · exact h
  · exact (h.modSlice _ _).bump (by decide) _

theorem Apart.stopSlice (h : Apart a s) (n : Nat) : Apart a (s.stopSlice n) := by
  have h1 : Apart a (if (s.slice n).ext = [] then s else s.emit (.extKill n)) := apart_ite h (h.emit _)
  exact ((h1.finishStores n).modSlice n _).dropStaging n

theorem Apart.dropFlits (h : Apart a s) (c : BuCmd) : Apart a (s.dropFlits c) := apart_fold h fun _ _ ht => apart_ite (ht.modBu _ _) ht

theorem Apart.cancelBus (h : Apart a s) (ctx : Nat) (who : Issuer → Bool) : Apart a (s.cancelBus ctx who) :=
  (apart_fold h fun _ c ht => ht.dropFlits c).setBus _

theorem Apart.stopGang (h : Apart a s) (c : Nat) : Apart a (s.stopGang c) := by
  have h1 : Apart a (if s.isStream c || s.running c = [] then s else s.offer) := apart_ite h h.offer
  unfold State.stopGang
  exact (((apart_fold h1 fun _ n ht => ht.stopSlice n).cancelBus c _).setF (pg := ctxP c) (offSource_of_isHigh rfl) 0).modCx c _

theorem Apart.discardTiles (h : Apart a s) (n : Nat) (gone : RaTile → Bool) : Apart a (s.discardTiles n gone) := by
  unfold State.discardTiles
  dsimp only
  exact apart_ite h ((h.setSlice _ _).bump (offSource_of_isHigh rfl) _)

theorem Apart.discardDots (h : Apart a s) (c : Nat) (gone : BuCmd → Bool) : Apart a (s.discardDots c gone) :=
  apart_fold (h.setBus _) fun _ b ht => ht.bump (pg := perfP b.slice) (offSource_of_isHigh rfl) _

theorem Apart.cancelRa (h : Apart a s) (c : Nat) (slices : List Nat) : Apart a (s.cancelRa c slices) := by
  unfold State.cancelRa
  exact ((apart_fold h fun _ n ht => (ht.discardTiles n _).modSlice n _).discardDots c _).modCx c _

theorem Apart.stepEpoch (h : Apart a s) (c : Nat) (slices : List Nat) : Apart a (s.stepEpoch c slices) := by
  unfold State.stepEpoch
  exact ((apart_fold h fun _ n ht => ht.discardTiles n _).discardDots c _).modCx c _

theorem Apart.stopProgram (h : Apart a s) (c : Nat) : Apart a (s.stopProgram c) := (h.stopGang c).cancelRa c _

/-! ## The cut of a host segment (R70) -/

theorem Apart.captureDumps (h : Apart a s) (c : Nat) : Apart a (s.captureDumps c) := apart_fold h fun _ n ht => ht.modSlice n _

theorem Apart.haltHost (h : Apart a s) (c : Nat) : Apart a (s.haltHost c) := by
  have h1 := (h.captureDumps c).stopGang c
  unfold State.haltHost
  dsimp only
  split
  · exact (h1.finishCmd _ _ _ _).modCx c _
  · exact h1

theorem Apart.cutHost (h : Apart a s) (c : Nat) : Apart a (s.cutHost c) := by
  refine Apart.irq (Apart.bump ?_ (by decide) _) (by decide) _
  exact apart_ite (h.modCx c _) (apart_ite (h.haltHost c) ((h.stopProgram c).modCx c _))

theorem Apart.cutHosts (h : Apart a s) : Apart a s.cutHosts := apart_fold h fun _ c ht => ht.cutHost c

end Sys2Proof.Proofs
end

section
/-! SUPPORT. What the acts of a tick edge leave alone, continued: the schedule, the governor, the stream link, and what begins with a tick. -/

namespace Sys2Proof.Proofs
open Sys2Proof Sys2Proof.Machine Sys2Proof.Laws

variable {a s : State}

/-- Of the generator, a change of what it holds to apply or to offer. -/
theorem Apart.setHeld (h : Apart a s) (c : Option Sched) (b : Option Nat) (n : Nat) (d : Option Nat) :
    Apart a { s with tkg := { s.tkg with pendSched := c, pendBand := b, accruedAt := n, decDue := d } } := h.of_eq rfl rfl

/-! ## The schedule and the band (R55, R61, R62) -/

theorem Apart.putWin (h : Apart a s) {l : List (Fld × Nat)} (hl : ∀ f ∈ l.map Prod.fst, offSource winP f) : Apart a (putWin s l) :=
  List.foldlRecOn (motive := Apart a) l _ h fun _ ht _ he => ht.setF (hl _ (List.mem_map_of_mem he)) _

theorem Apart.publish (h : Apart a s) : Apart a s.publish := by
  rw [publish_eq]
  refine h.putWin ?_
  rw [derivedSet_fst]
  decide

theorem Apart.activate (h : Apart a s) (c : Sched) : Apart a (s.activate c) := by
  rw [activate_eq]
  refine Apart.publish (Apart.putWin (h.setHeld none _ _ _) ?_)
  rw [activeSet_fst]
  decide

theorem Apart.activatePending (h : Apart a s) : Apart a s.activatePending := by
  unfold State.activatePending
  split
  · exact h.activate _
  · exact h

theorem Apart.conflict (h : Apart a s) (cause : Nat) : Apart a (s.conflict cause) :=
  (((h.setB (by decide) _).setF (by decide) _).bump (by decide) _).irq (by decide) _

theorem Apart.checkHot (h : Apart a s) : Apart a s.checkHot := by
  have h1 := h.setB (pg := winP) (f := TkgWin.HOT_EXHAUSTED) (by decide)
  exact apart_ite ((h1 _).conflict _) (h1 _)

theorem Apart.applyBand (h : Apart a s) : Apart a s.applyBand := by
  unfold State.applyBand
  split
  · exact h.checkHot
  · exact ((h.setHeld _ none _ _).setF (by decide) _).checkHot

/-! ## The governor (R354, R357) -/

theorem Apart.setHostDuty (h : Apart a s) (d : Nat) : Apart a (s.setHostDuty d) := by
  have h1 := h.setF (pg := govP) (f := MgtGov.HOST_DUTY) (by decide) d
  exact apart_ite (h1.conflict _) h1

theorem Apart.applyDuties (h : Apart a s) : Apart a s.applyDuties := by
  have h1 := h.setGov { s.gov with pendBuDuty := none, pendHostDuty := none }
  unfold State.applyDuties
  dsimp only
  cases s.gov.pendBuDuty with
  | none =>
    cases s.gov.pendHostDuty with
    | none => exact h1
    | some d => exact h1.setHostDuty d
  | some b =>
    cases s.gov.pendHostDuty with
    | none => exact h1.setF (by decide) b
    | some d => exact (h1.setF (by decide) b).setHostDuty d

theorem Apart.shed (h : Apart a s) (g : Nat) : Apart a (s.shed g) :=
  Apart.conflict (((((h.setF (by decide) _).setGov _).bump (by decide) _).irq (by decide) _)) _

theorem Apart.raiseClock (h : Apart a s) : Apart a s.raiseClock := apart_ite ((h.setF (by decide) _).setGov _) h

theorem Apart.governEdge (h : Apart a s) : Apart a s.governEdge := by
  have h1 := h.applyDuties
  unfold State.governEdge
  dsimp only
  split
  · split
    · split
      · exact h1
      · split
        · exact apart_ite (h1.shed _) ((h1.shed _).setGov _)
        · exact apart_ite h1 (h1.setGov _)
    · exact h1
  · split
    · exact h1
    · split
      · exact Apart.raiseClock ((h1.setF (by decide) _).setGov _)
      · exact h1

/-! ## The stream link at the edge (R333 to R341) -/

theorem Apart.sibWrite (h : Apart a s) (g va : Nat) (l : List Byte) : Apart a (s.sibWrite g va l) := apart_ite h (h.writeVa _ _ _ _)

theorem Apart.unhold (h : Apart a s) (c : Nat) : Apart a (s.unhold c) :=
  (h.setB (pg := ctxP c) (offSource_of_isHigh rfl) _).setB (pg := ctxP c) (offSource_of_isHigh rfl) _

theorem Apart.detachEdge (h : Apart a s) (g : Nat) : Apart a (s.detachEdge g) := by
  unfold State.detachEdge
  split
  · exact h
  · exact (((h.setB (offSource_of_isHigh rfl) _).modGrp g _).unhold g).finishCmd _ _ _ _

theorem Apart.closeFrame (h : Apart a s) (g : Nat) : Apart a (s.closeFrame g) := by
  have hk : ∀ f, offSource (grpP g) f := fun _ => offSource_of_isHigh rfl
  unfold State.closeFrame
  refine apart_ite (h.modGrp g _) (Apart.modGrp ?_ g _)
  have h1 := fun b x => (apart_ite (c := b = true) ((h.bump (hk SibGrp.SEG_LATE) 1).modGrp g x) h)
  have h2 := fun b x va l => ((h1 b x).sibWrite g va l).bump (hk SibGrp.FRAMES) 1
  have h3 := fun b x va l p => apart_ite (c := p = true) ((h2 b x va l).bump (hk SibGrp.FRAMES_PARTIAL) 1) (h2 b x va l)
  exact apart_ite (((h3 _ _ _ _ _).bump (hk SibGrp.FRAMES_MISSING) 1).irq (hk _) 2) (h3 _ _ _ _ _)

theorem Apart.formDecision (h : Apart a s) (g : Nat) : Apart a (s.formDecision g) := by
  unfold State.formDecision
  split
  · exact (h.setF (offSource_of_isHigh rfl) _).modGrp g _
  · exact h.modGrp g _

theorem Apart.endLink (h : Apart a s) : Apart a s.endLink :=
  (apart_fold h fun _ g ht => ((ht.formDecision g).closeFrame g).detachEdge g).setHeld _ _ _ _

theorem Apart.attachEdge (h : Apart a s) (g : Nat) : Apart a (s.attachEdge g) := by
  unfold State.attachEdge
  split
  · exact h
  · exact apart_fold ((h.setB (offSource_of_isHigh rfl) _).modGrp g _).raiseClock fun _ id ht => ht.finishCmd id _ _ _

theorem Apart.latchLink (h : Apart a s) : Apart a s.latchLink := (apart_fold h fun _ g ht => ht.modGrp g _).setPins _

theorem Apart.restTrig (h : Apart a s) (j : Nat) : Apart a (s.restTrig j) := apart_ite (h.setPins _) h

theorem Apart.evalTx (h : Apart a s) (g : Nat) : Apart a (s.evalTx g) := by
  unfold State.evalTx
  exact ((h.setB (offSource_of_isHigh rfl) _).setB (offSource_of_isHigh rfl) _).modGrp g _

theorem Apart.openFrame (h : Apart a s) (g t : Nat) : Apart a (s.openFrame g t) := by
  unfold State.openFrame State.modFrame
  exact h.modGrp g _

theorem Apart.beginLink (h : Apart a s) (t : Nat) : Apart a (s.beginLink t) :=
  apart_fold (apart_fold h.latchLink fun _ j ht => ht.restTrig j) fun _ g ht => by
    have h1 := ht.attachEdge g
    refine Apart.evalTx ?_ g
    exact apart_ite (h1.openFrame g t) h1

theorem Apart.stopLink (h : Apart a s) : Apart a s.stopLink :=
  apart_fold (apart_fold h.latchLink fun _ j ht => ht.restTrig j) fun _ g ht => (ht.modGrp g _).evalTx g

/-! ## What begins with a tick (R54, R70, R346, R395, R396) -/

theorem Apart.hold (h : Apart a s) (c byRule : Nat) : Apart a (s.hold c byRule) := by
  have hk : ∀ f, offSource (ctxP c) f := fun _ => offSource_of_isHigh rfl
  exact (((h.setB (hk _) _).setF (hk _) _).irq (hk _) _).record _

theorem Apart.startRecord (h : Apart a s) (shed c : Nat) : Apart a (s.startRecord shed c) := by
  have h1 : Apart a (if (s.cx c).resumeReq then (s.unhold c).setF (ctxP c) Ctx.CONSEC 0 else s) :=
    apart_ite ((h.unhold c).setF (offSource_of_isHigh rfl) _) h
  unfold State.startRecord
  exact Apart.modCx (apart_ite h1 (apart_ite (h1.hold c 1) (apart_ite (h1.hold c 0) h1))) c _

theorem Apart.precharge (h : Apart a s) (n : Nat) : Apart a (s.precharge n) := by
  unfold State.precharge
  exact (apart_fold h fun _ k ht => ht.modBu k _).modSlice n _

theorem Apart.switchTo (h : Apart a s) (c : Nat) (slices : List Nat) : Apart a (s.switchTo c slices) :=
  apart_fold (apart_fold h fun _ d ht => ht.cancelRa d _) fun _ n ht => (ht.precharge n).modSlice n _

theorem Apart.clearPinned (h : Apart a s) (c : Nat) (p : Program) : Apart a (s.clearPinned c p) := by
  have h1 := h.switchTo c p.gang
  exact apart_fold ((apart_ite (h1.stepEpoch c p.gang) (h1.cancelRa c p.gang)).modCx c _) fun _ n ht => ht.modSlice n _

theorem Apart.riseTickOut (h : Apart a s) : Apart a s.riseTickOut := apart_ite h (h.setPins _)

end Sys2Proof.Proofs
end

section
/-! SUPPORT. Tick edges (03_tick.md: R49 to R54): what an edge of any kind leaves, that it begins the next tick while `RUN` stands and stops the
generator without it, and what each of the four commands that make an edge, or find none, does with it. -/

namespace Sys2Proof.Proofs
open Sys2Proof Sys2Proof.Machine Sys2Proof.Laws

variable {s : State}

/-! ## What is left but for named fields of `TKG_SRC` -/

theorem sameObjects_trans {t u : State} (h : sameObjects s t) (k : sameObjects t u) : sameObjects s u := by
  obtain ⟨h1, h2, h3, h4, h5, h6, h7, h8, h9⟩ := h
  obtain ⟨k1, k2, k3, k4, k5, k6, k7, k8, k9⟩ := k
  exact ⟨k1.trans h1, k2.trans h2, k3.trans h3, k4.trans h4, k5.trans h5, k6.trans h6, k7.trans h7, k8.trans h8, k9.trans h9⟩

/-- A field of `TKG_SRC` other than those listed. -/
abbrev otherThan (l : List Fld) (f : Fld) : Prop := f.off < 0x1000 ∧ f.lo < 32 ∧ ∀ g ∈ l, regKey srcP f ≠ regKey srcP g

/-- `t` has the time and the objects of `s`, and every field of `TKG_SRC` but those listed. -/
structure ButSrc (l : List Fld) (s t : State) : Prop where
  time : t.time = s.time
  objects : sameObjects s t
  src : ∀ {f}, otherThan l f → t.f srcP f = s.f srcP f

variable {l : List Fld}

theorem ButSrc.trans {t u : State} (h : ButSrc l s t) (k : ButSrc l t u) : ButSrc l s u :=
  ⟨k.time.trans h.time, sameObjects_trans h.objects k.objects, fun hf => (k.src hf).trans (h.src hf)⟩

theorem ButSrc.mono {m : List Fld} {t : State} (h : ButSrc l s t) (hm : l ⊆ m) : ButSrc m s t :=
  ⟨h.time, h.objects, fun ⟨ho, hl, hf⟩ => h.src ⟨ho, hl, fun g hg => hf g (hm hg)⟩⟩

theorem ButSrc.on {t : State} (h : ButSrc l s t) {f : Fld} (hf : otherThan l f) : t.on srcP f = s.on srcP f := on_of_f (h.src hf)

theorem Apart.butSrc {t : State} (h : Apart s t) : ButSrc l s t := ⟨h.time, h.objects, fun ⟨ho, hl, _⟩ => h.f_eq ho hl⟩

theorem butSrc_tkg (s : State) (k : Tkg) : ButSrc l s { s with tkg := k } := ⟨rfl, (apart_refl s).objects, fun _ => rfl⟩

theorem butSrc_setF {f : Fld} (hf : f ∈ l) (v : Nat) : ButSrc l s (s.setF srcP f v) :=
  ⟨rfl, (apart_refl s).objects, fun ⟨_, _, hg⟩ => setF_f_ne s (hg f hf) v⟩

theorem butSrc_setB {f : Fld} (hf : f ∈ l) (b : Bool) : ButSrc l s (s.setB srcP f b) := butSrc_setF hf _

theorem butSrc_bump {f : Fld} (hf : f ∈ l) (n : Nat) : ButSrc l s (s.bump srcP f n) := butSrc_setF hf _

theorem butSrc_irq (hf : Hdr.IRQ_STAT ∈ l) (bits : Nat) : ButSrc l s (s.irq srcP bits) :=
  (butSrc_setF hf _).trans (((apart_refl _).of_regsOnly ((regsOnly_refl _).irqEdge _ srcP) (steady_irqEdge _ _ srcP)).butSrc)

/-! ## The edge -/

/-- An edge at `at_` cuts what still runs, and is the edge from which the generator counts. -/
def edgeMarked (s : State) (at_ : Nat) : State :=
  let u := (List.range 16).foldl State.dropStaging s.cutHosts
  let v := (if u.ticking then u.setF srcP TkgSrc.LAST_PERIOD (at_ - u.tkg.edgeAt) else u).activatePending
  { v with tkg := { v.tkg with edgeAt := at_ } }

/-- What an edge does before it reads `RUN`: the tick that ran ends. -/
def closeTick (s : State) (at_ : Nat) : State := (edgeMarked s at_).endLink.governEdge

theorem closeTick_apart (s : State) (at_ : Nat) : Apart (edgeMarked s at_) (closeTick s at_) := (apart_refl _).endLink.governEdge

theorem edge_eq (s : State) (at_ t : Nat) : ∃ m, s.edge at_ t =
    if (closeTick s at_).on srcP TkgSrc.RUN then (closeTick s at_).beginTick t m else (closeTick s at_).stopEdge := by
  unfold State.edge closeTick edgeMarked
  exact ⟨_, rfl⟩

theorem closeTick_edgeAt (s : State) (at_ : Nat) : (closeTick s at_).tkg.edgeAt = at_ := (closeTick_apart s at_).edgeAt

theorem edgeMarked_butSrc (s : State) (at_ : Nat) : ButSrc [TkgSrc.LAST_PERIOD] s (edgeMarked s at_) := by
  have h1 : Apart s ((List.range 16).foldl State.dropStaging s.cutHosts) := apart_fold (apart_refl s).cutHosts fun _ n ht => ht.dropStaging n
  unfold edgeMarked
  generalize (List.range 16).foldl State.dropStaging s.cutHosts = u at h1 ⊢
  have h2 : ButSrc [TkgSrc.LAST_PERIOD] u (if u.ticking then u.setF srcP TkgSrc.LAST_PERIOD (at_ - u.tkg.edgeAt) else u) := by
    split
    · exact butSrc_setF List.mem_cons_self _
    · exact (apart_refl u).butSrc
  exact ((h1.butSrc.trans h2).trans (apart_refl _).activatePending.butSrc).trans (butSrc_tkg _ _)

theorem closeTick_butSrc (s : State) (at_ : Nat) : ButSrc [TkgSrc.LAST_PERIOD] s (closeTick s at_) :=
  (edgeMarked_butSrc s at_).trans (closeTick_apart s at_).butSrc

/-- Tick `t` has its number, and its windows are still to come. -/
def tickBegun (s : State) (t : Nat) : State :=
  let u := ((s.setF srcP TkgSrc.TICK_NUM t).setB srcP TkgSrc.RUNNING true).applyBand
  { u with tkg := { u.tkg with phase := .beforeCompute, pointsDone := 0, refreshEndsAt := 0, gapEndAt := u.hostStart } }

theorem beginTick_apart (s : State) (t m : Nat) : Apart (tickBegun s t) (s.beginTick t m) := by
  have h1 := (apart_refl (tickBegun s t)).beginLink t
  have h2 := apart_fold (l := List.range 4) h1 fun u c (hu : Apart _ u) => apart_ite (c := u.isStream c = true) (hu.startRecord m c) hu
  refine Apart.riseTickOut (apart_fold (apart_fold h2 fun _ e hu => hu.clearPinned e.1 e.2) fun u c hu => ?_)
  split
  · exact apart_ite (hu.modCx c _) hu
  · exact hu

theorem tickBegun_numbered (s : State) (t : Nat) : (tickBegun s t).tickNum = t % 2 ^ 64 ∧ (tickBegun s t).on srcP TkgSrc.RUNNING = true := by
  let u := (s.setF srcP TkgSrc.TICK_NUM t).setB srcP TkgSrc.RUNNING true
  have hb : ButSrc [] u (tickBegun s t) := (apart_refl u).applyBand.butSrc.trans (butSrc_tkg _ _)
  refine ⟨?_, (hb.on (by decide)).trans (on_setB rfl true)⟩
  calc (tickBegun s t).f srcP TkgSrc.TICK_NUM = u.f srcP TkgSrc.TICK_NUM := hb.src (by decide)
    _ = (s.setF srcP TkgSrc.TICK_NUM t).f srcP TkgSrc.TICK_NUM := setB_f_ne _ (by decide) _
    _ = t % 2 ^ 64 := setF_f_same s _ _ t

theorem beginTick_began (s : State) (t m : Nat) : (s.beginTick t m).began (t % 2 ^ 64) s.tkg.edgeAt = true := by
  have h := beginTick_apart s t m
  obtain ⟨hn, hr⟩ := tickBegun_numbered s t
  have hphase : (s.beginTick t m).tkg.phase = .beforeCompute := h.phase
  have hpoints : (s.beginTick t m).tkg.pointsDone = 0 := h.pointsDone
  have hat : (s.beginTick t m).tkg.edgeAt = s.tkg.edgeAt :=
    h.edgeAt.trans (apart_refl ((s.setF srcP TkgSrc.TICK_NUM t).setB srcP TkgSrc.RUNNING true)).applyBand.edgeAt
  have hnum : (s.beginTick t m).tickNum = t % 2 ^ 64 := (h.f_eq (by decide) (by decide)).trans hn
  have hrun : (s.beginTick t m).on srcP TkgSrc.RUNNING = true := (h.butSrc (l := []).on (by decide)).trans hr
  simp [State.began, hphase, hat, hpoints, hnum, hrun]

theorem beginTick_butSrc (s : State) (t m : Nat) : ButSrc [TkgSrc.TICK_NUM, TkgSrc.RUNNING] s (s.beginTick t m) :=
  ((((butSrc_setF (by decide) t).trans (butSrc_setB (by decide) true)).trans (apart_refl _).applyBand.butSrc).trans (butSrc_tkg _ _)).trans
    (beginTick_apart s t m).butSrc

/-- The state in which the last edge finds the link stopped and `RUNNING` cleared. -/
def ticksStopped (s : State) : State := ({ s with tkg := { s.tkg with phase := .stopped } } : State).stopLink.setB srcP TkgSrc.RUNNING false

theorem stopEdge_apart (s : State) : Apart (ticksStopped s) s.stopEdge := (apart_refl (ticksStopped s)).applyBand.riseTickOut

theorem ticksStopped_phase (s : State) : (ticksStopped s).tkg.phase = .stopped := by
  unfold ticksStopped
  rw [setB_tkg]
  exact (apart_refl _).stopLink.phase

theorem stopEdge_stops (s : State) : s.stopEdge.tkg.phase = .stopped ∧ s.stopEdge.on srcP TkgSrc.RUNNING = false :=
  ⟨(stopEdge_apart s).phase.trans (ticksStopped_phase s),
    ((stopEdge_apart s).butSrc (l := []).on (by decide)).trans (on_setB rfl false)⟩

theorem stopEdge_butSrc (s : State) : ButSrc [TkgSrc.RUNNING] s s.stopEdge :=
  (((butSrc_tkg s _).trans (apart_refl _).stopLink.butSrc).trans (butSrc_setB (by decide) false)).trans (stopEdge_apart s).butSrc

/-- The fields of `TKG_SRC` that an edge writes. -/
def edgeFields : List Fld := [TkgSrc.LAST_PERIOD, TkgSrc.TICK_NUM, TkgSrc.RUNNING]

/-- While `RUN` stands, an edge begins the tick that it names (R50). -/
theorem edge_begins (hr : s.on srcP TkgSrc.RUN = true) (at_ t : Nat) :
    (s.edge at_ t).began (t % 2 ^ 64) at_ = true ∧ ButSrc edgeFields s (s.edge at_ t) := by
  have hc := closeTick_butSrc s at_
  obtain ⟨m, he⟩ := edge_eq s at_ t
  rw [if_pos ((hc.on (by decide)).trans hr)] at he
  rw [he]
  refine ⟨?_, (hc.mono (by decide)).trans ((beginTick_butSrc _ t m).mono (by decide))⟩
  have hb := beginTick_began (closeTick s at_) t m
  rwa [closeTick_edgeAt] at hb

/-- Without `RUN`, it stops the generator, and the tick keeps its number (R54). -/
theorem edge_stops (hr : s.on srcP TkgSrc.RUN = false) (at_ t : Nat) :
    (s.edge at_ t).tkg.phase = .stopped ∧ (s.edge at_ t).on srcP TkgSrc.RUNNING = false ∧
      ButSrc [TkgSrc.LAST_PERIOD, TkgSrc.RUNNING] s (s.edge at_ t) := by
  have hc := closeTick_butSrc s at_
  obtain ⟨m, he⟩ := edge_eq s at_ t
  rw [if_neg (by simp [hc.on (f := TkgSrc.RUN) (by decide), hr])] at he
  rw [he]
  obtain ⟨hp, hn⟩ := stopEdge_stops (closeTick s at_)
  exact ⟨hp, hn, (hc.mono (by decide)).trans ((stopEdge_butSrc _).mono (by decide))⟩

theorem edge_butSrc (s : State) (at_ t : Nat) : ButSrc edgeFields s (s.edge at_ t) := by
  cases hr : s.on srcP TkgSrc.RUN with
  | true => exact (edge_begins hr at_ t).2
  | false => exact (edge_stops hr at_ t).2.2.mono (by decide)

/-! ## An edge with lock (R52, R53) -/

/-- The generator in lock, as an edge that the source has made finds it. -/
def inLock (s : State) : State := (s.setF srcP TkgSrc.SYNTH_RUN 0).setB srcP TkgSrc.LOCKED true

theorem inLock_butSrc (s : State) : ButSrc [TkgSrc.SYNTH_RUN, TkgSrc.LOCKED] s (inLock s) :=
  (butSrc_setF (by decide) 0).trans (butSrc_setB (by decide) true)

theorem realEdge_eq (s : State) (at_ t : Nat) : s.realEdge at_ t = (inLock s).edge at_ t := rfl

theorem realEdge_locks (s : State) (at_ t : Nat) :
    (s.realEdge at_ t).on srcP TkgSrc.LOCKED = true ∧ (s.realEdge at_ t).f srcP TkgSrc.SYNTH_RUN = 0 := by
  have h := edge_butSrc (inLock s) at_ t
  rw [realEdge_eq]
  refine ⟨(h.on (by decide)).trans (on_setB rfl true), ?_⟩
  calc ((inLock s).edge at_ t).f srcP TkgSrc.SYNTH_RUN = (inLock s).f srcP TkgSrc.SYNTH_RUN := h.src (by decide)
    _ = (s.setF srcP TkgSrc.SYNTH_RUN 0).f srcP TkgSrc.SYNTH_RUN := setB_f_ne _ (by decide) _
    _ = 0 := setF_f_same s _ _ 0

theorem realEdge_butSrc (s : State) (at_ t : Nat) : ButSrc (edgeFields ++ [TkgSrc.SYNTH_RUN, TkgSrc.LOCKED]) s (s.realEdge at_ t) := by
  rw [realEdge_eq]
  exact ((inLock_butSrc s).mono (List.subset_append_right _ _)).trans ((edge_butSrc _ at_ t).mono (List.subset_append_left _ _))

theorem realEdge_begins (hr : s.on srcP TkgSrc.RUN = true) (at_ t : Nat) : (s.realEdge at_ t).began (t % 2 ^ 64) at_ = true := by
  rw [realEdge_eq]
  exact (edge_begins (((inLock_butSrc s).on (by decide)).trans hr) at_ t).1

theorem realEdge_stops (hr : s.on srcP TkgSrc.RUN = false) (at_ t : Nat) :
    (s.realEdge at_ t).tkg.phase = .stopped ∧ (s.realEdge at_ t).on srcP TkgSrc.RUNNING = false ∧ (s.realEdge at_ t).tickNum = s.tickNum := by
  have hl := inLock_butSrc s
  obtain ⟨hp, hn, hb⟩ := edge_stops ((hl.on (by decide)).trans hr) at_ t
  rw [realEdge_eq]
  exact ⟨hp, hn, (hb.src (by decide)).trans (hl.src (by decide))⟩

theorem nextTick_mod (s : State) : s.nextTick % 2 ^ 64 = (s.tickNum + 1) % 2 ^ 64 := Nat.mod_mod _ _

/-- An edge that the source has made begins the next tick, in lock. -/
theorem realEdge_nextTick (hr : s.on srcP TkgSrc.RUN = true) (at_ : Nat) : (s.realEdge at_ s.nextTick).began ((s.tickNum + 1) % 2 ^ 64) at_ = true :=
  nextTick_mod s ▸ realEdge_begins hr at_ s.nextTick

end Sys2Proof.Proofs
end

section
/-! SUPPORT. The commands of the tick edges (03_tick.md: R49 to R54), each where its guard holds, and the statement about them. -/

namespace Sys2Proof.Proofs
open Sys2Proof Sys2Proof.Machine Sys2Proof.Laws

variable {s : State}

/-! ## Which edge each command makes -/

/-- A command whose guard holds has its effect. -/
theorem act_of {ok : Bool} (h : ok = true) (g : State → State) : act ok s g = .next (g s) := by
  unfold act
  rw [if_pos h]

/-- The time of the first tick edge (R50). -/
def firstAt (s : State) : Nat := if s.tkg.internal then s.tkg.armAt + 1000 else s.time

theorem firstTick_next (hl : s.live = true) (hm : s.on carveP GlbCarve.MEM_INIT_DONE = true) (hp : s.tkg.phase = .armed)
    (ht : s.tkg.armAt + (if s.tkg.internal then 1000 else 100) ≤ s.time) :
    exec .firstTick s = .next (s.realEdge (firstAt s) (s.f srcP TkgSrc.TICK_START)) := by
  show execFirstTick s = _
  unfold execFirstTick firstAt
  dsimp only
  rw [act_of (by simp [hl, hm, hp, ht])]
  cases s.tkg.internal <;> rfl

theorem internalTick_next (hl : s.live = true) (hi : s.tkg.internal = true) (hp : s.tkg.phase = .host)
    (ht : s.tkg.edgeAt + s.sched.period ≤ s.time) :
    exec .internalTick s = .next (s.realEdge (s.tkg.edgeAt + s.sched.period) s.nextTick) := by
  show execInternalTick s = _
  unfold execInternalTick
  dsimp only
  rw [act_of (by simp [hl, hi, hp, ht])]

/-- An armed relock takes any edge of the host window that is not late (R52). -/
theorem tickInEdge_relock (hl : s.live = true) (hi : s.tkg.internal = false) (hp : s.tkg.phase = .host)
    (hr : s.on srcP TkgSrc.RELOCK_ARMED = true) (ht : s.time ≤ s.tkg.edgeAt + s.sched.period + s.sched.tol) :
    exec .tickInEdge s = .next ((s.setB srcP TkgSrc.RELOCK_ARMED false).realEdge s.time s.nextTick) := by
  show execTickInEdge s = _
  simp [execTickInEdge, act, State.ticking, hl, hi, hp, hr, ht]

/-- Without one, an edge within tolerance is the tick edge (R51). -/
theorem tickInEdge_inTol (hl : s.live = true) (hi : s.tkg.internal = false) (hp : s.tkg.phase = .host)
    (hr : s.on srcP TkgSrc.RELOCK_ARMED = false) (he : s.tkg.edgeAt + s.sched.period ≤ s.time + s.sched.tol)
    (ht : s.time ≤ s.tkg.edgeAt + s.sched.period + s.sched.tol) : exec .tickInEdge s = .next (s.realEdge s.time s.nextTick) := by
  show execTickInEdge s = _
  simp [execTickInEdge, act, State.ticking, hl, hi, hp, hr, ht, Nat.not_lt.mpr he]

theorem tickInEdge_late (ht : s.tkg.edgeAt + s.sched.period + s.sched.tol < s.time) : exec .tickInEdge s = .next s := by
  have hstray : ¬ s.time + s.sched.tol < s.tkg.edgeAt + s.sched.period := by omega
  show execTickInEdge s = _
  simp [execTickInEdge, act, Nat.not_le.mpr ht, hstray]

/-- An early edge is a stray. -/
theorem tickInEdge_stray (hl : s.live = true) (hi : s.tkg.internal = false) (hk : s.ticking = true)
    (hr : s.on srcP TkgSrc.RELOCK_ARMED = false) (ht : s.time + s.sched.tol < s.tkg.edgeAt + s.sched.period) :
    exec .tickInEdge s = .next ((s.bump srcP TkgSrc.STRAY_CNT).irq srcP 8) := by
  show execTickInEdge s = _
  simp [execTickInEdge, act, hl, hi, hk, hr, ht]

/-! ## An edge of TICK_IN -/

theorem stray_effect (s : State) :
    let t := (s.bump srcP TkgSrc.STRAY_CNT).irq srcP 8
    t.f srcP TkgSrc.STRAY_CNT = satN 16 (s.f srcP TkgSrc.STRAY_CNT + 1) ∧ t.tkg = s.tkg ∧ t.tickNum = s.tickNum ∧
      (t.f srcP Hdr.IRQ_STAT).testBit 3 = true ∧ t.mem = s.mem ∧ t.slices = s.slices ∧ t.ctxs = s.ctxs := by
  have h : RegsOnly s ((s.bump srcP TkgSrc.STRAY_CNT).irq srcP 8) := ((regsOnly_refl s).bump _ _ _).irq _ _
  refine ⟨bump_irq_f srcP_steady (by decide) (by decide) (by decide) 8, h.tkg, ?_, (irq_stat_testBit srcP_steady 8 (by decide)).trans (Bool.or_true _),
    h.mem, h.slices, h.ctxs⟩
  exact (irq_f srcP_steady (by decide) (by decide) (by decide) 8).trans (bump_f_ne s (by decide) 1)

theorem relock_begins (hr : s.on srcP TkgSrc.RUN = true) :
    let t := (s.setB srcP TkgSrc.RELOCK_ARMED false).realEdge s.time s.nextTick
    t.began ((s.tickNum + 1) % 2 ^ 64) s.time = true ∧ t.on srcP TkgSrc.LOCKED = true ∧ t.f srcP TkgSrc.SYNTH_RUN = 0 ∧
      t.on srcP TkgSrc.RELOCK_ARMED = false ∧ t.time = s.time ∧ sameObjects s t := by
  let u := s.setB srcP TkgSrc.RELOCK_ARMED false
  have hu : ButSrc [TkgSrc.RELOCK_ARMED] s u := butSrc_setB (by decide) false
  have ht := realEdge_butSrc u s.time s.nextTick
  have hb := realEdge_begins ((hu.on (by decide)).trans hr) s.time s.nextTick
  rw [nextTick_mod] at hb
  obtain ⟨hlock, hrun⟩ := realEdge_locks u s.time s.nextTick
  exact ⟨hb, hlock, hrun, (ht.on (by decide)).trans (on_setB rfl false), ht.time, sameObjects_trans hu.objects ht.objects⟩

theorem inTol_begins (hl : s.live = true) (hi : s.tkg.internal = false) (hp : s.tkg.phase = .host) (hr : s.on srcP TkgSrc.RUN = true)
    (he : s.tkg.edgeAt + s.sched.period ≤ s.time + s.sched.tol) (ht : s.time ≤ s.tkg.edgeAt + s.sched.period + s.sched.tol) :
    ∃ t, exec .tickInEdge s = .next t ∧ t.began ((s.tickNum + 1) % 2 ^ 64) s.time = true ∧ t.on srcP TkgSrc.LOCKED = true ∧
      t.f srcP TkgSrc.SYNTH_RUN = 0 ∧ t.time = s.time ∧ sameObjects s t := by
  cases ha : s.on srcP TkgSrc.RELOCK_ARMED with
  | true =>
    obtain ⟨hb, hlock, hrun, -, htime, hobj⟩ := relock_begins hr
    exact ⟨_, tickInEdge_relock hl hi hp ha ht, hb, hlock, hrun, htime, hobj⟩
  | false =>
    have hs := realEdge_butSrc s s.time s.nextTick
    obtain ⟨hlock, hrun⟩ := realEdge_locks s s.time s.nextTick
    exact ⟨_, tickInEdge_inTol hl hi hp ha he ht, realEdge_nextTick hr _, hlock, hrun, hs.time, hs.objects⟩

/-! ## The synthetic edge (R51, R52) -/

/-- A synthetic edge is counted, alone and in the row that it stands in. -/
def synthCounted (s : State) : State := ((s.bump srcP TkgSrc.SYNTH_CNT).irq srcP 4).bump srcP TkgSrc.SYNTH_RUN

/-- The generator has lost lock. -/
def lockLost (s : State) : State := ((s.setB srcP TkgSrc.LOCKED false).setB srcP TkgSrc.TICK_LOST true).irq srcP 2

/-- The generator before the edge that it makes: the eighth in a row loses lock. -/
def synthetic (s : State) : State := if (synthCounted s).f srcP TkgSrc.SYNTH_RUN = 8 then lockLost (synthCounted s) else synthCounted s

theorem syntheticEdge_next (hl : s.live = true) (hi : s.tkg.internal = false) (hp : s.tkg.phase = .host)
    (ht : s.tkg.edgeAt + s.sched.period + s.sched.tol ≤ s.time) :
    exec .syntheticEdge s = .next ((synthetic s).edge (s.tkg.edgeAt + s.sched.period + s.sched.tol) (synthetic s).nextTick) := by
  show execSyntheticEdge s = _
  unfold execSyntheticEdge
  dsimp only
  rw [act_of (by simp [hl, hi, hp, ht])]
  rfl

theorem synthCounted_butSrc (s : State) : ButSrc [TkgSrc.SYNTH_CNT, TkgSrc.SYNTH_RUN, Hdr.IRQ_STAT] s (synthCounted s) :=
  ((butSrc_bump (by decide) 1).trans (butSrc_irq (by decide) 4)).trans (butSrc_bump (by decide) 1)

theorem lockLost_butSrc (s : State) : ButSrc [TkgSrc.LOCKED, TkgSrc.TICK_LOST, Hdr.IRQ_STAT] s (lockLost s) :=
  ((butSrc_setB (by decide) false).trans (butSrc_setB (by decide) true)).trans (butSrc_irq (by decide) 2)

theorem synthetic_of_counted (s : State) : ButSrc [TkgSrc.LOCKED, TkgSrc.TICK_LOST, Hdr.IRQ_STAT] (synthCounted s) (synthetic s) := by
  unfold synthetic
  split
  · exact lockLost_butSrc _
  · exact (apart_refl _).butSrc

theorem synthetic_butSrc (s : State) :
    ButSrc [TkgSrc.SYNTH_CNT, TkgSrc.SYNTH_RUN, TkgSrc.LOCKED, TkgSrc.TICK_LOST, Hdr.IRQ_STAT] s (synthetic s) :=
  ((synthCounted_butSrc s).mono (by decide)).trans ((synthetic_of_counted s).mono (by decide))

theorem synthCounted_cnt (s : State) : (synthCounted s).f srcP TkgSrc.SYNTH_CNT = satN 16 (s.f srcP TkgSrc.SYNTH_CNT + 1) :=
  (bump_f_ne _ (by decide) 1).trans (bump_irq_f srcP_steady (by decide) (by decide) (by decide) 4)

theorem synthCounted_run (s : State) : (synthCounted s).f srcP TkgSrc.SYNTH_RUN = satN 8 (s.f srcP TkgSrc.SYNTH_RUN + 1) := by
  have hb : ButSrc [TkgSrc.SYNTH_CNT, Hdr.IRQ_STAT] s ((s.bump srcP TkgSrc.SYNTH_CNT).irq srcP 4) :=
    (butSrc_bump (by decide) 1).trans (butSrc_irq (by decide) 4)
  rw [← hb.src (f := TkgSrc.SYNTH_RUN) (by decide)]
  exact (bump_f_same _ _ _ 1).trans (satN_mod _ _)

theorem synthCounted_stat (s : State) : ((synthCounted s).f srcP Hdr.IRQ_STAT).testBit 2 = true := by
  have hb : ButSrc [TkgSrc.SYNTH_RUN] ((s.bump srcP TkgSrc.SYNTH_CNT).irq srcP 4) (synthCounted s) := butSrc_bump (by decide) 1
  rw [hb.src (by decide)]
  exact (irq_stat_testBit srcP_steady 4 (by decide)).trans (Bool.or_true _)

theorem synthetic_stat (s : State) : ((synthetic s).f srcP Hdr.IRQ_STAT).testBit 2 = true := by
  unfold synthetic
  split
  · unfold lockLost
    rw [irq_stat_testBit srcP_steady 2 (by decide), setB_f_ne _ (by decide), setB_f_ne _ (by decide), synthCounted_stat]
    exact Bool.true_or _
  · exact synthCounted_stat s

theorem lockLost_flags (s : State) : (lockLost s).on srcP TkgSrc.LOCKED = false ∧ (lockLost s).on srcP TkgSrc.TICK_LOST = true := by
  let u := (s.setB srcP TkgSrc.LOCKED false).setB srcP TkgSrc.TICK_LOST true
  have hi : ButSrc [Hdr.IRQ_STAT] u (lockLost s) := butSrc_irq (by decide) 2
  have hb : ButSrc [TkgSrc.TICK_LOST] (s.setB srcP TkgSrc.LOCKED false) u := butSrc_setB (by decide) true
  exact ⟨((hi.on (by decide)).trans (hb.on (by decide))).trans (on_setB rfl false), (hi.on (by decide)).trans (on_setB rfl true)⟩

/-- With the eighth in a row lock is lost. -/
theorem synthetic_eighth (h : s.f srcP TkgSrc.SYNTH_RUN = 7) :
    (synthetic s).on srcP TkgSrc.LOCKED = false ∧ (synthetic s).on srcP TkgSrc.TICK_LOST = true := by
  have h8 : (synthCounted s).f srcP TkgSrc.SYNTH_RUN = 8 := by
    rw [synthCounted_run, h]
    rfl
  unfold synthetic
  rw [if_pos h8]
  exact lockLost_flags _

/-- Before it, lock stays as it is. -/
theorem synthetic_before (h : s.f srcP TkgSrc.SYNTH_RUN < 7) :
    (synthetic s).f srcP TkgSrc.SYNTH_RUN = s.f srcP TkgSrc.SYNTH_RUN + 1 ∧
      (synthetic s).on srcP TkgSrc.LOCKED = s.on srcP TkgSrc.LOCKED ∧ (synthetic s).on srcP TkgSrc.TICK_LOST = s.on srcP TkgSrc.TICK_LOST := by
  have hn : (synthCounted s).f srcP TkgSrc.SYNTH_RUN = s.f srcP TkgSrc.SYNTH_RUN + 1 := by
    rw [synthCounted_run, satN]
    omega
  have hs : synthetic s = synthCounted s := by
    unfold synthetic
    rw [if_neg (by omega)]
  have hb := synthCounted_butSrc s
  rw [hs]
  exact ⟨hn, hb.on (by decide), hb.on (by decide)⟩

theorem syntheticEdge_begins (hl : s.live = true) (hi : s.tkg.internal = false) (hp : s.tkg.phase = .host) (hr : s.on srcP TkgSrc.RUN = true)
    (ht : s.tkg.edgeAt + s.sched.period + s.sched.tol ≤ s.time) :
    ∃ t, exec .syntheticEdge s = .next t ∧
      t.began ((s.tickNum + 1) % 2 ^ 64) (s.tkg.edgeAt + s.sched.period + s.sched.tol) = true ∧
      t.f srcP TkgSrc.SYNTH_CNT = satN 16 (s.f srcP TkgSrc.SYNTH_CNT + 1) ∧ (t.f srcP Hdr.IRQ_STAT).testBit 2 = true ∧
      (s.f srcP TkgSrc.SYNTH_RUN = 7 → t.on srcP TkgSrc.LOCKED = false ∧ t.on srcP TkgSrc.TICK_LOST = true) ∧
      (s.f srcP TkgSrc.SYNTH_RUN < 7 → t.f srcP TkgSrc.SYNTH_RUN = s.f srcP TkgSrc.SYNTH_RUN + 1 ∧
        t.on srcP TkgSrc.LOCKED = s.on srcP TkgSrc.LOCKED ∧ t.on srcP TkgSrc.TICK_LOST = s.on srcP TkgSrc.TICK_LOST) ∧
      t.time = s.time ∧ sameObjects s t := by
  have hu := synthetic_butSrc s
  obtain ⟨hb, he⟩ := edge_begins ((hu.on (f := TkgSrc.RUN) (by decide)).trans hr) (s.tkg.edgeAt + s.sched.period + s.sched.tol)
    (synthetic s).nextTick
  have hnum : (synthetic s).tickNum = s.tickNum := hu.src (by decide)
  rw [nextTick_mod, hnum] at hb
  have hcnt : (synthetic s).f srcP TkgSrc.SYNTH_CNT = (synthCounted s).f srcP TkgSrc.SYNTH_CNT := (synthetic_of_counted s).src (by decide)
  refine ⟨_, syntheticEdge_next hl hi hp ht, hb, ((he.src (by decide)).trans hcnt).trans (synthCounted_cnt s), ?_, fun h7 => ?_, fun h7 => ?_,
    he.time.trans hu.time, sameObjects_trans hu.objects he.objects⟩
  · rw [he.src (by decide)]
    exact synthetic_stat s
  · rw [he.on (by decide), he.on (by decide)]
    exact synthetic_eighth h7
  · rw [he.src (by decide), he.on (by decide), he.on (by decide)]
    exact synthetic_before h7

/-! ## The generator's own edges (R49, R50, R53) -/

theorem firstTick_begins (hl : s.live = true) (hm : s.on carveP GlbCarve.MEM_INIT_DONE = true) (hp : s.tkg.phase = .armed)
    (hr : s.on srcP TkgSrc.RUN = true) (ht : s.tkg.armAt + (if s.tkg.internal then 1000 else 100) ≤ s.time) :
    ∃ t, exec .firstTick s = .next t ∧
      t.began (s.f srcP TkgSrc.TICK_START) (if s.tkg.internal then s.tkg.armAt + 1000 else s.time) = true ∧ t.on srcP TkgSrc.LOCKED = true ∧
      t.f srcP TkgSrc.SYNTH_RUN = 0 ∧ t.time = s.time ∧ sameObjects s t := by
  have hb := realEdge_begins hr (firstAt s) (s.f srcP TkgSrc.TICK_START)
  have hn : s.f srcP TkgSrc.TICK_START % 2 ^ 64 = s.f srcP TkgSrc.TICK_START := Nat.mod_eq_of_lt (f_lt s _ _)
  rw [hn] at hb
  have hs := realEdge_butSrc s (firstAt s) (s.f srcP TkgSrc.TICK_START)
  obtain ⟨hlock, hrun⟩ := realEdge_locks s (firstAt s) (s.f srcP TkgSrc.TICK_START)
  exact ⟨_, firstTick_next hl hm hp ht, hb, hlock, hrun, hs.time, hs.objects⟩

theorem internalTick_effect (hl : s.live = true) (hi : s.tkg.internal = true) (hp : s.tkg.phase = .host)
    (ht : s.tkg.edgeAt + s.sched.period ≤ s.time) :
    ∃ t, exec .internalTick s = .next t ∧ t.time = s.time ∧ sameObjects s t ∧
      (s.on srcP TkgSrc.RUN = true → t.began ((s.tickNum + 1) % 2 ^ 64) (s.tkg.edgeAt + s.sched.period) = true ∧ t.on srcP TkgSrc.LOCKED = true) ∧
      (s.on srcP TkgSrc.RUN = false → t.tkg.phase = .stopped ∧ t.on srcP TkgSrc.RUNNING = false ∧ t.tickNum = s.tickNum) := by
  have hs := realEdge_butSrc s (s.tkg.edgeAt + s.sched.period) s.nextTick
  exact ⟨_, internalTick_next hl hi hp ht, hs.time, hs.objects, fun hr => ⟨realEdge_nextTick hr _, (realEdge_locks s _ _).1⟩,
    fun hr => realEdge_stops hr _ _⟩

/-- Settles O28. Every edge is one `State.edge`, which begins the tick that it names while `RUN` stands and stops the generator without it; what its
acts do to windows, link, governor and programs reaches no field of `TKG_SRC` but those of the edge, and none of the host's objects. -/
theorem anEdgeBeginsTheNextTick : Obligations.AnEdgeBeginsTheNextTick := by
  unfold Obligations.AnEdgeBeginsTheNextTick
  refine ⟨fun _ => firstTick_begins, fun _ => internalTick_effect, fun _ => inTol_begins, fun s hl hi hp hr ha ht => ?_,
    fun _ => tickInEdge_late, fun s hl hi hk ha ht => ⟨_, tickInEdge_stray hl hi hk ha ht, stray_effect s⟩, fun _ => syntheticEdge_begins⟩
  obtain ⟨hb, hlock, -, harmed, htime, hobj⟩ := relock_begins hr
  exact ⟨_, tickInEdge_relock hl hi hp ha ht, hb, hlock, harmed, htime, hobj⟩

end Sys2Proof.Proofs
end

section
/-! SUPPORT. The commit of a schedule (03_tick.md: R60, R61): the order of the checks, the write that commits, and its three outcomes. -/

namespace Sys2Proof.Proofs
open Sys2Proof Sys2Proof.Machine Sys2Proof.Laws

variable {s : State}

/-! ## The checks of R60 -/

/-- `n` is the first number from `i` on that has `P`, or 0 where none has it. -/
def FirstFrom (P : Nat → Prop) (i n : Nat) : Prop := (i ≤ n ∧ P n ∧ ∀ j, i ≤ j → j < n → ¬ P j) ∨ (n = 0 ∧ ∀ j, i ≤ j → ¬ P j)

/-- A check of row `i` before the checks of the rows that follow. -/
theorem firstFrom_ite {P : Nat → Prop} {i r : Nat} {p : Prop} [Decidable p] (hp : P i ↔ p) (h : ¬ p → FirstFrom P (i + 1) r) :
    FirstFrom P i (if p then i else r) := by
  by_cases hi : p
  · rw [if_pos hi]
    exact .inl ⟨Nat.le_refl i, hp.mpr hi, fun j hj hlt => absurd hj (Nat.not_le.mpr hlt)⟩
  · rw [if_neg hi]
    have here : ∀ {j}, i ≤ j → (i + 1 ≤ j → ¬ P j) → ¬ P j := fun hj hn =>
      (Nat.eq_or_lt_of_le hj).elim (fun e => e ▸ fun k => hi (hp.mp k)) hn
    rcases h hi with ⟨hle, hP, hlow⟩ | ⟨h0, hnone⟩
    · exact .inl ⟨Nat.le_of_succ_le hle, hP, fun j hj hlt => here hj fun hj' => hlow j hj' hlt⟩
    · exact .inr ⟨h0, fun j hj => here hj (hnone j)⟩

/-- The first number is determined by what it says. -/
theorem FirstFrom.iff {P : Nat → Prop} {n : Nat} (h : FirstFrom P 1 n) (h0 : ¬ P 0) :
    (n = 0 ↔ ∀ k, ¬ P k) ∧ ∀ k, k ≠ 0 → (n = k ↔ P k ∧ ∀ j, j < k → ¬ P j) := by
  have low : ∀ {j}, (1 ≤ j → ¬ P j) → ¬ P j := fun {j} hj => (Nat.eq_zero_or_pos j).elim (fun e => e ▸ h0) hj
  rcases h with ⟨hle, hP, hlow⟩ | ⟨rfl, hnone⟩
  · refine ⟨⟨fun e => absurd hle (by omega), fun k => absurd hP (k n)⟩, fun k _ => ⟨?_, fun ⟨hk, hkl⟩ => ?_⟩⟩
    · rintro rfl
      exact ⟨hP, fun j hj => low fun h1 => hlow j h1 hj⟩
    · rcases Nat.lt_trichotomy n k with hlt | he | hgt
      · exact absurd hP (hkl n hlt)
      · exact he
      · exact absurd hk (low fun h1 => hlow k h1 hgt)
  · refine ⟨⟨fun _ j => low (hnone j), fun _ => rfl⟩, fun k hk => ⟨fun e => absurd e.symm hk, fun ⟨h, _⟩ => ?_⟩⟩
    exact absurd h (hnone k (Nat.pos_of_ne_zero hk))

/-- Row `k` of the table of R60 fails. -/
def rowFails (c : Sched) (cs ch : Nat) : Nat → Prop
  | 1 => c.period < 1000 ∨ 1000000 < c.period ∨ 500 < c.tol
  | 2 => c.cstart < 60 ∨ c.cend ≤ c.cstart
  | 3 => (c.gend : Int) - c.cend < gMin c.period 0
  | 4 => longMode c.period = false ∧ (c.period : Int) - c.tol - c.cend < gMin c.period 1
  | 5 => (c.period : Int) - c.tol < c.gend
  | 6 => longMode c.period = true ∧ (13780 : Int) - 2 * c.tol < c.cend
  | 7 => c.dec < 40 ∨ 120 < c.dec
  | 8 => (c.cend : Int) - c.cstart < cs ∨ c.hostCert < ch
  | _ => False

/-- Row 6 in the natural numbers, with nothing subtracted. -/
theorem row6_iff (c : Sched) (cs ch : Nat) : rowFails c cs ch 6 ↔ (longMode c.period = true ∧ pointSpan < c.cend + 2 * c.tol) := by
  have h : (13780 : Int) - 2 * c.tol < c.cend ↔ pointSpan < c.cend + 2 * c.tol := by
    unfold pointSpan
    omega
  exact and_congr_right fun _ => h

/-- Past row 2 the compute window has a length, so that row 8 may take it in the natural numbers. -/
theorem row8_iff {c : Sched} (cs ch : Nat) (h2 : ¬ rowFails c cs ch 2) : rowFails c cs ch 8 ↔ (c.computeCert < cs ∨ c.hostCert < ch) := by
  obtain ⟨-, hc⟩ := not_or.mp h2
  have h : (c.cend : Int) - c.cstart < cs ↔ c.computeCert < cs := by
    unfold Sched.computeCert
    omega
  exact or_congr_left h

theorem check_firstFrom (c : Sched) (cs ch : Nat) : FirstFrom (rowFails c cs ch) 1 (c.check cs ch) := by
  unfold Sched.check
  refine firstFrom_ite Iff.rfl fun _ => firstFrom_ite Iff.rfl fun h2 => firstFrom_ite Iff.rfl fun _ =>
    firstFrom_ite (and_congr_left' (Bool.not_eq_true' _).symm.to_iff) fun _ => firstFrom_ite Iff.rfl fun _ => firstFrom_ite (row6_iff c cs ch) fun _ =>
    firstFrom_ite Iff.rfl fun _ => firstFrom_ite (row8_iff cs ch h2) fun _ => .inr ⟨rfl, fun j hj => ?_⟩
  obtain ⟨k, rfl⟩ := Nat.exists_eq_add_of_le' hj
  exact id

theorem check_le (c : Sched) (cs ch : Nat) : c.check cs ch ≤ 8 := by
  rcases check_firstFrom c cs ch with ⟨-, hP, -⟩ | ⟨h0, -⟩
  · refine Nat.le_of_not_lt fun hgt => ?_
    obtain ⟨k, hk⟩ := Nat.exists_eq_add_of_le' hgt
    rw [hk] at hP
    exact hP
  · omega

/-! ## The write that commits -/

/-- What the write of `WIN_COMMIT` reaches: its one bit. -/
def commitWr : Wr := { fld := TkgWin.COMMIT, bits := 1, mask := 1 }

theorem wrOf_commit : wrOf .tkgWin [word winP 0x54 1] = [commitWr] := by decide

/-- The word holds no field that keeps a value, so that the commit is all that it does. -/
theorem applyWords_commit (s : State) (src : Src) : s.applyWords src winP [word winP 0x54 1] [] = s.commit := by
  unfold State.applyWords
  rw [show winP.kind = .tkgWin from rfl, wrOf_commit]
  dsimp only [List.foldl]
  rw [show s.takeWr winP commitWr = s from rfl, irqEdge_same]
  rfl

theorem commit_next {p : Fin 4} (h : s.letsWrite p winP = true) : exec (.commit (.port p)) s = .next s.commit :=
  calc exec (.commit (.port p)) s = .next (s.write4 (.port p) winP 0x54 1) := rfl
    _ = .next (s.applyWords (.port p) winP [word winP 0x54 1] []) := by rw [write4_acts (by decide) h 1 (by decide) (by decide)]
    _ = .next s.commit := by rw [applyWords_commit]

/-! ## The three outcomes (R60, R61) -/

/-- The first check of R60 that the pending registers fail, 0 where they pass. -/
def commitCause (s : State) : Nat :=
  ({ s.pendingSched with tol := s.tolOf s.pendingSched.tol } : Sched).check (s.f plvP Plv.CERT_STREAM_NS) (s.f plvP Plv.CERT_SEG_NS)

/-- The cause is recorded. -/
def judged (s : State) : State := s.setF winP TkgWin.INVALID_CAUSE (commitCause s)

/-- The set that passed waits to become active. -/
def committed (s : State) : State :=
  { (judged s).setB winP TkgWin.COMMIT_PENDING true with tkg := { s.tkg with pendSched := some s.pendingSched } }

/-- The set that failed is reported, before the page's interrupt. -/
def rejected (s : State) : State :=
  { ((judged s).setB winP TkgWin.SCHEDULE_INVALID true).setB winP TkgWin.COMMIT_PENDING false with tkg := { s.tkg with pendSched := none } }

theorem committed_f_ne {f : Fld} (hk : regKey winP f ≠ regKey winP TkgWin.COMMIT_PENDING) : (committed s).f winP f = (judged s).f winP f :=
  setB_f_ne (judged s) hk true

theorem rejected_f_pending {f : Fld} (hk : regKey winP f ≠ regKey winP TkgWin.COMMIT_PENDING) :
    (rejected s).f winP f = ((judged s).setB winP TkgWin.SCHEDULE_INVALID true).f winP f :=
  setB_f_ne ((judged s).setB winP TkgWin.SCHEDULE_INVALID true) hk false

theorem rejected_f_ne {f : Fld} (hk : regKey winP f ≠ regKey winP TkgWin.COMMIT_PENDING)
    (hi : regKey winP f ≠ regKey winP TkgWin.SCHEDULE_INVALID) : (rejected s).f winP f = (judged s).f winP f :=
  (rejected_f_pending hk).trans (setB_f_ne (judged s) hi true)

theorem rejected_pending (s : State) : (rejected s).on winP TkgWin.COMMIT_PENDING = false :=
  on_setB (s := (judged s).setB winP TkgWin.SCHEDULE_INVALID true) rfl false

theorem commit_of_stopped (h : commitCause s = 0) (hp : s.tkg.phase = .stopped) : s.commit = ((committed s).activate s.pendingSched).checkHot :=
  (if_pos h).trans (if_pos hp)

theorem commit_of_running (h : commitCause s = 0) (hp : s.tkg.phase ≠ .stopped) : s.commit = committed s := (if_pos h).trans (if_neg hp)

theorem commit_of_invalid (h : commitCause s ≠ 0) : s.commit = (rejected s).irq winP 2 := if_neg h

theorem judged_cause (s : State) : (judged s).f winP TkgWin.INVALID_CAUSE = commitCause s := by
  have hle : commitCause s ≤ 8 := check_le _ _ _
  calc (judged s).f winP TkgWin.INVALID_CAUSE = commitCause s % 2 ^ 4 := setF_f_same s _ _ _
    _ = commitCause s := Nat.mod_eq_of_lt (by omega)

theorem judged_regsOnly (s : State) : RegsOnly s (judged s) := (regsOnly_refl s).setF _ _ _

theorem committed_regsOnly (s : State) : RegsOnly { s with tkg := { s.tkg with pendSched := some s.pendingSched } } (committed s) :=
  ((judged_regsOnly s).setB _ _ _).setTkg _

theorem rejected_regsOnly (s : State) : RegsOnly { s with tkg := { s.tkg with pendSched := none } } (rejected s) :=
  (((judged_regsOnly s).setB _ _ _).setB _ _ _).setTkg _

theorem activate_regsOnly (s : State) (c : Sched) : RegsOnly { s with tkg := { s.tkg with pendSched := none } } (s.activate c) := by
  rw [activate_eq]
  exact ((regsOnly_refl _).putWin _).publish

/-- No outcome changes more than registers, the generator, and what leaves the module. -/
theorem commit_regsOnly (s : State) : ∃ k, RegsOnly { s with tkg := k } s.commit := by
  by_cases h : commitCause s = 0
  · by_cases hp : s.tkg.phase = .stopped
    · rw [commit_of_stopped h hp]
      exact ⟨_, (((committed_regsOnly s).setTkg _).trans (activate_regsOnly (committed s) s.pendingSched)).checkHot⟩
    · rw [commit_of_running h hp]
      exact ⟨_, committed_regsOnly s⟩
  · rw [commit_of_invalid h]
    exact ⟨_, (rejected_regsOnly s).irq _ _⟩

/-- Of `TKG_WIN`, the band's check writes its own flag alone: a conflict is the governor's. -/
theorem checkHot_f {f : Fld} (ho : f.off < 0x1000) (hl : f.lo < 32) (hk : regKey winP f ≠ regKey winP TkgWin.HOT_EXHAUSTED) :
    s.checkHot.f winP f = s.f winP f := by
  let u := s.setB winP TkgWin.HOT_EXHAUSTED (decide (s.sched.gend < s.hostStart) && decide (s.sched.period ≤ s.hostStart + s.sched.tol))
  have hc : Steady u (u.conflict gcHotExhausted) := ((((steady_refl u).setF rfl _ _).setF rfl _ _).bump rfl _ _).irq rfl _
  have hu : Steady u s.checkHot := steady_ite hc (steady_refl u)
  exact (hu.f_eq winP_steady ho hl).trans (setB_f_ne s hk _)

/-- A field that neither the active set nor what is derived from it holds. -/
theorem activate_f_ne {c : Sched} {f : Fld} (h : ∀ g ∈ activeFields ++ derivedFields, regKey winP f ≠ regKey winP g) :
    (s.activate c).f winP f = s.f winP f := by
  obtain ⟨ha, hd⟩ := List.forall_mem_append.mp h
  rw [← activeSet_fst c] at ha
  rw [activate_eq, publish_f_ne hd, putWin_f_ne ha]
  rfl

/-- A field of the active set takes its value. -/
theorem activate_f {c : Sched} {f : Fld} {v : Nat} (he : (f, v) ∈ activeSet c) (h : ∀ g ∈ derivedFields, regKey winP f ≠ regKey winP g) :
    (s.activate c).f winP f = v % 2 ^ f.width := by
  have hn : (((activeSet c).map Prod.fst).map (regKey winP)).Nodup := by
    rw [activeSet_fst]
    decide
  rw [activate_eq, publish_f_ne h]
  exact putWin_f_mem hn he

theorem commit_cause (s : State) : s.commit.f winP TkgWin.INVALID_CAUSE = commitCause s := by
  rw [← judged_cause s]
  by_cases h : commitCause s = 0
  · have hc : (committed s).f winP TkgWin.INVALID_CAUSE = (judged s).f winP TkgWin.INVALID_CAUSE := committed_f_ne (by decide)
    by_cases hp : s.tkg.phase = .stopped
    · rw [commit_of_stopped h hp, checkHot_f (by decide) (by decide) (by decide), activate_f_ne (by decide), hc]
    · rw [commit_of_running h hp, hc]
  · rw [commit_of_invalid h, irq_f winP_steady (by decide) (by decide) (by decide)]
    exact rejected_f_ne (by decide) (by decide)

/-- While the generator is stopped, the set that passed is active at once. -/
theorem commit_stopped_f (h : commitCause s = 0) (hp : s.tkg.phase = .stopped) {f : Fld} {v : Nat} (he : (f, v) ∈ activeSet s.pendingSched)
    (ho : f.off < 0x1000 ∧ f.lo < 32 ∧ ∀ g ∈ TkgWin.HOT_EXHAUSTED :: derivedFields, regKey winP f ≠ regKey winP g) (hv : v < 2 ^ f.width) :
    s.commit.f winP f = v := by
  obtain ⟨hoff, hlo, hk⟩ := ho
  obtain ⟨hhot, hder⟩ := List.forall_mem_cons.mp hk
  rw [commit_of_stopped h hp, checkHot_f hoff hlo hhot, activate_f he hder, Nat.mod_eq_of_lt hv]

/-- The active schedule is that of its registers and of the source in use. -/
theorem sched_congr {t : State} (hi : t.tkg.internal = s.tkg.internal) (h : ∀ f ∈ activeFields.tail, t.f winP f = s.f winP f) :
    t.sched = s.sched := by
  simp only [activeFields, List.tail_cons, List.forall_mem_cons] at h
  obtain ⟨hp, hs, he, hg, hd, ht, -⟩ := h
  simp only [State.sched, State.tolOf, hi, hp, hs, he, hg, hd, ht]

theorem commit_running (h : commitCause s = 0) (hp : s.tkg.phase ≠ .stopped) :
    s.commit.on winP TkgWin.COMMIT_PENDING = true ∧ s.commit.tkg = { s.tkg with pendSched := some s.pendingSched } ∧ s.commit.sched = s.sched := by
  have htkg := (committed_regsOnly s).tkg
  rw [commit_of_running h hp]
  refine ⟨on_setB (s := judged s) rfl true, htkg, sched_congr (congrArg (·.internal) htkg) fun f hf => ?_⟩
  have hk : ∀ f ∈ activeFields.tail, regKey winP f ≠ regKey winP TkgWin.COMMIT_PENDING ∧ regKey winP f ≠ regKey winP TkgWin.INVALID_CAUSE := by
    decide
  exact (committed_f_ne (hk f hf).1).trans (setF_f_ne s (hk f hf).2 _)

theorem commit_invalid (h : commitCause s ≠ 0) :
    s.commit.on winP TkgWin.SCHEDULE_INVALID = true ∧ s.commit.on winP TkgWin.COMMIT_PENDING = false ∧
      (s.commit.f winP Hdr.IRQ_STAT).testBit 1 = true ∧ s.commit.sched = s.sched := by
  have hk : ∀ f ∈ activeFields.tail, (f.off < 0x1000 ∧ f.lo < 32) ∧ ∀ g ∈ [Hdr.IRQ_STAT, TkgWin.COMMIT_PENDING, TkgWin.SCHEDULE_INVALID,
      TkgWin.INVALID_CAUSE], regKey winP f ≠ regKey winP g := by decide
  have hint : ((rejected s).irq winP 2).tkg.internal = s.tkg.internal :=
    congrArg (·.internal) ((rejected_regsOnly s).irq winP 2).tkg
  rw [commit_of_invalid h]
  refine ⟨?_, ?_, (irq_stat_testBit winP_steady 2 (by decide)).trans (Bool.or_true _), sched_congr hint fun f hf => ?_⟩
  · rw [on_of_f (irq_f winP_steady (by decide) (by decide) (by decide) 2), on_of_f (rejected_f_pending (by decide))]
    exact on_setB rfl true
  · rw [on_of_f (irq_f winP_steady (by decide) (by decide) (by decide) 2)]
    exact rejected_pending s
  · obtain ⟨⟨ho, hl⟩, hne⟩ := hk f hf
    simp only [List.forall_mem_cons] at hne
    obtain ⟨hirq, hpend, hinv, hcause, -⟩ := hne
    exact (irq_f winP_steady ho hl hirq 2).trans ((rejected_f_ne hpend hinv).trans (setF_f_ne s hcause _))

theorem commit_stopped (h : commitCause s = 0) (hp : s.tkg.phase = .stopped) :
    s.commit.on winP TkgWin.COMMIT_PENDING = false ∧ s.commit.f winP TkgWin.ACT_PERIOD = s.pendingSched.period ∧
      s.commit.f winP TkgWin.ACT_CSTART = s.pendingSched.cstart ∧ s.commit.f winP TkgWin.ACT_CEND = s.pendingSched.cend ∧
      s.commit.f winP TkgWin.ACT_GEND = s.pendingSched.gend ∧ s.commit.f winP TkgWin.ACT_DECISION_OFFSET = s.pendingSched.dec := by
  have hpend : s.commit.f winP TkgWin.COMMIT_PENDING = 0 := commit_stopped_f h hp (by simp [activeSet]) (by decide) (by decide)
  refine ⟨?_, ?_, ?_, ?_, ?_, ?_⟩
  · unfold State.on
    rw [hpend]
    rfl
  all_goals exact commit_stopped_f h hp (by simp [activeSet]) (by decide) (f_lt s _ _)

/-- Settles O20. The checks are a chain of which the first that fails answers; the write reaches the commit alone, and its three outcomes write the
fields of the window page one by one. -/
theorem commitTakesOnlyAValidSchedule : Obligations.CommitTakesOnlyAValidSchedule := by
  unfold Obligations.CommitTakesOnlyAValidSchedule
  refine ⟨fun c cs ch => (check_firstFrom c cs ch).iff id, fun _ _ => rfl, fun s p hw => ?_⟩
  obtain ⟨k, hk⟩ := commit_regsOnly s
  exact ⟨s.commit, commit_next hw, commit_cause s, hk.mem, hk.slices, hk.ctxs, commit_stopped, commit_running, commit_invalid⟩

end Sys2Proof.Proofs
end

section
/-! SUPPORT. The two address views (05_memory_stacks.md: R90, R91): the fields that both views are made of, that each view is these fields in its own
order, and that the two mappings hash one field with another that they leave alone. -/

namespace Sys2Proof.Proofs
open Sys2Proof Sys2Proof.Machine

/-! ## The hash of the bank bits -/

/-- The XOR that R91 puts on the bank bits, of `o[24:8]`, which is `L[34:18]`. -/
def bankHash (upper : Nat) : Nat := (upper ^^^ (upper >>> 4) ^^^ (upper >>> 8) ^^^ (upper >>> 12)) % 16

theorem fld_eq_div_mod (v hi lo : Nat) : fld v hi lo = v / 2 ^ lo % 2 ^ (hi + 1 - lo) := by
  rw [fld, Nat.shiftRight_eq_div_pow]

theorem fld_lt (v hi lo : Nat) : fld v hi lo < 2 ^ (hi + 1 - lo) := Nat.mod_lt _ (Nat.two_pow_pos _)

theorem bankHash_lt (upper : Nat) : bankHash upper < 16 := Nat.mod_lt _ (by decide)

/-- The hash is that of the four nibbles of `L[33:18]`. -/
theorem bankHash_shiftRight (a : Nat) : bankHash (a >>> 18) = fld a 21 18 ^^^ fld a 25 22 ^^^ fld a 29 26 ^^^ fld a 33 30 := by
  simp only [bankHash, fld, ← Nat.shiftRight_add, show (16 : Nat) = 2 ^ 4 from rfl, Nat.xor_mod_two_pow]

/-- The XOR of `linToBank`, taken over shifts of the whole address, is the hash of its upper bits. -/
theorem linToBank_hash (a : Nat) : ((a >>> 18) ^^^ (a >>> 22) ^^^ (a >>> 26) ^^^ (a >>> 30)) % 16 = bankHash (a >>> 18) := by
  simp only [bankHash, ← Nat.shiftRight_add]

/-! ## The fields of an address -/

/-- The fields of R91. `bank` stands for `L[17:14]` in the linear view and for the bank number in the bank-local one. -/
@[ext] structure ViewFields where
  stack : Nat
  chan : Nat
  bank : Nat
  upper : Nat
  byte : Nat

namespace ViewFields

/-- Each field within its width. -/
structure Fits (v : ViewFields) : Prop where
  stack : v.stack < 2 ^ 2
  chan : v.chan < 2 ^ 4
  bank : v.bank < 2 ^ 4
  upper : v.upper < 2 ^ 17
  byte : v.byte < 2 ^ 8

/-- The fields of a linear address (R91). -/
def ofLin (a : Nat) : ViewFields := ⟨fld a 13 12, fld a 11 8, fld a 17 14, fld a 34 18, fld a 7 0⟩

/-- The fields of a bank-local address (R90). -/
def ofBank (b : Nat) : ViewFields := ⟨fld b 34 33, fld b 32 29, fld b 28 25, fld b 24 8, fld b 7 0⟩

/-- The linear address of these fields. -/
def toLin (v : ViewFields) : Nat := v.upper * 2 ^ 18 + v.bank * 2 ^ 14 + v.stack * 2 ^ 12 + v.chan * 2 ^ 8 + v.byte

/-- The bank-local address of these fields. -/
def toBank (v : ViewFields) : Nat := v.stack * 2 ^ 33 + v.chan * 2 ^ 29 + v.bank * 2 ^ 25 + v.upper * 2 ^ 8 + v.byte

/-- From one view to the other, either way: the hash goes on the bank bits. -/
def hashed (v : ViewFields) : ViewFields := { v with bank := v.bank ^^^ bankHash v.upper }

variable {v : ViewFields} {a : Nat}

theorem fits_ofLin (a : Nat) : (ofLin a).Fits := ⟨fld_lt .., fld_lt .., fld_lt .., fld_lt .., fld_lt ..⟩

theorem fits_ofBank (a : Nat) : (ofBank a).Fits := ⟨fld_lt .., fld_lt .., fld_lt .., fld_lt .., fld_lt ..⟩

theorem Fits.hashed (h : v.Fits) : v.hashed.Fits := { h with bank := Nat.xor_lt_two_pow h.bank (bankHash_lt _) }

@[simp] theorem hashed_hashed (v : ViewFields) : v.hashed.hashed = v := by
  simp only [ViewFields.hashed, Nat.xor_assoc, Nat.xor_self, Nat.xor_zero]

theorem toLin_lt (h : v.Fits) : v.toLin < 2 ^ 35 := by
  obtain ⟨hs, hc, hb, hu, hy⟩ := h
  unfold toLin
  omega

theorem toBank_lt (h : v.Fits) : v.toBank < 2 ^ 35 := by
  obtain ⟨hs, hc, hb, hu, hy⟩ := h
  unfold toBank
  omega

theorem ofBank_toBank (h : v.Fits) : ofBank v.toBank = v := by
  obtain ⟨hs, hc, hb, hu, hy⟩ := h
  ext <;> simp only [ofBank, toBank, fld_eq_div_mod] <;> omega

theorem ofLin_toLin (h : v.Fits) : ofLin v.toLin = v := by
  obtain ⟨hs, hc, hb, hu, hy⟩ := h
  ext <;> simp only [ofLin, toLin, fld_eq_div_mod] <;> omega

theorem toBank_ofBank (h : a < 2 ^ 35) : (ofBank a).toBank = a := by
  simp only [ofBank, toBank, fld_eq_div_mod]
  omega

theorem toLin_ofLin (h : a < 2 ^ 35) : (ofLin a).toLin = a := by
  simp only [ofLin, toLin, fld_eq_div_mod]
  omega

end ViewFields

/-! ## The two mappings -/

open ViewFields

/-- A field set above the `n` bits of `y` is added to it. -/
theorem shiftLeft_or {n y : Nat} (x : Nat) (h : y < 2 ^ n) : x <<< n ||| y = x * 2 ^ n + y := by
  rw [← Nat.shiftLeft_add_eq_or_of_lt h, Nat.shiftLeft_eq]

theorem ViewFields.Fits.toBank_eq_or {v : ViewFields} (h : v.Fits) :
    (v.stack <<< 33) ||| (v.chan <<< 29) ||| (v.bank <<< 25) ||| (v.upper <<< 8) ||| v.byte = v.toBank := by
  obtain ⟨hs, hc, hb, hu, hy⟩ := h
  simp only [Nat.or_assoc]
  rw [shiftLeft_or v.upper hy, shiftLeft_or v.bank (by omega), shiftLeft_or v.chan (by omega), shiftLeft_or v.stack (by omega), toBank]
  omega

theorem ViewFields.Fits.toLin_eq_or {v : ViewFields} (h : v.Fits) :
    (v.upper <<< 18) ||| (v.bank <<< 14) ||| (v.stack <<< 12) ||| (v.chan <<< 8) ||| v.byte = v.toLin := by
  obtain ⟨hs, hc, hb, hu, hy⟩ := h
  simp only [Nat.or_assoc]
  rw [shiftLeft_or v.chan hy, shiftLeft_or v.stack (by omega), shiftLeft_or v.bank (by omega), shiftLeft_or v.upper (by omega), toLin]
  omega

/-- Within the 32 GiB the upper bits are all that lies above `L[17:0]`. -/
theorem shiftRight_eq_upper {a : Nat} (h : a < 2 ^ 35) : a >>> 18 = (ofLin a).upper := by
  simp only [ofLin, fld, Nat.shiftRight_eq_div_pow]
  omega

theorem linToBank_eq_toBank {a : Nat} (h : a < 2 ^ 35) : linToBank a = (ofLin a).hashed.toBank := by
  rw [← (fits_ofLin a).hashed.toBank_eq_or]
  simp only [linToBank, linToBank_hash]
  rw [shiftRight_eq_upper h]
  rfl

theorem bankToLin_eq_toLin (b : Nat) : bankToLin b = (ofBank b).hashed.toLin := by
  have hu : (b % 2 ^ 25) >>> 8 = fld b 24 8 := by
    simp only [fld_eq_div_mod, Nat.shiftRight_eq_div_pow]
    omega
  have hy : fld (b % 2 ^ 25) 7 0 = fld b 7 0 := by
    simp only [fld_eq_div_mod]
    omega
  rw [← (fits_ofBank b).hashed.toLin_eq_or]
  simp only [bankToLin, hu, hy]
  rfl

theorem ofBank_linToBank {a : Nat} (h : a < 2 ^ 35) : ofBank (linToBank a) = (ofLin a).hashed := by
  rw [linToBank_eq_toBank h, ofBank_toBank (fits_ofLin a).hashed]

theorem ofLin_bankToLin (b : Nat) : ofLin (bankToLin b) = (ofBank b).hashed := by
  rw [bankToLin_eq_toLin, ofLin_toLin (fits_ofBank b).hashed]

theorem linToBank_lt {a : Nat} (h : a < 2 ^ 35) : linToBank a < 2 ^ 35 :=
  linToBank_eq_toBank h ▸ toBank_lt (fits_ofLin a).hashed

theorem bankToLin_lt (b : Nat) : bankToLin b < 2 ^ 35 := bankToLin_eq_toLin b ▸ toLin_lt (fits_ofBank b).hashed

theorem bankToLin_linToBank {a : Nat} (h : a < 2 ^ 35) : bankToLin (linToBank a) = a := by
  rw [bankToLin_eq_toLin, ofBank_linToBank h, hashed_hashed, toLin_ofLin h]

theorem linToBank_bankToLin {b : Nat} (h : b < 2 ^ 35) : linToBank (bankToLin b) = b := by
  rw [linToBank_eq_toBank (bankToLin_lt b), ofLin_bankToLin, hashed_hashed, toBank_ofBank h]

/-- The bank of a linear address is the XOR of its five nibbles `L[33:14]` (R91). -/
theorem hashed_bank_ofLin {a : Nat} (h : a < 2 ^ 35) :
    (ofLin a).hashed.bank = fld a 17 14 ^^^ fld a 21 18 ^^^ fld a 25 22 ^^^ fld a 29 26 ^^^ fld a 33 30 := by
  calc (ofLin a).hashed.bank
    _ = fld a 17 14 ^^^ bankHash (ofLin a).upper := rfl
    _ = fld a 17 14 ^^^ (fld a 21 18 ^^^ fld a 25 22 ^^^ fld a 29 26 ^^^ fld a 33 30) := by
      rw [← shiftRight_eq_upper h, bankHash_shiftRight]
    _ = _ := by simp only [Nat.xor_assoc]

/-- Settles O30. Each mapping keeps the fields of R91 and puts the hash of `o[24:8]`, which it leaves alone, on the bank bits; the same hash put on
twice is gone. -/
theorem theTwoViewsAreOneToOne : Obligations.TheTwoViewsAreOneToOne := by
  unfold Obligations.TheTwoViewsAreOneToOne
  refine ⟨fun a h => ?_, fun b h => ⟨bankToLin_lt b, linToBank_bankToLin h⟩⟩
  have hf := ofBank_linToBank h
  exact ⟨linToBank_lt h, bankToLin_linToBank h, congrArg (·.stack) hf, congrArg (·.chan) hf,
    (congrArg (·.bank) hf).trans (hashed_bank_ofLin h), congrArg (·.upper) hf, congrArg (·.byte) hf⟩

end Sys2Proof.Proofs
end

section
/-! SUPPORT. The cold reset that `GLB_RESET` starts (19_power_pins.md: R410, R412, R415): what a cold reset leaves, and what a write of the key
reaches. -/

namespace Sys2Proof.Proofs
open Sys2Proof Sys2Proof.Machine Sys2Proof.Laws

variable {s : State}

/-! ## The registers that a cold reset keeps (R410) -/

/-- A key whose entries a filter keeps reads as before. -/
theorem spGet_filter_of_keeps {α : Type} {p : Nat × α → Bool} {k : Nat} (hp : ∀ v, p (k, v) = true) (d : α) (t : Sp α) :
    spGet d (t.filter p) k = spGet d t k := by
  induction t with
  | nil => rfl
  | cons e t ih =>
    obtain ⟨j, v⟩ := e
    by_cases hj : j = k
    · subst hj
      simp [hp, spGet]
    · rw [List.filter_cons]
      split <;> simp [spGet, hj, ih]

/-- The pages of the POWER domain keep their registers. -/
theorem spGet_powerRegs {pg : Page} (hm : pg ∈ [(⟨.glbFuse, 0, 0⟩ : Page), senseP, sbP]) {k : Nat} (hlo : pg.base * 8 ≤ k)
    (hhi : k < (pg.base + 0x1000) * 8) (d : Nat) : spGet d s.powerRegs k = spGet d s.regs k :=
  spGet_filter_of_keeps (fun _ => List.any_eq_true.mpr ⟨pg, hm, by simp [hlo, hhi]⟩) d s.regs

/-- A field of such a page that a cold reset does not write itself reads as before. -/
theorem coldState_f {pg : Page} (hm : pg ∈ [(⟨.glbFuse, 0, 0⟩ : Page), senseP, sbP]) {f : Fld} (hlo : pg.base * 8 ≤ regKey pg f)
    (hhi : regKey pg f < (pg.base + 0x1000) * 8) (busy : Sp Nat) (pins : Pins) (power : Power) :
    (s.coldState s.powerRegs busy pins power).f pg f = s.f pg f :=
  congrArg (· % 2 ^ f.width) (spGet_powerRegs hm hlo hhi f.rst)

/-! ## What a cold reset leaves (R410, R412) -/

theorem startCold_cause (s : State) (cause : Nat) : (s.startCold cause).f senseP MgtSense.RST_CAUSE = cause % 2 ^ 4 :=
  (bump_f_ne _ (by decide) 1).trans (setF_f_same _ _ _ _)

/-- `COLD_CNT` lies in the POWER domain, so that it counts on. -/
theorem startCold_count (s : State) (cause : Nat) :
    (s.startCold cause).f senseP MgtSense.COLD_CNT = satN 16 (s.f senseP MgtSense.COLD_CNT + 1) := by
  unfold State.startCold
  dsimp only
  rw [bump_f_same, satN_mod, setF_f_ne _ (by decide), coldState_f (by decide) (by decide) (by decide)]
  rfl

/-- The COLD domain is held, nothing in it is locked, and the fuses are as they were. -/
theorem startCold_empties (s : State) (cause : Nat) :
    let t := s.startCold cause
    t.power.inCold = true ∧ t.power.locked = false ∧ t.mem = [] ∧ t.slices = [] ∧ t.ctxs = [] ∧ t.cmds = [] ∧ t.fuses = s.fuses :=
  ⟨rfl, rfl, rfl, rfl, rfl, rfl, rfl⟩

/-! ## The write of the key (R415) -/

/-- What a write of the word `GLB_RESET` reaches: the eight bits of the key. -/
def keyWr (v : W32) : Wr := { fld := GlbCtrl.GLB_RESET_KEY, bits := v.toNat % 256, mask := 255 }

theorem fieldsAt_key : fieldsAt .glbCtrl 0xC0 = [(GlbCtrl.GLB_RESET_KEY, false)] := by decide

theorem writable_key : writable glbP 0xC0 = [(GlbCtrl.GLB_RESET_KEY, false)] := by decide

theorem part_key (v : W32) : GlbCtrl.GLB_RESET_KEY.part false v.toNat = (v.toNat % 256, 255) :=
  Prod.ext (Nat.and_two_pow_sub_one_eq_mod v.toNat 8) rfl

theorem wrOf_key (v : W32) : wrOf .glbCtrl [word glbP 0xC0 v.toNat] = [keyWr v] := by
  have hd : (word glbP 0xC0 v.toNat).data = v.toNat := Nat.mod_eq_of_lt v.isLt
  have ho : (word glbP 0xC0 v.toNat).off = 0xC0 := base_mod glbP (by decide)
  have hw : writable ⟨.glbCtrl, 0, 0⟩ 0xC0 = [(GlbCtrl.GLB_RESET_KEY, false)] := writable_key
  simp only [wrOf, List.foldl_cons, List.foldl_nil, ho, hw, hd, part_key]
  rfl

/-- The key is not stored: the word starts a cold reset, or does nothing. -/
theorem applyWords_key (s : State) (src : Src) (v : W32) :
    s.applyWords src glbP [word glbP 0xC0 v.toNat] [] = if v.toNat % 256 = 0xC5 then s.startCold 2 else s := by
  unfold State.applyWords
  rw [show glbP.kind = .glbCtrl from rfl, wrOf_key]
  dsimp only [List.foldl]
  rw [show s.takeWr glbP (keyWr v) = s from rfl, irqEdge_same]
  rfl

theorem glbReset_next {p : Fin 4} (h : s.letsWrite p glbP = true) (v : W32) :
    exec (.glbReset (.port p) v) s = .next (if v.toNat % 256 = 0xC5 then s.startCold 2 else s) :=
  calc exec (.glbReset (.port p) v) s = .next (s.write4 (.port p) glbP 0xC0 v.toNat) := rfl
    _ = .next (s.applyWords (.port p) glbP [word glbP 0xC0 v.toNat] []) := by
        rw [write4_acts (by decide) h _ (by decide) (by decide)]
    _ = .next (if v.toNat % 256 = 0xC5 then s.startCold 2 else s) := by rw [applyWords_key]

/-- The one field of the word is write-only (R8). -/
theorem readWord_key (s : State) : s.readWord glbP 0xC0 = 0 := by
  unfold State.readWord
  rw [show glbP.kind = .glbCtrl from rfl, fieldsAt_key]
  rfl

/-- Settles O18. The word of `GLB_RESET` reaches its key alone, which starts the cold reset or nothing; the count of cold resets is the POWER
domain's and counts on while the COLD domain is emptied. -/
theorem onlyTheKeyStartsAColdReset : Obligations.OnlyTheKeyStartsAColdReset := by
  unfold Obligations.OnlyTheKeyStartsAColdReset
  refine fun s p v h => ⟨readWord_key s, fun hv => ?_, fun hv => ⟨s.startCold 2, ?_, ?_⟩⟩
  · rw [glbReset_next h, if_neg hv]
  · rw [glbReset_next h, if_pos hv]
  · obtain ⟨hcold, hlock, hmem, hslices, hctxs, hcmds, hfuses⟩ := startCold_empties s 2
    exact ⟨hcold, hlock, startCold_cause s 2, startCold_count s 2, hmem, hslices, hctxs, hcmds, hfuses⟩

end Sys2Proof.Proofs
end
